-- ==== Sys2Proof/Word.lean ====
section
/-! DEFINITION. The word types of the BLV9600 (00 R4 to R7): what the manual treats as bits is a bit vector. -/

namespace Sys2Proof

/-- A scalar, control register or memory word of 64 bits (10 R183). -/
abbrev Word := BitVec 64

/-- One byte of memory (00 R6). -/
abbrev Byte := BitVec 8

/-- One bit for each of the 128 lanes (10 R186). -/
abbrev LaneMask := BitVec 128

end Sys2Proof
end

