-- ==== Sys2Proof/Syntax.lean ====
section
/-! DEFINITION. The syntax: one constructor of Instr for each row of spec/opcode_table.json. Rows NOP to MCRED are slot
instructions, whose fields are those of 14 R251 to R258; every other row is an event, whose fields are what the agent
that raises it supplies (log 1). -/

namespace Sys2Proof

/-- The 7-bit guard of a slot: a predicate p0 to p63 and a negate bit (14 R246). -/
structure Guard where
  pred : Nat
  neg : Bool
  deriving DecidableEq, Repr

/-- The X slot (14 R252): DST, SA, the immediate bit I, SB, and the claimed literal if there is one (14 R250). -/
structure XArgs where
  guard : Guard
  dst : Nat
  sa : Nat
  imm : Bool
  sb : Nat
  lit : Option Nat
  deriving DecidableEq, Repr

/-- An M slot (14 R253): the port (false M0, true M1), PLY, W, BASE, OFF and the claimed literal. -/
structure MArgs where
  port : Bool
  guard : Guard
  ply : Nat
  w : Nat
  base : Nat
  off : Nat
  lit : Option Nat
  deriving DecidableEq, Repr

/-- ldx and stx in an M slot (14 R253): the scalar, the size code and, for ldx, the sign bit. -/
structure ScalarMemArgs where
  port : Bool
  guard : Guard
  reg : Nat
  size : Nat
  sgn : Bool
  base : Nat
  off : Nat
  lit : Option Nat
  deriving DecidableEq, Repr

/-- An atomic in an M slot (14 R253, 16 R295): D, size code, level, BASE, OFF[13:6] and S. -/
structure AtomArgs where
  port : Bool
  guard : Guard
  dst : Nat
  size : Nat
  level : Nat
  base : Nat
  off : Nat
  src : Nat
  lit : Option Nat
  deriving DecidableEq, Repr

/-- A V slot (14 R254, R255): the port (false V0, true V1), the low part of OP (sub: the format of a float family, s of
an integer form, 1 for an unsigned conversion; b: Q or I), DW, DST, SW, SA and SB. -/
structure VArgs where
  port : Bool
  guard : Guard
  sub : Nat
  b : Bool
  dw : Nat
  dst : Nat
  sw : Nat
  sa : Nat
  sb : Nat
  deriving DecidableEq, Repr

/-- The T slot (14 R257). -/
structure TArgs where
  guard : Guard
  neg : Bool
  disc : Bool
  blk : Bool
  ow : Bool
  cks : Bool
  desc : Nat
  row : Nat
  aux : Nat
  deriving DecidableEq, Repr

/-- The E slot (14 R258). -/
structure EArgs where
  guard : Guard
  sa : Nat
  sb : Nat
  sc : Nat
  ofs : Nat
  post : Bool
  cf : Nat
  lit : Option Nat
  deriving DecidableEq, Repr

/-- A fabric packet (02 R27) as a port hands it to the Spindle: port is the port it came in on, resv the reserved bits of its
header in their places, data its payload. The manual's header has no place for the error code that an ACK, READ_DATA or
REDUCE_RESULT reports (02 R35) nor for the operation of an ATOMIC: err (0 for none) and op are the model's own fields for them
(DESIGN CHOICE, log 26). -/
structure Packet where
  kind : Nat
  port : Nat
  vc : Nat
  hops : Nat
  dst : Nat
  src : Nat
  mcast : Bool
  tag : Nat
  fmt : Nat
  nflits : Nat
  addr : Nat
  seq : Nat
  key : Nat
  nr : Nat
  count : Nat
  resv : Nat
  err : Nat
  op : Nat
  data : List Byte
  deriving DecidableEq, Repr

/-- What the world supplies to a bring-up (01 R20, R23): whether MAIN48 is present, the helper-data check of the PUF, the validity and
sequence number of each configuration-record slot, the verification of the active and of the other image, the physical clusters
(0 to 67) that fail the scan, and the ports that can train, each with the peer's package and port. -/
structure BootInput where
  main48 : Bool
  pufOk : Bool
  recA : Option Nat
  recB : Option Nat
  imgActive : Bool
  imgOther : Bool
  failing : List Nat
  ports : List (Nat × Nat × Nat)
  deriving DecidableEq, Repr

/-- What the configuration record holds (01 R16, R18, R22, R23, 05 R93): its version, the package number and the routing table, the spare
map and the retirements of clusters and array rows, the ports to train, the thermal calibration and the minimum security version. -/
structure ConfigRecord where
  cfgVer : Nat
  fabid : Nat
  routes : List (Nat × BitVec 32)
  bind : List (Nat × Nat)
  retired : List Nat
  homeless : List Nat
  spares : List (Nat × Nat)
  ports : List Nat
  thermal : List Nat
  minSvn : Nat
  deriving DecidableEq, Repr

/-- What a PLDM Type 5 request transfers (05 R97, R99): nothing, a firmware image, or a configuration record with its sequence number
and whether its signature verifies. -/
inductive PldmPart where
  | nothing
  | image (data : List Byte)
  | record (signed : Bool) (seq : Nat) (r : ConfigRecord)
  deriving DecidableEq, Repr

/-- A PLDM Type 5 request: the command it drives, in the form of FWCTL, and what it transfers (05 R92, R97). -/
structure PldmUpdate where
  val : Word
  part : PldmPart
  deriving DecidableEq, Repr

/-- Where the carder or a read found an error (07 R118, R123). -/
inductive EccSpace where
  | registerState (core : Nat)
  | smallFiles (core : Nat)
  | codeOrDict (core entry : Nat) (dict : Bool)
  | vault (core line : Nat)
  | l2 (line : Nat) (dirty : Bool)
  | shadow (slot line : Nat)
  | hbm (line : Nat)
  | tier (line : Nat)
  deriving DecidableEq, Repr

/-- A PLDM Type 2 sensor (05 R98). -/
inductive Sensor where
  | main48Power
  | junction (die : Nat)
  | stack (n : Nat)
  | coolant
  | stby12
  | devstat
  | portState (n : Nat)
  | scanState (die : Nat)
  deriving DecidableEq, Repr

/-- The instructions and events, one constructor for each row of spec/opcode_table.json. -/
inductive Instr where
  -- reset, power and bring-up (01)
  | powerUp (b : BootInput)
  | powerLimitHold (cond : Nat)
  | admissionResume (cond : Nat)
  -- host memory interface (03)
  | hdmWrite (pa : Nat) (data : List Byte)
  | hdmRead (pa len : Nat)
  | backInvalidateAnswer (line : Nat)
  | backInvalidateTimeout (line : Nat)
  | registerWrite (off size : Nat) (val : Word)
  -- queues and packets (04)
  | qcmdCreate (q : Nat)
  | qcmdDestroy (q : Nat)
  | qtailWrite (q : Nat) (val : Word)
  | launch (q : Nat)
  | wait (q : Nat)
  | waitPoll (q : Nat)
  | waitTimeout (q : Nat)
  | signal (q : Nat)
  | copyPacket (q : Nat)
  | copyPacketDone (q : Nat)
  | query (q : Nat)
  | tellerTrapEvent (core : Nat)
  | linkEvent (port : Nat)
  | packageLoss (pkg mask : Nat)
  -- tellers and management (05)
  | nqcfgWrite (val : Word)
  | nqconsWrite (val : Word)
  | fwctlStage (val : Word)
  | fwStaged (flashOk : Bool)
  | fwctlActivate (val : Word)
  | fwctlAbort (val : Word)
  | pldmSensorRead (sensor : Sensor)
  | pldmAdmissionHold (hold : Bool)
  | pldmFwUpdate (req : PldmUpdate)
  -- fabric (02)
  | flitCrcReplay (port : Nat)
  | portReplayLimit (port : Nat)
  | portRxTimeout (port : Nat)
  | heartbeatSend (port : Nat)
  | heartbeat (port : Nat) (p : Packet)
  | portLaneLoss (port : Nat)
  | portTrained (port peerPkg peerPort : Nat)
  | fabricWrite (p : Packet)
  | readReq (p : Packet)
  | readData (p : Packet)
  | fabricAtomic (p : Packet)
  | ack (p : Packet)
  | ackTimeout (tag : Nat)
  | reduceContrib (p : Packet)
  | reduceResult (p : Packet)
  | groupTimerExpiry (g : Nat)
  | debugHold (p : Packet)
  | debugRelease (p : Packet)
  | routeUpdate (port : Nat) (p : Packet) (table : List (Nat × Nat))
  | groupEntryWrite (g word : Nat) (val : Word)
  -- translation, heat and migration (03)
  | tlbWalkDone (core id : Nat)
  | heatCfgWrite (val : Word)
  | migrationCopy (m : Nat)
  | migrationRepoint (m : Nat)
  | migrationReplay (m : Nat)
  | migrationFinish (m : Nat)
  -- scheduling (06)
  | preemptStop (q : Nat)
  | preemptResume (q : Nat)
  | ctxsaveWrite (val : Word)
  -- reliability (06, 07)
  | scanName (die : Nat)
  | scanwaitExpiry (core : Nat)
  | scanMigration (die : Nat)
  | scanResult (die : Nat) (pass : Bool)
  | scanInPlace (die cluster : Nat)
  | rowRetire (core : Nat)
  | relcfgWrite (val : Word)
  | carderScrub (space : EccSpace) (double : Bool)
  -- debug (08)
  | dbgStop (core : Nat)
  | dbgResume (core : Nat)
  | dbgStep (core arg : Nat)
  | dbgStepDone (core : Nat)
  | dbgHold (epoch : Nat)
  | dbgRelease (epoch : Nat)
  | trccfgWrite (val : Word)
  | trcconsWrite (val : Word)
  | sketchSeedWrite (val : Word)
  | skctlWrite (val : Word)
  | sketchQuery (x : Word)
  | dumpStart (val : Word)
  -- late results and waits of a core (09, 11)
  | globalResultArrive (core id : Nat)
  | remoteWritePerform (core id : Nat)
  | relPerform (core : Nat)
  | engineComplete (core id : Nat)
  | flagWaitSatisfy (core : Nat)
  | rdvRoundRelease (launch group : Nat)
  | allowanceExpiry (core : Nat)
  -- the C slot (15); nop is opcode 0 of any slot
  | br (g : Guard) (neg : Bool) (pred target : Nat)
  | brs (g : Guard) (neg fault : Bool) (sk target : Nat)
  | call (g : Guard) (target : Nat)
  | ret (g : Guard)
  | loop (g : Guard) (imm : Bool) (n last : Nat)
  | spool (g : Guard) (sk bm1 table : Nat)
  | rep (g : Guard) (imm : Bool) (n : Nat)
  | rdv (g : Guard) (sv sd nm1 group : Nat)
  | selv (g : Guard) (table : Nat)
  | setf (g : Guard) (val : Bool) (core flag : Nat)
  | waitf (g : Guard) (val : Bool) (flag : Nat)
  | ppt (g : Guard)
  | pptScan (g : Guard)
  | relPkg (g : Guard)
  | relSys (g : Guard)
  | fenceE (g : Guard)
  | rfence (g : Guard)
  | movc (g : Guard) (ss reg : Nat)
  | rdc (g : Guard) (sd reg : Nat)
  | brk (g : Guard)
  | eret (g : Guard)
  | halt (g : Guard)
  -- the X slot (16)
  | xAdd (x : XArgs)
  | xSub (x : XArgs)
  | xMul (x : XArgs)
  | mulhu (x : XArgs)
  | mulhs (x : XArgs)
  | xAnd (x : XArgs)
  | xOr (x : XArgs)
  | xXor (x : XArgs)
  | xShl (x : XArgs)
  | xShr (x : XArgs)
  | sar (x : XArgs)
  | xMin (x : XArgs)
  | xMax (x : XArgs)
  | minu (x : XArgs)
  | maxu (x : XArgs)
  | ceq (x : XArgs)
  | cne (x : XArgs)
  | clt (x : XArgs)
  | cltu (x : XArgs)
  | cle (x : XArgs)
  | cleu (x : XArgs)
  | ext (x : XArgs)
  | exts (x : XArgs)
  | ins (x : XArgs)
  | movh (x : XArgs)
  | rdi (x : XArgs)
  | popc (x : XArgs)
  | clz (x : XArgs)
  -- the M slots (16)
  | ldV (m : MArgs)
  | ldC (m : MArgs)
  | ldD (m : MArgs)
  | ldG (m : MArgs)
  | stV (m : MArgs)
  | stC (m : MArgs)
  | stD (m : MArgs)
  | stG (m : MArgs)
  | ldsV (m : MArgs)
  | ldsG (m : MArgs)
  | chksV (m : MArgs)
  | chksG (m : MArgs)
  | ldply (m : MArgs)
  | stply (m : MArgs)
  | ldcb (m : MArgs)
  | ldxV (m : ScalarMemArgs)
  | ldxG (m : ScalarMemArgs)
  | stxV (m : ScalarMemArgs)
  | stxG (m : ScalarMemArgs)
  | atomAdd (a : AtomArgs)
  | atomSwap (a : AtomArgs)
  | atomAnd (a : AtomArgs)
  | atomOr (a : AtomArgs)
  | atomXor (a : AtomArgs)
  | atomMax (a : AtomArgs)
  | atomMin (a : AtomArgs)
  | atomCas (a : AtomArgs)
  -- the V slots: float (17, 18)
  | vfAdd (v : VArgs)
  | vfSub (v : VArgs)
  | vfMul (v : VArgs)
  | vfFma (v : VArgs)
  | vfDiv (v : VArgs)
  | vfMin (v : VArgs)
  | vfMax (v : VArgs)
  | sqrt (v : VArgs)
  | vfAbs (v : VArgs)
  | vfNeg (v : VArgs)
  | rcp (v : VArgs)
  | rsqrt (v : VArgs)
  | exp (v : VArgs)
  | log (v : VArgs)
  | sin (v : VArgs)
  | cos (v : VArgs)
  | tanh (v : VArgs)
  | sigmoid (v : VArgs)
  | erf (v : VArgs)
  | vfCmp (v : VArgs)
  | vfSel (v : VArgs)
  | cvt (v : VArgs)
  | pand (v : VArgs)
  | por (v : VArgs)
  | pxor (v : VArgs)
  | pandn (v : VArgs)
  | porn (v : VArgs)
  | pmov (v : VArgs)
  | perm (v : VArgs)
  | red (v : VArgs)
  | xcopy (v : VArgs)
  | jseed (v : VArgs)
  | jset (v : VArgs)
  | jget (v : VArgs)
  | jgetD (v : VArgs)
  | jdif (v : VArgs)
  | jint (v : VArgs)
  | flgrd (v : VArgs)
  | flgclr (v : VArgs)
  -- the V slots: integer (17)
  | viAdd (v : VArgs)
  | viSub (v : VArgs)
  | viMul (v : VArgs)
  | viAddSat (v : VArgs)
  | viSubSat (v : VArgs)
  | viMulSat (v : VArgs)
  | viMin (v : VArgs)
  | viMax (v : VArgs)
  | viAnd (v : VArgs)
  | viOr (v : VArgs)
  | viXor (v : VArgs)
  | viAndn (v : VArgs)
  | viShl (v : VArgs)
  | viShr (v : VArgs)
  | viCmp (v : VArgs)
  | viSel (v : VArgs)
  | viMov (v : VArgs)
  | viAbs (v : VArgs)
  | viNeg (v : VArgs)
  | viMulh (v : VArgs)
  -- the T slot (13, 19)
  | zero (t : TArgs)
  | push (t : TArgs)
  | shift (t : TArgs)
  | assayBeat (t : TArgs)
  | acc (t : TArgs)
  | shiftAcc (t : TArgs)
  | assayAcc (t : TArgs)
  | drain (t : TArgs)
  -- the E slot (19)
  | copy (e : EArgs)
  | tcopy (e : EArgs)
  | transp (e : EArgs)
  | convE (e : EArgs)
  | gather (e : EArgs)
  | scatter (e : EArgs)
  | hget (e : EArgs)
  | hput (e : EArgs)
  | fput (e : EArgs)
  | fget (e : EArgs)
  | fatom (e : EArgs)
  | mcred (e : EArgs)
  -- the two rows at the end of the table
  | globalStorePerform (core id : Nat)
  -- the rows without operands stand last (a limit of Lean's compiler on constructors with fields)
  | stby12Loss
  | thermalTrip
  | main48Loss
  | hostLinkReset
  | hostLinkRetrain
  | fwHandover
  | quiesceTmo
  | fwHeartbeat
  | heartbeatDeadline
  | rollbackDeadline
  | getVersion
  | getCapabilities
  | negotiateAlgorithms
  | getDigests
  | getCertificate
  | challenge
  | getMeasurements
  | mctpControl
  | pldmBaseRequest
  | pldmIdentity
  | pldmFruRead
  | pldmSpindleReset
  | pldmComputeReset
  | tlbinvDb
  | shootdownComplete
  | heatDecay
  | pageHeat
  | migDb
  | launchClaim
  | launchRelease
  | launchComplete
  | ladderT1
  | ladderT2
  | contextSaveDone
  | contextRestart
  | rowDecay
  | carderRate
  | skctlClr
  | sketchQueryDone
  | dumpComplete
  | hostSnoop
  | nop
  deriving DecidableEq, Repr

end Sys2Proof
end

