-- ==== Sys2Proof/WellFormed.lean ====
section
/-! DEFINITION. Well-formed instructions: the field ranges of 14 R251 to R258 and every reserved value that 14 R247 turns
into ILLEGAL. A check that depends on a value at issue is not here but in the meanings. -/

namespace Sys2Proof

/-- A guard names p0 to p63 (14 R246). -/
def Guard.wf (g : Guard) : Bool := g.pred < 64

/-- A claimed literal has 32 bits (14 R250). -/
def litWf (l : Option Nat) : Bool :=
  match l with
  | none => true
  | some v => v < 4294967296

/-- Ranges of the X slot's fields, the claim rule of 14 R250 (a claimed SB holds 0, and only I = 1 can be claimed), and
SB[14:6] = 0 when I = 0 (14 R252). -/
def XArgs.wf (x : XArgs) : Bool :=
  x.guard.wf && x.dst < 64 && x.sa < 64 && x.sb < 32768 && litWf x.lit
    && (x.imm || (x.sb < 64 && x.lit.isNone)) && (x.lit.isNone || x.sb == 0)

/-- The pos and len layout of ext, exts and ins, in SB or in the literal (14 R250, R252). -/
def fieldLayoutWf (f : Nat) : Bool := f < 4096 && f % 64 + (f / 64 % 64 + 1) ≤ 64

/-- The layout word of a bit-field form. -/
def XArgs.layout (x : XArgs) : Nat := x.lit.getD x.sb

/-- ext, exts and ins: I = 1 only, with a legal layout. -/
def XArgs.bitFieldWf (x : XArgs) : Bool := x.wf && x.imm && fieldLayoutWf x.layout

/-- popc and clz: I = 0 only, SB = 0. -/
def XArgs.unaryWf (x : XArgs) : Bool := x.wf && !x.imm && x.sb == 0

/-- Ranges of an M slot's fields; a claimed OFF holds 0 (14 R250, R253). -/
def MArgs.wf (m : MArgs) : Bool :=
  m.guard.wf && m.ply < 2048 && m.w < 16 && m.base < 64 && m.off < 16384 && litWf m.lit
    && (m.lit.isNone || m.off == 0)

/-- ldcb: PLY and W are 0. -/
def MArgs.ldcbWf (m : MArgs) : Bool := m.wf && m.ply == 0 && m.w == 0

/-- ldx and stx (14 R253, 16 R290): sgn is 0 for stx. -/
def ScalarMemArgs.wf (m : ScalarMemArgs) : Bool :=
  m.guard.wf && m.reg < 64 && m.size < 4 && m.base < 64 && m.off < 16384 && litWf m.lit
    && (m.lit.isNone || m.off == 0)

/-- stx takes only the unsigned suffixes (16 R290). -/
def ScalarMemArgs.storeWf (m : ScalarMemArgs) : Bool := m.wf && !m.sgn

/-- Atomics: sizes 10 and 11 only; a claim replaces OFF[13:6], which then holds 0 (14 R250, R253). -/
def AtomArgs.wf (a : AtomArgs) : Bool :=
  a.guard.wf && a.dst < 64 && (a.size == 2 || a.size == 3) && a.level < 4 && a.base < 64 && a.off < 256
    && a.src < 64 && litWf a.lit && (a.lit.isNone || a.off == 0)

/-- Ranges of a V slot's fields (14 R254). -/
def VArgs.wf (v : VArgs) : Bool :=
  v.guard.wf && v.dw < 16 && v.dst < 2048 && v.sw < 16 && v.sa < 2048 && v.sb < 2048

/-- A width field's code 0 stands for 16 (14 R254). -/
def widthOf (code : Nat) : Nat := if code = 0 then 16 else code

/-- Plies of a float format of the V slot: f64, f32, bf16, f16 (10 R173). -/
def fmtPlies (fmt : Nat) : Nat := if fmt = 0 then 16 else if fmt = 1 then 8 else 4

/-- Float binary forms (14 R254, R255). -/
def VArgs.binaryWf (v : VArgs) : Bool :=
  v.wf && v.sub < 4 && widthOf v.dw == fmtPlies v.sub && widthOf v.sw == fmtPlies v.sub

/-- Float unary forms: SB is the function (14 R256). -/
def VArgs.unaryWf (f : Nat) (v : VArgs) : Bool := v.binaryWf && v.sb == f

/-- Float compare: conditions 0 to 7, a predicate in DST (14 R254, R256). -/
def VArgs.cmpWf (v : VArgs) : Bool :=
  v.wf && v.sub < 4 && v.dw < 8 && v.dst < 128 && widthOf v.sw == fmtPlies v.sub

/-- Float select: odd OP reserved, a predicate in SB. -/
def VArgs.selWf (v : VArgs) : Bool := v.binaryWf && !v.b && v.sb < 128

/-- Plies of the formats of a conversion's control (14 R256); 111 is an integer of any width. -/
def cvtPlies (f : Nat) : Option Nat :=
  match f with
  | 0 => some 16
  | 1 => some 8
  | 2 => some 4
  | 3 => some 4
  | 4 => some 2
  | 5 => some 2
  | 6 => some 1
  | _ => none

/-- (precision, largest exponent, exponent of the smallest subnormal) of a conversion's float formats (12 R209). -/
def cvtShape (f : Nat) : Option (Nat × Int × Int) :=
  match f with
  | 0 => some (53, 1023, -1074)
  | 1 => some (24, 127, -149)
  | 2 => some (8, 127, -133)
  | 3 => some (11, 15, -24)
  | 4 => some (3, 15, -16)
  | 5 => some (4, 8, -9)
  | 6 => some (2, 2, -1)
  | _ => none

/-- A float widening: the destination holds every source value exactly. DEDUCED from 12 R219, unsafe (log 19). -/
def cvtWidening (d s : Nat) : Bool :=
  match cvtShape d, cvtShape s with
  | some (pd, hd, ld), some (ps, hs, ls) => ps ≤ pd && hs ≤ hd && ld ≤ ls
  | _, _ => false

/-- Conversions (14 R256, 17 R308). -/
def VArgs.cvtWf (v : VArgs) : Bool :=
  let mode := v.sb / 256
  let pol := v.sb / 64 % 4
  let d := v.sb / 8 % 8
  let s := v.sb % 8
  v.wf && v.sub < 2 && (mode < 5 || mode == 7) && d != s && (mode != 4 || (2 ≤ d && d ≤ 5))
    && (pol == 0 || !cvtWidening d s)
    && (cvtPlies d == none || cvtPlies d == some (widthOf v.dw))
    && (cvtPlies s == none || cvtPlies s == some (widthOf v.sw))
    && (v.sub == 0 || d == 7 || s == 7)

/-- Predicate logic: DW is the function, the fields name p0 to p127, SW is 0 (14 R254, 17 R312). -/
def VArgs.predWf (f : Nat) (v : VArgs) : Bool :=
  v.wf && v.sub == 0 && !v.b && v.dw == f && v.sw == 0 && v.dst < 128 && v.sa < 128 && v.sb < 128
    && (f != 5 || v.sb == 0)

/-- perm (17 R313). -/
def VArgs.permWf (v : VArgs) : Bool :=
  v.wf && v.sub == 0 && !v.b && v.dw == v.sw && v.sb / 256 < 6 && v.sb / 16 % 16 == 0
    && (v.sb / 256 != 5 || v.sb % 16 == 0)

/-- red (17 R314). -/
def VArgs.redWf (v : VArgs) : Bool :=
  let op := v.sb / 256
  let ty := v.sb / 32 % 8
  v.wf && v.sub == 0 && op < 7 && ty < 6 && v.sb % 32 == 0 && (op < 3 || 4 ≤ ty) && (!v.b || ty < 4)
    && (4 ≤ ty || (widthOf v.dw == fmtPlies ty && widthOf v.sw == fmtPlies ty))

/-- xcopy (17 R315). -/
def VArgs.xcopyWf (v : VArgs) : Bool :=
  v.wf && v.sub == 0 && !v.b && v.dw == v.sw && v.sb / 512 < 3 && v.sb / 8 % 64 == 0

/-- Jet forms: SB[10:8] the operation, SB[7:3] = 0; J is 0 under jseed, jdif and jint (18 R317). -/
def VArgs.jetWf (op : Nat) (v : VArgs) : Bool :=
  v.binaryWf && v.sb / 256 == op && v.sb / 8 % 32 == 0 && (op == 1 || op == 2 || op == 3 || v.sb % 8 == 0)

/-- flgrd (18 R325). -/
def VArgs.flgrdWf (v : VArgs) : Bool :=
  v.wf && v.sub == 0 && !v.b && v.dw == 10 && v.sw == 0 && v.sa == 0 && v.sb == 0

/-- flgclr (18 R326). -/
def VArgs.flgclrWf (v : VArgs) : Bool :=
  v.wf && v.sub == 0 && !v.b && v.sw == 10 && v.dw == 0 && v.dst == 0 && v.sb == 0

/-- Integer forms: sub is s (14 R255). -/
def VArgs.intWf (v : VArgs) : Bool := v.wf && v.sub < 2

/-- Integer compare: conditions 0 to 5 (14 R256). -/
def VArgs.intCmpWf (v : VArgs) : Bool := v.intWf && v.dw < 6 && v.dst < 128

/-- Integer select: I = 0, a predicate in SB. -/
def VArgs.intSelWf (v : VArgs) : Bool := v.intWf && !v.b && v.sb < 128

/-- Integer mov: SB = 0 when I = 0, SA and SW 0 when I = 1 (14 R255). -/
def VArgs.intMovWf (v : VArgs) : Bool :=
  v.intWf && (if v.b then v.sa == 0 && v.sw == 0 else v.sb == 0)

/-- Integer abs (signed only) and neg: I = 0 and SB = 0. -/
def VArgs.intUnaryWf (v : VArgs) : Bool := v.intWf && !v.b && v.sb == 0

/-- Ranges of the T slot's fields (14 R257). -/
def TArgs.wf (t : TArgs) : Bool := t.guard.wf && t.desc < 16 && t.row < 128 && t.aux < 8192

/-- No modifier is set. -/
def TArgs.plain (t : TArgs) : Bool := !t.neg && !t.disc && !t.blk && !t.ow && !t.cks

/-- Ranges of the E slot's fields; a claimed SC holds 0 (14 R250, R258). -/
def EArgs.wf (e : EArgs) : Bool :=
  e.guard.wf && e.sa < 64 && e.sb < 64 && e.sc < 64 && e.ofs < 1024 && e.cf < 64 && litWf e.lit
    && (e.lit.isNone || e.sc == 0)

/-- The control registers of 10 R188 that a movc may name. -/
def ctrlWritable (n : Nat) : Bool := n ≤ 7 || (32 ≤ n && n ≤ 51) || (64 ≤ n && n ≤ 70)

/-- An address of a code halfword. -/
def target16 (n : Nat) : Bool := n < 65536

/-- A core number of an event. -/
def coreOk (n : Nat) : Bool := n < 256

/-- A port number of an event. -/
def portOk (n : Nat) : Bool := n < 24

/-- The port a packet or table came in on; 24 stands for the Spindle itself. -/
def sourceOk (n : Nat) : Bool := n ≤ 24

/-- A queue number of an event. -/
def queueOk (n : Nat) : Bool := n < 1024

/-- The reserved bits of a header of 64 bytes (02 R27). -/
def headerResv : Nat :=
  7 * 2 ^ 13 + 2 ^ 39 + 7 * 2 ^ 61 + 127 * 2 ^ 121 + (2 ^ 26 - 1) * 2 ^ 166 + (2 ^ 288 - 1) * 2 ^ 224

/-- A packet's fields lie in the widths of 02 R27, and resv in the header's reserved bits. -/
def Packet.wf (p : Packet) : Bool :=
  sourceOk p.port && p.kind < 256 && p.vc < 4 && p.nflits < 16 && Nat.land p.resv headerResv = p.resv && p.hops < 8
    && p.dst < 2048 && p.src < 2048 && p.tag < 4096 && p.fmt < 32 && p.addr < 2 ^ 57 && p.seq < 65536 && p.key < 2048 && p.nr < 2048 && p.count < 4294967296

/-- Well-formed instructions and events. -/
def Instr.wf (i : Instr) : Bool :=
  match i with
  | .powerUp b => b.ports.all (fun p => portOk p.1)
  | .registerWrite off _ _ => off < 16777216
  | .qcmdCreate q | .qcmdDestroy q | .qtailWrite q _ | .launch q | .wait q | .waitPoll q | .waitTimeout q
  | .signal q | .copyPacket q | .copyPacketDone q | .query q | .preemptStop q | .preemptResume q => queueOk q
  | .tellerTrapEvent c | .scanwaitExpiry c | .rowRetire c | .dbgStop c | .dbgResume c | .dbgStep c _
  | .dbgStepDone c | .relPerform c | .flagWaitSatisfy c | .allowanceExpiry c => coreOk c
  | .tlbWalkDone c _ | .globalResultArrive c _ | .remoteWritePerform c _ | .engineComplete c _
  | .globalStorePerform c _ => coreOk c
  | .linkEvent p | .flitCrcReplay p | .portReplayLimit p | .portRxTimeout p | .heartbeatSend p
  | .portLaneLoss p | .portTrained p _ _ => portOk p
  | .routeUpdate n p _ => sourceOk n && p.wf
  | .packageLoss pkg mask => pkg < 2048 && mask < 2 ^ 24
  | .fabricWrite p | .readReq p | .readData p | .fabricAtomic p | .ack p | .reduceContrib p | .reduceResult p
  | .debugHold p | .debugRelease p => p.wf
  | .heartbeat n p => portOk n && p.wf
  | .ackTimeout t => t < 4096
  | .groupTimerExpiry g => g < 256
  | .groupEntryWrite g w _ => g < 256 && w < 2
  | .migrationCopy m | .migrationRepoint m | .migrationReplay m | .migrationFinish m => m < 4
  | .scanName d | .scanMigration d | .scanResult d _ => d < 4
  | .scanInPlace d c => d < 4 && c < 17
  | .dbgHold e | .dbgRelease e => e < 65536
  | .rdvRoundRelease _ g => g < 256
  | .powerLimitHold c => c < 3
  | .admissionResume c => c < 3 || c = 4
  | .hdmWrite .. | .hdmRead .. | .backInvalidateAnswer _ | .backInvalidateTimeout _ | .hostSnoop
  | .launchClaim | .launchRelease | .launchComplete | .ladderT1 | .ladderT2 | .contextSaveDone
  | .contextRestart | .nqcfgWrite _ | .nqconsWrite _ | .fwctlStage _ | .fwStaged _ | .fwctlActivate _
  | .fwctlAbort _ | .ctxsaveWrite _ | .relcfgWrite _ | .heatCfgWrite _ | .trccfgWrite _ | .trcconsWrite _
  | .sketchSeedWrite _ | .skctlWrite _ | .sketchQuery _ | .dumpStart _ | .pldmFwUpdate .. => true
  | .heartbeatDeadline | .getCertificate | .challenge | .mctpControl | .pldmBaseRequest
  | .pldmSensorRead _ | .pldmAdmissionHold _ | .carderScrub .. | .carderRate => true
  | .stby12Loss | .thermalTrip | .main48Loss | .hostLinkReset | .hostLinkRetrain | .fwHandover | .quiesceTmo
  | .fwHeartbeat | .rollbackDeadline | .getVersion | .getCapabilities | .negotiateAlgorithms | .getDigests
  | .getMeasurements | .pldmIdentity | .pldmFruRead | .pldmSpindleReset | .pldmComputeReset | .tlbinvDb
  | .shootdownComplete | .heatDecay | .pageHeat | .migDb | .rowDecay | .skctlClr | .sketchQueryDone
  | .dumpComplete | .nop => true
  | .br g _ p t => g.wf && p < 128 && target16 t
  | .brs g _ _ k t => g.wf && k < 64 && target16 t
  | .call g t | .selv g t => g.wf && target16 t
  | .loop g imm n last => g.wf && (if imm then n < 8192 else n < 64) && target16 last
  | .spool g k b t => g.wf && k < 64 && b < 64 && target16 t
  | .rep g imm n => g.wf && (if imm then n < 8192 else n < 64)
  | .rdv g v d n gr => g.wf && v < 64 && d < 64 && n < 256 && gr < 256
  | .setf g _ c f => g.wf && c < 256 && f < 64
  | .waitf g _ f => g.wf && f < 64
  | .ret g | .ppt g | .pptScan g | .relPkg g | .relSys g | .fenceE g | .rfence g | .brk g | .eret g | .halt g => g.wf
  | .movc g s r => g.wf && s < 64 && r < 256 && ctrlWritable r
  | .rdc g d r => g.wf && d < 64 && r < 256
  | .xAdd x | .xSub x | .xMul x | .mulhu x | .mulhs x | .xAnd x | .xOr x | .xXor x | .xShl x | .xShr x | .sar x
  | .xMin x | .xMax x | .minu x | .maxu x | .ceq x | .cne x | .clt x | .cltu x | .cle x | .cleu x => x.wf
  | .ext x | .exts x | .ins x => x.bitFieldWf
  | .movh x => x.wf && x.imm && x.sa == 0
  | .rdi x => x.unaryWf && x.sa < 6
  | .popc x | .clz x => x.unaryWf
  | .ldV m | .ldC m | .ldD m | .ldG m | .stV m | .stC m | .stD m | .stG m | .ldsV m | .ldsG m | .chksV m | .chksG m
  | .ldply m | .stply m => m.wf
  | .ldcb m => m.ldcbWf
  | .ldxV m | .ldxG m => m.wf
  | .stxV m | .stxG m => m.storeWf
  | .atomAdd a | .atomSwap a | .atomAnd a | .atomOr a | .atomXor a | .atomMax a | .atomMin a | .atomCas a => a.wf
  | .vfAdd v | .vfSub v | .vfMul v | .vfFma v | .vfDiv v | .vfMin v | .vfMax v => v.binaryWf
  | .sqrt v => v.unaryWf 0
  | .vfAbs v => v.unaryWf 1
  | .vfNeg v => v.unaryWf 2
  | .rcp v => v.unaryWf 3
  | .rsqrt v => v.unaryWf 4
  | .exp v => v.unaryWf 5
  | .log v => v.unaryWf 6
  | .sin v => v.unaryWf 7
  | .cos v => v.unaryWf 8
  | .tanh v => v.unaryWf 9
  | .sigmoid v => v.unaryWf 10
  | .erf v => v.unaryWf 11
  | .vfCmp v => v.cmpWf
  | .vfSel v => v.selWf
  | .cvt v => v.cvtWf
  | .pand v => v.predWf 0
  | .por v => v.predWf 1
  | .pxor v => v.predWf 2
  | .pandn v => v.predWf 3
  | .porn v => v.predWf 4
  | .pmov v => v.predWf 5
  | .perm v => v.permWf
  | .red v => v.redWf
  | .xcopy v => v.xcopyWf
  | .jseed v => v.jetWf 0
  | .jset v => v.jetWf 1
  | .jget v => v.jetWf 2
  | .jgetD v => v.jetWf 3
  | .jdif v => v.jetWf 4
  | .jint v => v.jetWf 5
  | .flgrd v => v.flgrdWf
  | .flgclr v => v.flgclrWf
  | .viAdd v | .viSub v | .viMul v | .viAddSat v | .viSubSat v | .viMulSat v | .viMin v | .viMax v | .viAnd v
  | .viOr v | .viXor v | .viAndn v | .viShl v | .viShr v | .viMulh v => v.intWf
  | .viCmp v => v.intCmpWf
  | .viSel v => v.intSelWf
  | .viMov v => v.intMovWf
  | .viAbs v => v.intUnaryWf && v.sub == 0
  | .viNeg v => v.intUnaryWf
  | .zero t | .assayBeat t => t.wf && t.plain && t.desc == 0 && t.row == 0 && t.aux == 0
  | .push t => t.wf && !t.neg && !t.disc && !t.ow && !t.cks && t.row < 64 && t.aux % 16 == 0
  | .shift t => t.wf && !t.ow && !t.cks && t.row == 0 && t.aux % 16 == 0
  | .acc t => t.wf && !t.neg && !t.disc && !t.blk && t.desc < 4 && t.row == 0 && t.aux % 16 == 0
      && (!t.cks || t.aux == 0)
  | .shiftAcc t => t.wf && t.aux / 4 % 4 == 0 && (!t.cks || t.row == 0)
  | .assayAcc t => t.wf && !t.neg && !t.disc && !t.blk && t.desc == 0 && t.aux < 4 && (!t.cks || t.row == 0)
  | .drain t => t.wf && !t.neg && !t.disc && !t.blk && !t.ow && (!t.cks || (t.row == 0 && t.desc < 4))
  | .copy e => e.wf && e.cf < 4
  | .tcopy e => e.wf && e.cf < 2
  | .transp e => e.wf && e.cf < 3
  | .convE e => e.wf && e.cf < 32 && e.cf % 8 != 5 && e.cf % 8 != 6
  | .gather e | .scatter e => e.wf && e.cf < 32
  | .hget e => e.wf && (e.cf == 0 || e.cf == 2)
  | .hput e => e.wf && e.cf < 2
  | .fput e => e.wf && e.cf < 2
  | .fget e => e.wf && (e.cf == 0 || e.cf == 2)
  | .fatom e => e.wf && e.cf < 16
  | .mcred e => e.wf && e.cf == 0

end Sys2Proof
end

