-- ==== Sys2Proof/Decode.lean ====
section
/-! DEFINITION. The decoder of bundles (14 R246 to R258), total and rejecting by name, and the encoder written from the
same tables. Slot values and bundles are natural numbers, as the manual's sums of fields are. -/

namespace Sys2Proof

/-- Why a bundle or slot is no well-formed instruction: the cases of 14 R247 and R250. -/
inductive DecodeError where
  | reservedOpcode
  | reservedField
  | nonZeroNop
  | badClaim
  | notOneInstruction
  deriving DecidableEq, Repr

/-- The eight slots of a bundle (14 R246). -/
inductive Slot where
  | c | x | m0 | m1 | v0 | v1 | t | e
  deriving DecidableEq, Repr

/-- Lowest bundle bit of a slot (14 R246). -/
def Slot.low (s : Slot) : Nat :=
  match s with
  | .c => 336
  | .x => 296
  | .m0 => 248
  | .m1 => 200
  | .v0 => 144
  | .v1 => 88
  | .t => 48
  | .e => 0

/-- Width of a slot in bits (14 R246). -/
def Slot.width (s : Slot) : Nat :=
  match s with
  | .c | .m0 | .m1 | .e => 48
  | .x | .t => 40
  | .v0 | .v1 => 56

/-- Bits [lo+n-1:lo] of v. -/
def bits (v lo n : Nat) : Nat := v / 2 ^ lo % 2 ^ n

/-- One bit of v. -/
def bit (v n : Nat) : Bool := v / 2 ^ n % 2 == 1

/-- 1 for true. -/
def b2n (b : Bool) : Nat := if b then 1 else 0

/-- A slot value's part of a bundle. -/
def slotOf (bundle : Nat) (s : Slot) : Nat := bits bundle s.low s.width

/-- The 7-bit guard: predicate in the upper six bits, negate in the lowest (14 R246). -/
def guardOf (v : Nat) : Guard := ⟨v / 2 % 64, v % 2 == 1⟩

/-- The guard's seven bits. -/
def Guard.code (g : Guard) : Nat := g.pred * 2 + b2n g.neg

/-- Answers the instruction if it is well-formed. -/
def accept (i : Instr) : Except DecodeError Instr :=
  if i.wf then .ok i else .error .reservedField

/-- The C slot (14 R251). L lies in [40:37] and is no part of the instruction; unnamed operand bits must be 0. -/
def decodeC (v : Nat) : Except DecodeError Instr :=
  let g := guardOf (bits v 41 7)
  let o := bits v 0 30
  let field (ok : Bool) (i : Instr) : Except DecodeError Instr :=
    if ok then accept i else .error .reservedField
  match bits v 30 7 with
  | 0x00 => if bits v 41 7 = 0 ∧ o = 0 then .ok .nop else .error .nonZeroNop
  | 0x01 => field (o < 2 ^ 24) (.br g (bit o 23) (bits o 16 7) (bits o 0 16))
  | 0x02 => field (o < 2 ^ 24) (.brs g (bit o 23) (bit o 22) (bits o 16 6) (bits o 0 16))
  | 0x03 => field (o < 2 ^ 16) (.call g (bits o 0 16))
  | 0x04 => field (o = 0) (.ret g)
  | 0x05 => if bit o 29 then accept (.loop g true (bits o 16 13) (bits o 0 16))
      else field (bits o 22 7 = 0) (.loop g false (bits o 16 6) (bits o 0 16))
  | 0x06 => field (bits o 22 2 = 0) (.spool g (bits o 24 6) (bits o 16 6) (bits o 0 16))
  | 0x07 => if bit o 29 then field (bits o 0 16 = 0) (.rep g true (bits o 16 13))
      else field (bits o 22 7 = 0 && bits o 0 16 = 0) (.rep g false (bits o 16 6))
  | 0x08 => field (o < 2 ^ 28) (.rdv g (bits o 22 6) (bits o 16 6) (bits o 8 8) (bits o 0 8))
  | 0x09 => field (o < 2 ^ 16) (.selv g (bits o 0 16))
  | 0x0A => field (o < 2 ^ 23 && bits o 6 8 = 0) (.setf g (bit o 22) (bits o 14 8) (bits o 0 6))
  | 0x0B => field (o < 2 ^ 7) (.waitf g (bit o 6) (bits o 0 6))
  | 0x0C => field (o = 0) (.ppt g)
  | 0x0D => field (o = 0) (.pptScan g)
  | 0x0E => field (o = 0) (.relPkg g)
  | 0x0F => field (o = 0) (.relSys g)
  | 0x10 => field (o = 0) (.fenceE g)
  | 0x11 => field (o = 0) (.rfence g)
  | 0x12 => field (o < 2 ^ 14) (.movc g (bits o 8 6) (bits o 0 8))
  | 0x13 => field (o < 2 ^ 14) (.rdc g (bits o 8 6) (bits o 0 8))
  | 0x14 => field (o = 0) (.brk g)
  | 0x15 => field (o = 0) (.eret g)
  | 0x16 => field (o = 0) (.halt g)
  | _ => .error .reservedOpcode

/-- The X form of a base code (14 R252). -/
def xForm (base : Nat) (x : XArgs) : Option Instr :=
  match base with
  | 1 => some (.xAdd x)
  | 2 => some (.xSub x)
  | 3 => some (.xMul x)
  | 4 => some (.mulhu x)
  | 5 => some (.mulhs x)
  | 6 => some (.xAnd x)
  | 7 => some (.xOr x)
  | 8 => some (.xXor x)
  | 9 => some (.xShl x)
  | 10 => some (.xShr x)
  | 11 => some (.sar x)
  | 12 => some (.xMin x)
  | 13 => some (.xMax x)
  | 14 => some (.minu x)
  | 15 => some (.maxu x)
  | 16 => some (.ceq x)
  | 17 => some (.cne x)
  | 18 => some (.clt x)
  | 19 => some (.cltu x)
  | 20 => some (.cle x)
  | 21 => some (.cleu x)
  | 22 => some (.ext x)
  | 23 => some (.exts x)
  | 24 => some (.ins x)
  | 25 => some (.movh x)
  | 26 => some (.rdi x)
  | 27 => some (.popc x)
  | 28 => some (.clz x)
  | _ => none

/-- The fields of an X slot value. -/
def xFields (v : Nat) (lit : Option Nat) : XArgs :=
  ⟨guardOf (bits v 33 7), bits v 21 6, bits v 15 6, bit v 27, bits v 0 15, lit⟩

/-- The X slot (14 R252) with its claimed literal (14 R250). -/
def decodeX (v : Nat) (lit : Option Nat) : Except DecodeError Instr :=
  if bits v 27 6 = 0 then
    if v = 0 then (if lit.isNone then .ok .nop else .error .badClaim) else .error .nonZeroNop
  else
    match xForm (bits v 28 5) (xFields v lit) with
    | some i => accept i
    | none => .error .reservedOpcode

/-- The fields of a vector M form (14 R253). -/
def mFields (port : Bool) (v : Nat) (lit : Option Nat) : MArgs :=
  ⟨port, guardOf (bits v 41 7), bits v 24 11, bits v 20 4, bits v 14 6, bits v 0 14, lit⟩

/-- The fields of ldx and stx. -/
def scalarMemFields (port : Bool) (v : Nat) (lit : Option Nat) : ScalarMemArgs :=
  ⟨port, guardOf (bits v 41 7), bits v 24 6, bits v 22 2, bit v 21, bits v 14 6, bits v 0 14, lit⟩

/-- The fields of an atomic. -/
def atomFields (port : Bool) (v : Nat) (lit : Option Nat) : AtomArgs :=
  ⟨port, guardOf (bits v 41 7), bits v 24 6, bits v 22 2, bits v 20 2, bits v 14 6, bits v 6 8, bits v 0 6, lit⟩

/-- The vector M form of an opcode. -/
def mForm (op : Nat) (m : MArgs) : Option Instr :=
  match op with
  | 0x01 => some (.ldV m)
  | 0x02 => some (.ldC m)
  | 0x03 => some (.ldD m)
  | 0x04 => some (.ldG m)
  | 0x05 => some (.stV m)
  | 0x06 => some (.stC m)
  | 0x07 => some (.stD m)
  | 0x08 => some (.stG m)
  | 0x09 => some (.ldsV m)
  | 0x0A => some (.ldsG m)
  | 0x0B => some (.chksV m)
  | 0x0C => some (.chksG m)
  | 0x0D => some (.ldply m)
  | 0x0E => some (.stply m)
  | 0x0F => some (.ldcb m)
  | _ => none

/-- ldx and stx by opcode. -/
def scalarMemForm (op : Nat) (m : ScalarMemArgs) : Option Instr :=
  match op with
  | 0x10 => some (.ldxV m)
  | 0x11 => some (.ldxG m)
  | 0x12 => some (.stxV m)
  | 0x13 => some (.stxG m)
  | _ => none

/-- The atomics by opcode (16 R295). -/
def atomForm (op : Nat) (a : AtomArgs) : Option Instr :=
  match op with
  | 0x14 => some (.atomAdd a)
  | 0x15 => some (.atomSwap a)
  | 0x16 => some (.atomAnd a)
  | 0x17 => some (.atomOr a)
  | 0x18 => some (.atomXor a)
  | 0x19 => some (.atomMax a)
  | 0x1A => some (.atomMin a)
  | 0x1B => some (.atomCas a)
  | _ => none

/-- An M slot (14 R253) with its claimed literal. -/
def decodeM (port : Bool) (v : Nat) (lit : Option Nat) : Except DecodeError Instr :=
  let op := bits v 35 6
  if op = 0 then
    if v = 0 then (if lit.isNone then .ok .nop else .error .badClaim) else .error .nonZeroNop
  else
    match mForm op (mFields port v lit) with
    | some i => accept i
    | none =>
      match scalarMemForm op (scalarMemFields port v lit) with
      | some i => if bits v 30 5 = 0 ∧ bit v 20 = false then accept i else .error .reservedField
      | none =>
        match atomForm op (atomFields port v lit) with
        | some i => if bits v 30 5 = 0 then accept i else .error .reservedField
        | none => .error .reservedOpcode

/-- The float binary form number k (14 R255). -/
def floatBinary (k : Nat) (v : VArgs) : Option Instr :=
  match k with
  | 0 => some (.vfAdd v)
  | 1 => some (.vfSub v)
  | 2 => some (.vfMul v)
  | 3 => some (.vfFma v)
  | 4 => some (.vfDiv v)
  | 5 => some (.vfMin v)
  | 6 => some (.vfMax v)
  | _ => none

/-- The float unary form of a function number (14 R256). -/
def floatUnary (f : Nat) (v : VArgs) : Option Instr :=
  match f with
  | 0 => some (.sqrt v)
  | 1 => some (.vfAbs v)
  | 2 => some (.vfNeg v)
  | 3 => some (.rcp v)
  | 4 => some (.rsqrt v)
  | 5 => some (.exp v)
  | 6 => some (.log v)
  | 7 => some (.sin v)
  | 8 => some (.cos v)
  | 9 => some (.tanh v)
  | 10 => some (.sigmoid v)
  | 11 => some (.erf v)
  | _ => none

/-- The predicate-logic form of a function number (14 R256). -/
def predForm (f : Nat) (v : VArgs) : Option Instr :=
  match f with
  | 0 => some (.pand v)
  | 1 => some (.por v)
  | 2 => some (.pxor v)
  | 3 => some (.pandn v)
  | 4 => some (.porn v)
  | 5 => some (.pmov v)
  | _ => none

/-- The jet form of an operation number (14 R256). -/
def jetForm (op : Nat) (v : VArgs) : Option Instr :=
  match op with
  | 0 => some (.jseed v)
  | 1 => some (.jset v)
  | 2 => some (.jget v)
  | 3 => some (.jgetD v)
  | 4 => some (.jdif v)
  | 5 => some (.jint v)
  | _ => none

/-- The integer form number k (14 R255). -/
def intForm (k : Nat) (v : VArgs) : Option Instr :=
  match k with
  | 0 => some (.viAdd v)
  | 1 => some (.viSub v)
  | 2 => some (.viMul v)
  | 3 => some (.viAddSat v)
  | 4 => some (.viSubSat v)
  | 5 => some (.viMulSat v)
  | 6 => some (.viMin v)
  | 7 => some (.viMax v)
  | 8 => some (.viAnd v)
  | 9 => some (.viOr v)
  | 10 => some (.viXor v)
  | 11 => some (.viAndn v)
  | 12 => some (.viShl v)
  | 13 => some (.viShr v)
  | 14 => some (.viCmp v)
  | 15 => some (.viSel v)
  | 16 => some (.viMov v)
  | 17 => some (.viAbs v)
  | 18 => some (.viNeg v)
  | 19 => some (.viMulh v)
  | _ => none

/-- The fields of a V slot value, with the low part of OP that a family gives. -/
def vFields (port : Bool) (v sub : Nat) : VArgs :=
  ⟨port, guardOf (bits v 49 7), sub, bit v 41, bits v 37 4, bits v 26 11, bits v 22 4, bits v 11 11, bits v 0 11⟩

/-- The V form of an opcode (14 R255); sub is filled from OP by each family. -/
def vForm (port : Bool) (v : Nat) : Option Instr :=
  let op := bits v 41 8
  if op < 16 then none
  else if op < 72 then floatBinary ((op - 16) / 8) (vFields port v (op % 8 / 2))
  else if op < 80 then floatUnary (bits v 0 11) (vFields port v (op % 8 / 2))
  else if op < 88 then some (.vfCmp (vFields port v (op % 8 / 2)))
  else if op < 96 then some (.vfSel (vFields port v (op % 8 / 2)))
  else if op < 100 then some (.cvt (vFields port v (op % 4 / 2)))
  else if op < 102 then predForm (bits v 37 4) (vFields port v 0)
  else if op < 104 then some (.perm (vFields port v 0))
  else if op < 106 then some (.red (vFields port v 0))
  else if op < 108 then some (.xcopy (vFields port v 0))
  else if op < 112 then none
  else if op < 120 then jetForm (bits v 8 3) (vFields port v (op % 8 / 2))
  else if op < 122 then some (.flgrd (vFields port v 0))
  else if op < 124 then some (.flgclr (vFields port v 0))
  else if op < 128 then none
  else intForm ((op - 128) / 4) (vFields port v (op % 4 / 2))

/-- A V slot (14 R254 to R256). -/
def decodeV (port : Bool) (v : Nat) : Except DecodeError Instr :=
  if bits v 41 8 = 0 then (if v = 0 then .ok .nop else .error .nonZeroNop)
  else
    match vForm port v with
    | some i => accept i
    | none => .error .reservedOpcode

/-- The fields of a T slot value (14 R257). -/
def tFields (v : Nat) : TArgs :=
  ⟨guardOf (bits v 33 7), bit v 28, bit v 27, bit v 26, bit v 25, bit v 24, bits v 20 4, bits v 13 7, bits v 0 13⟩

/-- The beat of a code (14 R257). -/
def tForm (code : Nat) (t : TArgs) : Option Instr :=
  match code with
  | 1 => some (.zero t)
  | 2 => some (.push t)
  | 3 => some (.shift t)
  | 4 => some (.assayBeat t)
  | 5 => some (.acc t)
  | 6 => some (.shiftAcc t)
  | 7 => some (.assayAcc t)
  | 8 => some (.drain t)
  | _ => none

/-- The T slot (14 R257). -/
def decodeT (v : Nat) : Except DecodeError Instr :=
  if bits v 29 4 = 0 then (if v = 0 then .ok .nop else .error .nonZeroNop)
  else
    match tForm (bits v 29 4) (tFields v) with
    | some i => accept i
    | none => .error .reservedOpcode

/-- The fields of an E slot value (14 R258). -/
def eFields (v : Nat) (lit : Option Nat) : EArgs :=
  ⟨guardOf (bits v 41 7), bits v 29 6, bits v 23 6, bits v 17 6, bits v 7 10, bit v 6, bits v 0 6, lit⟩

/-- The engine command of an opcode (14 R258). -/
def eForm (op : Nat) (e : EArgs) : Option Instr :=
  match op with
  | 0x01 => some (.copy e)
  | 0x02 => some (.transp e)
  | 0x03 => some (.convE e)
  | 0x04 => some (.gather e)
  | 0x05 => some (.scatter e)
  | 0x06 => some (.tcopy e)
  | 0x07 => some (.hget e)
  | 0x08 => some (.hput e)
  | 0x09 => some (.fput e)
  | 0x0A => some (.fget e)
  | 0x0B => some (.fatom e)
  | 0x0C => some (.mcred e)
  | _ => none

/-- The E slot (14 R258) with its claimed literal. -/
def decodeE (v : Nat) (lit : Option Nat) : Except DecodeError Instr :=
  if bits v 35 6 = 0 then
    if v = 0 then (if lit.isNone then .ok .nop else .error .badClaim) else .error .nonZeroNop
  else
    match eForm (bits v 35 6) (eFields v lit) with
    | some i => accept i
    | none => .error .reservedOpcode

/-- One slot of a bundle. C, V and T slots take no literal (14 R250). -/
def decodeSlot (s : Slot) (v : Nat) (lit : Option Nat) : Except DecodeError Instr :=
  match s with
  | .c => decodeC v
  | .x => decodeX v lit
  | .m0 => decodeM false v lit
  | .m1 => decodeM true v lit
  | .v0 => decodeV false v
  | .v1 => decodeV true v
  | .t => decodeT v
  | .e => decodeE v lit

/-- The claim mask L of a bundle, bits [40:37] of the C slot (14 R250). -/
def claimMask (bundle : Nat) : Nat := bits bundle (336 + 37) 4

/-- The number of claimed literals (09 R150). -/
def claimCount (bundle : Nat) : Nat :=
  let l := claimMask bundle
  l % 2 + l / 2 % 2 + l / 4 % 2 + l / 8 % 2

/-- Hands the literals out in slot order X, M0, M1, E (09 R150). -/
def claims (bundle : Nat) (lits : List Nat) : Option Nat × Option Nat × Option Nat × Option Nat :=
  let l := claimMask bundle
  let take (on : Bool) (ls : List Nat) : Option Nat × List Nat :=
    if on then (some (ls.headD 0), ls.tail) else (none, ls)
  let (x, r) := take (bit l 3) lits
  let (m0, r) := take (bit l 2) r
  let (m1, r) := take (bit l 1) r
  let (e, _) := take (bit l 0) r
  (x, m0, m1, e)

/-- A bundle's eight instructions in the order C, X, M0, M1, V0, V1, T, E, or the first encoding fault (14 R247). -/
def decodeBundle (bundle : Nat) (lits : List Nat) : Except DecodeError (List Instr) := do
  let (lx, lm0, lm1, le) := claims bundle lits
  let c ← decodeSlot .c (slotOf bundle .c) none
  let x ← decodeSlot .x (slotOf bundle .x) lx
  let m0 ← decodeSlot .m0 (slotOf bundle .m0) lm0
  let m1 ← decodeSlot .m1 (slotOf bundle .m1) lm1
  let v0 ← decodeSlot .v0 (slotOf bundle .v0) none
  let v1 ← decodeSlot .v1 (slotOf bundle .v1) none
  let t ← decodeSlot .t (slotOf bundle .t) none
  let e ← decodeSlot .e (slotOf bundle .e) le
  pure [c, x, m0, m1, v0, v1, t, e]

/-- The one instruction of a bundle in which every other slot is NOP; NOP for the all-NOP bundle. -/
def decodeOne (bundle : Nat) (lits : List Nat) : Except DecodeError Instr :=
  match decodeBundle bundle lits with
  | .error e => .error e
  | .ok is =>
    match is.filter (· != .nop) with
    | [] => .ok .nop
    | [i] => .ok i
    | _ => .error .notOneInstruction

/-- The host's question (log 20): w is read as the low bits of a bundle, every bit above it 0, and its claimed literals,
if any, are 0. The table gives no row any bits, so nbits is not used beyond cutting w. -/
def decodeTableWord (nbits w : Nat) : Option Instr :=
  match decodeOne (w % 2 ^ (min nbits 384)) [0, 0, 0, 0] with
  | .ok i => some i
  | .error _ => none

/- The encoder. -/

/-- The X base code and fields of an X form (14 R252). -/
def Instr.xBase (i : Instr) : Option (Nat × XArgs) :=
  match i with
  | .xAdd x => some (1, x)
  | .xSub x => some (2, x)
  | .xMul x => some (3, x)
  | .mulhu x => some (4, x)
  | .mulhs x => some (5, x)
  | .xAnd x => some (6, x)
  | .xOr x => some (7, x)
  | .xXor x => some (8, x)
  | .xShl x => some (9, x)
  | .xShr x => some (10, x)
  | .sar x => some (11, x)
  | .xMin x => some (12, x)
  | .xMax x => some (13, x)
  | .minu x => some (14, x)
  | .maxu x => some (15, x)
  | .ceq x => some (16, x)
  | .cne x => some (17, x)
  | .clt x => some (18, x)
  | .cltu x => some (19, x)
  | .cle x => some (20, x)
  | .cleu x => some (21, x)
  | .ext x => some (22, x)
  | .exts x => some (23, x)
  | .ins x => some (24, x)
  | .movh x => some (25, x)
  | .rdi x => some (26, x)
  | .popc x => some (27, x)
  | .clz x => some (28, x)
  | _ => none

/-- The X slot value of 16 R281. -/
def encodeX (base : Nat) (x : XArgs) : Nat :=
  x.guard.code * 2 ^ 33 + (2 * base + b2n x.imm) * 2 ^ 27 + x.dst * 2 ^ 21 + x.sa * 2 ^ 15 + x.sb

/-- The M slot value of 16 R286. -/
def encodeM (op : Nat) (m : MArgs) : Nat :=
  m.guard.code * 2 ^ 41 + op * 2 ^ 35 + m.ply * 2 ^ 24 + m.w * 2 ^ 20 + m.base * 2 ^ 14 + m.off

/-- The M slot value of ldx and stx. -/
def encodeScalarMem (op : Nat) (m : ScalarMemArgs) : Nat :=
  m.guard.code * 2 ^ 41 + op * 2 ^ 35 + m.reg * 2 ^ 24 + m.size * 2 ^ 22 + b2n m.sgn * 2 ^ 21 + m.base * 2 ^ 14 + m.off

/-- The M slot value of an atomic (16 R295). -/
def encodeAtom (op : Nat) (a : AtomArgs) : Nat :=
  a.guard.code * 2 ^ 41 + op * 2 ^ 35 + a.dst * 2 ^ 24 + a.size * 2 ^ 22 + a.level * 2 ^ 20 + a.base * 2 ^ 14
    + a.off * 2 ^ 6 + a.src

/-- The V slot value of 17 R299. -/
def encodeV (op : Nat) (v : VArgs) : Nat :=
  v.guard.code * 2 ^ 49 + op * 2 ^ 41 + v.dw * 2 ^ 37 + v.dst * 2 ^ 26 + v.sw * 2 ^ 22 + v.sa * 2 ^ 11 + v.sb

/-- The T slot value of 19 R328. -/
def encodeT (code : Nat) (t : TArgs) : Nat :=
  t.guard.code * 2 ^ 33 + code * 2 ^ 29 + b2n t.neg * 2 ^ 28 + b2n t.disc * 2 ^ 27 + b2n t.blk * 2 ^ 26
    + b2n t.ow * 2 ^ 25 + b2n t.cks * 2 ^ 24 + t.desc * 2 ^ 20 + t.row * 2 ^ 13 + t.aux

/-- The E slot value of 19 R330. -/
def encodeE (op : Nat) (e : EArgs) : Nat :=
  e.guard.code * 2 ^ 41 + op * 2 ^ 35 + e.sa * 2 ^ 29 + e.sb * 2 ^ 23 + e.sc * 2 ^ 17 + e.ofs * 2 ^ 7
    + b2n e.post * 2 ^ 6 + e.cf

/-- The C slot value of 15 R264, with L = 0. -/
def encodeC (g : Guard) (op operands : Nat) : Nat := g.code * 2 ^ 41 + op * 2 ^ 30 + operands

/-- The OP of a V form (14 R255). -/
def Instr.vOp (i : Instr) : Option (Nat × VArgs) :=
  match i with
  | .vfAdd v => some (16 + 2 * v.sub + b2n v.b, v)
  | .vfSub v => some (24 + 2 * v.sub + b2n v.b, v)
  | .vfMul v => some (32 + 2 * v.sub + b2n v.b, v)
  | .vfFma v => some (40 + 2 * v.sub + b2n v.b, v)
  | .vfDiv v => some (48 + 2 * v.sub + b2n v.b, v)
  | .vfMin v => some (56 + 2 * v.sub + b2n v.b, v)
  | .vfMax v => some (64 + 2 * v.sub + b2n v.b, v)
  | .sqrt v | .vfAbs v | .vfNeg v | .rcp v | .rsqrt v | .exp v | .log v | .sin v | .cos v | .tanh v | .sigmoid v
  | .erf v => some (72 + 2 * v.sub + b2n v.b, v)
  | .vfCmp v => some (80 + 2 * v.sub + b2n v.b, v)
  | .vfSel v => some (88 + 2 * v.sub + b2n v.b, v)
  | .cvt v => some (96 + 2 * v.sub + b2n v.b, v)
  | .pand v | .por v | .pxor v | .pandn v | .porn v | .pmov v => some (100 + b2n v.b, v)
  | .perm v => some (102 + b2n v.b, v)
  | .red v => some (104 + b2n v.b, v)
  | .xcopy v => some (106 + b2n v.b, v)
  | .jseed v | .jset v | .jget v | .jgetD v | .jdif v | .jint v => some (112 + 2 * v.sub + b2n v.b, v)
  | .flgrd v => some (120 + b2n v.b, v)
  | .flgclr v => some (122 + b2n v.b, v)
  | .viAdd v => some (128 + 2 * v.sub + b2n v.b, v)
  | .viSub v => some (132 + 2 * v.sub + b2n v.b, v)
  | .viMul v => some (136 + 2 * v.sub + b2n v.b, v)
  | .viAddSat v => some (140 + 2 * v.sub + b2n v.b, v)
  | .viSubSat v => some (144 + 2 * v.sub + b2n v.b, v)
  | .viMulSat v => some (148 + 2 * v.sub + b2n v.b, v)
  | .viMin v => some (152 + 2 * v.sub + b2n v.b, v)
  | .viMax v => some (156 + 2 * v.sub + b2n v.b, v)
  | .viAnd v => some (160 + 2 * v.sub + b2n v.b, v)
  | .viOr v => some (164 + 2 * v.sub + b2n v.b, v)
  | .viXor v => some (168 + 2 * v.sub + b2n v.b, v)
  | .viAndn v => some (172 + 2 * v.sub + b2n v.b, v)
  | .viShl v => some (176 + 2 * v.sub + b2n v.b, v)
  | .viShr v => some (180 + 2 * v.sub + b2n v.b, v)
  | .viCmp v => some (184 + 2 * v.sub + b2n v.b, v)
  | .viSel v => some (188 + 2 * v.sub + b2n v.b, v)
  | .viMov v => some (192 + 2 * v.sub + b2n v.b, v)
  | .viAbs v => some (196 + 2 * v.sub + b2n v.b, v)
  | .viNeg v => some (200 + 2 * v.sub + b2n v.b, v)
  | .viMulh v => some (204 + 2 * v.sub + b2n v.b, v)
  | _ => none

/-- A slot instruction's slot, slot value and literal; none for an event. -/
def Instr.encodeSlot (i : Instr) : Option (Slot × Nat × Option Nat) :=
  let mSlot (p : Bool) : Slot := if p then .m1 else .m0
  let vSlot (p : Bool) : Slot := if p then .v1 else .v0
  match i.xBase with
  | some (b, x) => some (.x, encodeX b x, x.lit)
  | none =>
  match i.vOp with
  | some (op, v) => some (vSlot v.port, encodeV op v, none)
  | none =>
  match i with
  | .nop => some (.c, 0, none)
  | .br g n p t => some (.c, encodeC g 0x01 (b2n n * 2 ^ 23 + p * 2 ^ 16 + t), none)
  | .brs g n f k t => some (.c, encodeC g 0x02 (b2n n * 2 ^ 23 + b2n f * 2 ^ 22 + k * 2 ^ 16 + t), none)
  | .call g t => some (.c, encodeC g 0x03 t, none)
  | .ret g => some (.c, encodeC g 0x04 0, none)
  | .loop g i n last => some (.c, encodeC g 0x05 (b2n i * 2 ^ 29 + n * 2 ^ 16 + last), none)
  | .spool g k b t => some (.c, encodeC g 0x06 (k * 2 ^ 24 + b * 2 ^ 16 + t), none)
  | .rep g i n => some (.c, encodeC g 0x07 (b2n i * 2 ^ 29 + n * 2 ^ 16), none)
  | .rdv g v d n gr => some (.c, encodeC g 0x08 (v * 2 ^ 22 + d * 2 ^ 16 + n * 2 ^ 8 + gr), none)
  | .selv g t => some (.c, encodeC g 0x09 t, none)
  | .setf g v c f => some (.c, encodeC g 0x0A (b2n v * 2 ^ 22 + c * 2 ^ 14 + f), none)
  | .waitf g v f => some (.c, encodeC g 0x0B (b2n v * 2 ^ 6 + f), none)
  | .ppt g => some (.c, encodeC g 0x0C 0, none)
  | .pptScan g => some (.c, encodeC g 0x0D 0, none)
  | .relPkg g => some (.c, encodeC g 0x0E 0, none)
  | .relSys g => some (.c, encodeC g 0x0F 0, none)
  | .fenceE g => some (.c, encodeC g 0x10 0, none)
  | .rfence g => some (.c, encodeC g 0x11 0, none)
  | .movc g s r => some (.c, encodeC g 0x12 (s * 2 ^ 8 + r), none)
  | .rdc g d r => some (.c, encodeC g 0x13 (d * 2 ^ 8 + r), none)
  | .brk g => some (.c, encodeC g 0x14 0, none)
  | .eret g => some (.c, encodeC g 0x15 0, none)
  | .halt g => some (.c, encodeC g 0x16 0, none)
  | .ldV m => some (mSlot m.port, encodeM 0x01 m, m.lit)
  | .ldC m => some (mSlot m.port, encodeM 0x02 m, m.lit)
  | .ldD m => some (mSlot m.port, encodeM 0x03 m, m.lit)
  | .ldG m => some (mSlot m.port, encodeM 0x04 m, m.lit)
  | .stV m => some (mSlot m.port, encodeM 0x05 m, m.lit)
  | .stC m => some (mSlot m.port, encodeM 0x06 m, m.lit)
  | .stD m => some (mSlot m.port, encodeM 0x07 m, m.lit)
  | .stG m => some (mSlot m.port, encodeM 0x08 m, m.lit)
  | .ldsV m => some (mSlot m.port, encodeM 0x09 m, m.lit)
  | .ldsG m => some (mSlot m.port, encodeM 0x0A m, m.lit)
  | .chksV m => some (mSlot m.port, encodeM 0x0B m, m.lit)
  | .chksG m => some (mSlot m.port, encodeM 0x0C m, m.lit)
  | .ldply m => some (mSlot m.port, encodeM 0x0D m, m.lit)
  | .stply m => some (mSlot m.port, encodeM 0x0E m, m.lit)
  | .ldcb m => some (mSlot m.port, encodeM 0x0F m, m.lit)
  | .ldxV m => some (mSlot m.port, encodeScalarMem 0x10 m, m.lit)
  | .ldxG m => some (mSlot m.port, encodeScalarMem 0x11 m, m.lit)
  | .stxV m => some (mSlot m.port, encodeScalarMem 0x12 m, m.lit)
  | .stxG m => some (mSlot m.port, encodeScalarMem 0x13 m, m.lit)
  | .atomAdd a => some (mSlot a.port, encodeAtom 0x14 a, a.lit)
  | .atomSwap a => some (mSlot a.port, encodeAtom 0x15 a, a.lit)
  | .atomAnd a => some (mSlot a.port, encodeAtom 0x16 a, a.lit)
  | .atomOr a => some (mSlot a.port, encodeAtom 0x17 a, a.lit)
  | .atomXor a => some (mSlot a.port, encodeAtom 0x18 a, a.lit)
  | .atomMax a => some (mSlot a.port, encodeAtom 0x19 a, a.lit)
  | .atomMin a => some (mSlot a.port, encodeAtom 0x1A a, a.lit)
  | .atomCas a => some (mSlot a.port, encodeAtom 0x1B a, a.lit)
  | .zero t => some (.t, encodeT 1 t, none)
  | .push t => some (.t, encodeT 2 t, none)
  | .shift t => some (.t, encodeT 3 t, none)
  | .assayBeat t => some (.t, encodeT 4 t, none)
  | .acc t => some (.t, encodeT 5 t, none)
  | .shiftAcc t => some (.t, encodeT 6 t, none)
  | .assayAcc t => some (.t, encodeT 7 t, none)
  | .drain t => some (.t, encodeT 8 t, none)
  | .copy e => some (.e, encodeE 0x01 e, e.lit)
  | .transp e => some (.e, encodeE 0x02 e, e.lit)
  | .convE e => some (.e, encodeE 0x03 e, e.lit)
  | .gather e => some (.e, encodeE 0x04 e, e.lit)
  | .scatter e => some (.e, encodeE 0x05 e, e.lit)
  | .tcopy e => some (.e, encodeE 0x06 e, e.lit)
  | .hget e => some (.e, encodeE 0x07 e, e.lit)
  | .hput e => some (.e, encodeE 0x08 e, e.lit)
  | .fput e => some (.e, encodeE 0x09 e, e.lit)
  | .fget e => some (.e, encodeE 0x0A e, e.lit)
  | .fatom e => some (.e, encodeE 0x0B e, e.lit)
  | .mcred e => some (.e, encodeE 0x0C e, e.lit)
  | _ => none

/-- The claim bit of a slot in L, as a bundle value (14 R250). -/
def claimBit (s : Slot) : Nat :=
  match s with
  | .x => 8
  | .m0 => 4
  | .m1 => 2
  | .e => 1
  | _ => 0

/-- The words of a slot instruction: the bundle in which every other slot is NOP, and its trailing literals. -/
def encode (i : Instr) : Option (Nat × List Nat) :=
  match i.encodeSlot with
  | none => none
  | some (s, v, none) => some (v * 2 ^ s.low, [])
  | some (s, v, some l) => some (v * 2 ^ s.low + claimBit s * 2 ^ (336 + 37), [l])

end Sys2Proof
end

