-- ==== Sys2Proof/Config.lean ====
section
/-! DEFINITION. What an implementation fixes, and the free values: the constants that the manual leaves open have no
body, so that nothing can be proved of them but what holds for every value (log 3). -/

namespace Sys2Proof.Config

/-- GLAT, the nominal latency of a global access in schedule cycles (11 R195). -/
def glat : Nat := 320

/-- Chip cycles in a microsecond (00 R7). -/
def usec : Nat := 1250

/-- Chip cycles in a millisecond (00 R7). -/
def msec : Nat := 1250000

/-- ACK_TMO, 2 ms (02 R33). -/
def ackTmo : Nat := 2 * msec

/-- SCANWAIT (06 R111). -/
def scanWait : Nat := 2500

/-- Bytes of one vault (11 R191). -/
def vaultBytes : Nat := 1572864

/-- Length of a full dump (08 R143). -/
def dumpBytes : Nat := 1721488

/-- SILREV of this part (01 R19 says per revision; log 5). -/
def silRev : Nat := 1

/-- CFGVER of the configuration record in use (01 R19 says from the record; log 5). -/
def cfgVer : Nat := 1

/-- DESIGN CHOICE (log 3): a free moment, applied to the counter of values drawn; every use bounds it as the rule of
the window does. -/
opaque freeTime : Nat → Nat

/-- DESIGN CHOICE (log 16): the free bytes of a signature or certificate, whose content the manual leaves to SPDM. -/
opaque freeSignature : Nat → BitVec 384

/-- DESIGN CHOICE (log 17): a special function whose interval evaluation has not decided the rounding after the last
precision tried takes this free encoding. -/
opaque freeEncoding : Nat → Nat

/-- DESIGN CHOICE (log 18): the free value of a sensor or measurement that the manual only names. -/
opaque freeReading : Nat → Nat

/-- DESIGN CHOICE (log 29): the bytes of the boot ROM. -/
opaque bootRom : List Byte

/-- DESIGN CHOICE (log 29): the bytes of a configuration record in flash, whose layout the manual leaves open, by what it holds. -/
opaque recordBytes : List Nat → List Byte

/-- DESIGN CHOICE (log 29): whether the signature of a firmware image verifies against the root key, its security version, and its
version; the manual gives neither the image's layout nor the key (05 R93). -/
opaque imageSigned : List Byte → Bool
opaque imageSvn : List Byte → Nat
opaque imageVersion : List Byte → Nat

/-- DESIGN CHOICE (log 23): the CRC-32 of a section of the hand-over structure, of a length and its bytes; the manual names no
polynomial. -/
opaque crc32 : Nat → Nat → BitVec 32

/-- DESIGN CHOICE (log 15): the home slice, of the 64 of its die, of an HBM4 line; the manual gives no interleave. -/
opaque sliceOf : Nat → Nat

/-- DESIGN CHOICE (log 24): byte i of the dump section of a type whose layout the manual leaves open, a free function of what the
section holds. -/
opaque dumpByte : Nat → List (List Nat) → Nat → BitVec 8

/-- DESIGN CHOICE (log 21): whether the gang of a GANGID spans a package; no register of the package says. -/
opaque gangSpans : Nat → Nat → Bool

/-- DESIGN CHOICE (log 34): byte i of the part of a save-area slot whose layout the manual leaves open. -/
opaque contextByte : Nat → Nat → BitVec 8

end Sys2Proof.Config
end

