-- ==== Sys2Proof/Machine/CoreState.lean ====
section
/-! DEFINITION. The state of one core (09 R149 to R168, 10 R170 to R189, 11 R191 to R205, 13 R227 to R244,
19 R330 to R337) as plain data. -/

namespace Sys2Proof.Machine

/-- A sparse store: cells at strictly rising keys, none of them zero; an unlisted key reads 0. Memories, register files
and code stores all have this form (log 2 for memory that nothing has written). -/
abbrev Store (w : Nat) := List (Nat × BitVec w)

/-- Trap classes, numbered by their DELEG bit (04 R81). -/
inductive Trap where
  | assay | timing | bank | illegal | plyRange | nonuniform | translation | protection | allowance | stack | cvt
  | fenceE | break
  deriving DecidableEq, Repr

/-- What a core does (09 R154, 04 R80, 06 R105, 08 R136). An idle core is held by no launch; a claimed core waits for its
release; a stopped core stands at a point; debug is a debug stop; tellers holds a trap that the tellers handle. -/
inductive CoreMode where
  | idle | claimed | running | halted | stopped | debug | tellers
  deriving DecidableEq, Repr

/-- The part of a loop-stack level that only a spool has (15 R269, R270): N, S and the deltas (scalar, amount). -/
structure Spool where
  n : Nat
  stages : Nat
  deltas : List (Nat × Word)
  /-- the stage predicates and deltas of the present pass land on the next issue cycle (15 R271) -/
  due : Bool
  deriving DecidableEq, Repr

/-- A level of the loop stack (09 R149): the first and last bundle address, the passes still to come after the present
one, the index, and the spool's data. -/
structure LoopLevel where
  first : Nat
  last : Nat
  remaining : Nat
  index : Nat
  spool : Option Spool
  deriving DecidableEq, Repr

/-- Where a result lands. Vector values are one natural number per lane. -/
inductive Dest where
  /-- n plies per lane from ply start, in the lanes of mask (10 R174) -/
  | plies (start n : Nat) (mask : LaneMask) (vals : List Nat)
  /-- the masked lane bits of a predicate (10 R186) -/
  | pred (p : Nat) (mask bits : LaneMask)
  | scalar (r : Nat) (val : Word)
  | ctrl (r : Nat) (val : Word)
  /-- a sync flag of a core (15 R274) -/
  | flag (core f : Nat) (val : Bool)
  /-- flag-file bits (bit number 5j+i, lanes) to set and to clear (10 R177) -/
  | flags (set clear : List (Nat × LaneMask))
  /-- the whole codebook store (16 R292) -/
  | codebook (entries : List (BitVec 32))
  /-- every shape record is dropped (15 R276) -/
  | dropRecs
  /-- a bit of a control register is set (13 R233) -/
  | ctlBit (r bit : Nat)
  deriving DecidableEq, Repr

/-- What a load does with the little-endian number it read (16 R287, R290, R292). -/
inductive LoadTo where
  | plies (start w : Nat)
  /-- the half-byte offset of a ply-addressed load (16 R291) -/
  | nibbles (start w off : Nat)
  | scalar (r size : Nat) (sgn : Bool)
  | codebook
  /-- a piece of a unit of an engine command (19 R330) -/
  | engine (cmd unit piece : Nat)
  /-- a piece of the shape record of a command; fill: the record also enters the record cache (11 R205) -/
  | record (cmd piece : Nat) (fill : Bool)
  deriving DecidableEq, Repr

/-- A pending item of a core (09 R165): the schedule cycle of its next event, the SRC code of its slot (09 R164), its
issue cycle and issue number, and what happens then. -/
inductive Act where
  | land (d : Dest)
  /-- the value of a conversion under policy trap: CVT at the landing cycle (17 R309) -/
  | landTrap (d : Dest)
  /-- a vault load samples: target core, byte address, bytes, landing cycle, own port or lateral -/
  | sample (core addr n landAt : Nat) (into : LoadTo) (own : Bool) (spec : Option Nat)
  /-- a vault store performs; nib marks a ply-addressed store: (start nibble, number of nibbles) -/
  | perform (core addr : Nat) (data : List Byte) (own : Bool)
  | performPlies (p n val : Nat)
  /-- a vault atomic performs (16 R296) -/
  | atomic (core addr size op : Nat) (v c : Word) (d landAt : Nat) (own : Bool)
  /-- from the next chip cycle on the global access may sample or perform (11 R195) -/
  | openGlobal (id : Nat)
  /-- a global result lands on this cycle, or the core freezes (11 R195) -/
  | globalLand (id : Nat)
  /-- a correction of a checksum drain (13 R241): the queue entry without CYC, and the array row charged -/
  | correct (entry row : Nat)
  /-- the entry of a correction joins its queue, after the pops of the cycle (10 R184) -/
  | pushCor (entry : Nat)
  /-- an upset fires as its element lands: AD, row and column (08 R145, R146) -/
  | upsetFire (ad row col : Nat)
  /-- a tile with upsets closes: the bit of UPSETSTAT that is set (08 R146) -/
  | upsetVerdict (bit : Nat)
  deriving DecidableEq, Repr

structure Item where
  due : Nat
  src : Nat
  issued : Nat
  seq : Nat
  act : Act
  deriving DecidableEq, Repr

/-- A cause of a trap that is in flight (09 R162): due cycle, issue cycle of its bundle, class, and what the flight record
shows: completion mask, FCAUSE, FVA. -/
structure Cause where
  due : Nat
  issued : Nat
  cls : Trap
  pc : Nat
  done : Nat
  fcause : Nat
  fva : Nat
  deriving DecidableEq, Repr

/-- What a global access does at its home slice. -/
inductive GlobalKind where
  | load (n : Nat) (into : LoadTo) (spec : Option Nat)
  | store (data : List Byte)
  | atomic (size op : Nat) (v c : Word) (d : Nat)
  /-- n plies from a nibble of the first byte are merged (19 R344) -/
  | storePlies (nib n val : Nat)
  /-- elements are written into a tile whose sums are verified and regenerated: FMT, GEOM, and for each element its
  ply offset in the data block, its plies and its value (19 R344) -/
  | storeTile (fmt geom : Nat) (elems : List (Nat × Nat × Nat))
  /-- an acknowledged command's access asks for a translation that the core TLB lacks (03 R58) -/
  | probe
  deriving DecidableEq, Repr

/-- An M-slot global access that has issued and not ended (11 R195, R196, R198, R199). -/
structure GlobalAcc where
  id : Nat
  src : Nat
  issued : Nat
  landAt : Nat
  va : Nat
  len : Nat
  /-- physical address and home die once translated (03 R51, R47) -/
  pa : Option Nat
  kind : GlobalKind
  /-- the value sampled -/
  data : Option Nat
  /-- poisoned lines met: the lines' numbers -/
  poison : List Nat
  /-- the chip cycle on which the result arrived -/
  arrived : Option Nat
  /-- it has performed at its home slice -/
  performed : Bool
  /-- counted in ACKC -/
  acked : Bool
  /-- held after a REL (11 R199) -/
  held : Bool
  /-- parked in the write-hold buffer of the die (03 R66) -/
  parked : Option Nat
  /-- its window has opened -/
  opened : Bool
  /-- the engine command it belongs to -/
  cmd : Option Nat
  /-- the address of its bundle -/
  pc : Nat
  /-- a later write of its own core has performed on bytes it has sampled: the sample stands (09 R166) -/
  keep : Bool
  /-- its translation has WB set: a store parks on leaving the core (03 R66, 11 R199) -/
  wb : Bool
  /-- log2 of the size of its page (03 R61) -/
  psize : Nat
  /-- on a miss, the leaf that the die TLB or the engine's own look at the page has for it, by entry and log2 of the page size,
  until a shootdown discards it (03 R58, R59, R61), and that it waits for the die TLB and not for a walker -/
  leaf : Option (Nat × Nat)
  dieHit : Bool
  /-- its place among the operations of its core, to know the RELs before it (11 R199) -/
  seq : Nat
  deriving DecidableEq, Repr

/-- Why a core is frozen, by the codes of 08 R137, with the DETAIL of its record and the issue cycle of the item that
holds it; id is the walk or the access it waits for. -/
structure Hold where
  cause : Nat
  detail : Nat
  issued : Nat
  id : Nat
  deriving DecidableEq, Repr

/-- The freeze episode under way (08 R137). -/
structure Episode where
  cause : Nat
  detail : Nat
  sched : Nat
  pc : Nat
  lost : Nat
  deriving DecidableEq, Repr

/-- A flag wait (15 R275): flag, value awaited, and the chip cycle on which the next bundle issues once it is satisfied. -/
structure FlagWait where
  flag : Nat
  val : Bool
  resume : Option Nat
  deriving DecidableEq, Repr

/-- A rendezvous wait (09 R158): group, destination scalar, and that the round closed while the core was at the tellers,
with its common chip cycle and value (09 R161). -/
structure RdvWait where
  group : Nat
  dst : Nat
  closed : Option (Nat × Word)
  deriving DecidableEq, Repr

/-- A core TLB entry (03 R58): CTXID, virtual page number, log2 of the page size, the leaf entry. -/
structure TlbEntry where
  ctx : Nat
  vpage : Nat
  size : Nat
  leaf : Nat
  deriving DecidableEq, Repr

/-- An entry of the address table (11 R203, 16 R293): the form (0 lds.v, 1 lds.g), PLY, W, address, the space and byte
range read, the issue number of its LDS, whether it is valid and whether it has sampled; deadAt is the chip cycle of the own write
that made it invalid (16 R294). -/
structure AddrEntry where
  id : Nat
  form : Nat
  ply : Nat
  w : Nat
  addr : Nat
  pa : Option Nat
  len : Nat
  valid : Bool
  sampled : Bool
  /-- the chip cycle on which its bundle issued (16 R294) -/
  issuedAt : Nat
  deadAt : Nat
  deriving DecidableEq, Repr

/-- A shape record in the record cache (11 R205): address, 24 words; the most recently used stands first. -/
structure RecEntry where
  addr : Nat
  words : List Word
  deriving DecidableEq, Repr

/-- A REL that has not performed (11 R199): system scope, the ids of the operations it waits for, its issue number. -/
structure Rel where
  sys : Bool
  waits : List Nat
  seq : Nat
  deriving DecidableEq, Repr

/-- What is held after a REL (11 R199). -/
inductive HeldWhat where
  | flag (core f : Nat) (val : Bool)
  | global (id : Nat)
  | engine (id : Nat)
  deriving DecidableEq, Repr

/-- A held operation: the issue number, the first chip cycle of its own offset or window, and what it is. -/
structure HeldOp where
  seq : Nat
  notBefore : Nat
  sys : Bool
  what : HeldWhat
  deriving DecidableEq, Repr

/-- A row of the array (13 R228): the FMT of its last PUSH, kb, the latched weight scale, the block scales if it was pushed
with block, and the element codes of each coefficient; an lc2 row holds its weights as e4m3 codes. -/
structure ArrayRow where
  fmt : Nat
  kb : Nat
  wscale : Nat
  blocks : Option (List Nat)
  codes : List (List Nat)
  deriving DecidableEq, Repr

/-- A SHIFT or ASSAY in the array (13 R230): issue cycle, emerging cycle, ASSAY or SHIFT, its modifiers, the line of the
table of 13 R228, the streamed FMT, order and codes (for an ASSAY with their magnitudes), the ply of its block scales, and
once formed its output for each coefficient: 64 codes, for an ASSAY 64 magnitudes, for a SHIFT the assay column and its
magnitude. -/
structure Beat where
  issued : Nat
  emerge : Nat
  assay : Bool
  neg : Bool
  disc : Bool
  line : Nat
  fmt : Nat
  k : Nat
  codes : List (List Nat)
  mags : List (List Nat)
  blkAt : Option Nat
  formed : Bool
  out : List (List Nat)
  outMag : List (List Nat)
  side : List (Nat × Nat)
  deriving DecidableEq, Repr

/-- The assay accumulators of one accumulator row: per coefficient the sum and its magnitude (13 R235). -/
structure AssayAcc where
  row : Nat
  sums : List (Nat × Nat)
  deriving DecidableEq, Repr

/-- A claim whose assay accumulators have not landed: the cycle, whether it overwrites, the row (none the checksum row), and
what it adds, per coefficient a list of sums and magnitudes (one for a data row, 64 for the checksum row). -/
structure ClaimPend where
  due : Nat
  ow : Bool
  row : Option Nat
  add : List (List (Nat × Nat))
  deriving DecidableEq, Repr

/-- A drained row (13 R238): its number, the plies of the accumulator row and of its copy per coefficient, the values read,
and the assay accumulators it is compared with. -/
structure Drained where
  row : Nat
  accAt : List Nat
  copyAt : List Nat
  codes : List (List Nat)
  check : List (Nat × Nat)
  deriving DecidableEq, Repr

/-- A tile (13 R232): the AD its claims name and that AD's FMT, the rows claimed, the checksum row's claim, the SHIFTs since
the last ASSAY or ZERO, the line and stationary FMT of its SHIFTs, occupancy and order of the last SHIFT, the column checksum
u and its magnitude per coefficient, the assay accumulators, those of the checksum row, the claims still to land in them, the
drained rows, ISAT by a claim, and the issue cycle of its checksum DRAIN. -/
structure Tile where
  ad : Option Nat
  adFmt : Nat
  claimed : List Nat
  cksClaimed : Bool
  shifted : Nat
  line : Option Nat
  sfmt : Nat
  occ : Nat
  k : Nat
  u : List (List Nat)
  um : List (List Nat)
  acc : List AssayAcc
  cksAcc : List (List (Nat × Nat))
  pend : List ClaimPend
  drains : List Drained
  isat : Bool
  cks : Option Nat
  deriving DecidableEq, Repr

/-- The array (13 R227 to R244). -/
structure ArrayState where
  rows : List (Nat × ArrayRow)
  /-- PUSHes not yet serving: issue cycle, row number, row -/
  pushes : List (Nat × Nat × ArrayRow)
  beats : List Beat
  tile : Option Tile
  closing : List Tile
  /-- the first schedule cycle on which the SHIFT or ASSAY that holds the slot has left it -/
  busy : Nat
  deriving DecidableEq, Repr

/-- A piece of a unit that an engine command reads: unit, piece, length in bytes, the little-endian data, the first poisoned
line's address, and whether it is there. -/
structure EngUnit where
  idx : Nat
  piece : Nat
  len : Nat
  data : Nat
  poison : Option Nat
  there : Bool
  deriving DecidableEq, Repr

/-- The formats of an engine command's sides: FMT and GEOM of source and destination (19 R338). -/
structure EngLayout where
  sfmt : Nat
  sgeom : Nat
  dfmt : Nat
  dgeom : Nat
  deriving DecidableEq, Repr

/-- An engine command (19 R330 to R337). -/
structure EngCmd where
  id : Nat
  /-- flight-log block 0 to 5 -/
  block : Nat
  op : Nat
  cf : Nat
  post : Bool
  issued : Nat
  start : Nat
  pc : Nat
  va : Word
  vb : Word
  vc : Word
  /-- FPCTL.RM, RSSEED and SCHEDCYC at issue, for a conversion (12 R217, R218) -/
  rm : Nat
  seed : Nat
  schedCyc : Nat
  started : Bool
  /-- the tile descriptor of a gather or scatter as its start cycle reads it (10 R182) -/
  view : Word
  /-- its read stream has ended -/
  streamDone : Bool
  /-- units whose read has been done, units written -/
  reads : Nat
  writes : Nat
  units : List EngUnit
  layout : Option EngLayout
  /-- where the elements of the units of a gather lie, by their ply addresses and tiles, as their reads found them (03 R59) -/
  places : List (Nat × List (Nat × Option (Nat × Nat)))
  /-- the shape record of a gather or scatter, once it serves -/
  record : List Word
  /-- global stores issued and not known performed; global reads or packets outstanding -/
  pend : List Nat
  /-- code and address of a fault -/
  fault : Option (Nat × Nat)
  ended : Bool
  /-- tiles whose read has been retried; units whose CVT has been taken -/
  retries : List Nat
  cvtDone : List Nat
  retried : Bool
  /-- elements left out of the conversion check (07 R116) -/
  satur : Nat
  /-- bytes, elements or tiles completed -/
  count : Nat
  /-- units of a failed group to be read again, with the schedule cycles of their reads (19 R338) -/
  redo : List (Nat × Nat)
  /-- stores that a trap at their issue turned away, to be issued again: address, length, what they store (19 R335) -/
  again : List (Nat × Nat × GlobalKind)
  /-- the data of the chunk that an acknowledged command writes, and how many of its bytes are written -/
  chunk : Option (Nat × Nat)
  /-- code, count and what is left in ACKC of an acknowledged command that has failed, while writes of it are parked (19 R333) -/
  failed : Option (Nat × Nat × Nat)
  /-- held after a REL.sys (11 R199) -/
  held : Bool
  /-- started by a trap handler -/
  handler : Bool
  /-- ranges acknowledged by a peer: offset and length -/
  acked : List (Nat × Nat)
  deriving DecidableEq, Repr

/-- The flight record of a trap or stop (09 R164), structured (log 10). The engines and the array stand in place in the
core. -/
structure FlightRecord where
  respc : Nat
  /-- the bundle at the boundary, where issue goes on after the slots of RESPC that are issued again -/
  bpc : Nat
  done : Nat
  cls : Nat
  kind : Nat
  frz : Nat
  sched : Nat
  fcause : Nat
  fva : Nat
  items : List Item
  causes : List Cause
  xfer : Option (Nat × Nat × Bool)
  rep : Option (Nat × Nat)
  rdvVal : Option Word
  v0Busy : Nat
  v1Busy : Nat
  arrayHeld : Bool
  /-- the core had halted -/
  halted : Bool
  enginesIdle : List Nat
  /-- an ALLOWANCE that an earlier cause went before recurs after the return (09 R162) -/
  allowDue : Bool
  /-- the wait in which the core stood, entered again at the return (09 R161) -/
  flagWait : Option FlagWait
  rdvWait : Option RdvWait
  /-- its trap went to the tellers, from inside a handler too (09 R163, 04 R81) -/
  escalated : Bool
  deriving DecidableEq, Repr

/-- One core. -/
structure Core where
  mode : CoreMode
  /-- the launch that holds it -/
  launch : Option Nat
  pc : Nat
  /-- where the sequencer goes after the present bundle -/
  npc : Nat
  /-- innermost level first -/
  loops : List LoopLevel
  rets : List Nat
  /-- target of a pending transfer, bundles still to issue before it (09 R151), and whether its issue pops the levels that do
  not hold it (15 R268) -/
  xfer : Option (Nat × Nat × Bool)
  rep : Option (Nat × Nat)
  /-- the value that the rdv of the last bundle delivered (09 R160) -/
  rdvVal : Option Word
  sched : Nat
  lag : Nat
  allow : Nat
  allowDue : Bool
  slack : Nat
  seq : Nat
  scalars : Store 64
  preds : Store 128
  /-- register space by ply: lane l at bits 4l+3 to 4l (10 R170) -/
  plies : Store 512
  /-- flag file by bit number 5j+i (10 R177) -/
  flagFile : Store 128
  /-- the RW control registers of 10 R188 by number -/
  ctrl : Store 64
  engQ : List Word
  corQ : List Word
  ackc : Nat
  corrcnt : Nat
  trappc : Nat
  trapcause : Nat
  flags : BitVec 64
  codebook : Store 32
  code : Store 16
  codeLen : Nat
  dict : Store 384
  dictValid : List Nat
  /-- poisoned 16-byte granules of code memory and poisoned dictionary entries (07 R123) -/
  codeBad : List Nat
  dictBad : List Nat
  vault : Store 8
  items : List Item
  causes : List Cause
  globals : List GlobalAcc
  holds : List Hold
  late : Bool
  flagWait : Option FlagWait
  rdvWait : Option RdvWait
  episode : Option Episode
  tlb : List TlbEntry
  addrTab : List AddrEntry
  recs : List RecEntry
  rels : List Rel
  held : List HeldOp
  /-- the pending poison error and its first physical address (07 R125) -/
  poison : Option Nat
  v0Busy : Nat
  v1Busy : Nat
  array : ArrayState
  engines : List EngCmd
  /-- vault bytes that engines read on this cycle: block, address, bytes (11 R194) -/
  engBanks : List (Nat × Nat × Nat)
  /-- the flight record while a delegated handler runs, or while the core is at the tellers, stopped or saved -/
  record : Option FlightRecord
  /-- a delegated handler is running -/
  handler : Bool
  /-- slots of the next bundle that are not to issue again (09 R167), and where issue goes on after it -/
  done : Nat
  resumePc : Option Nat
  /-- R156 checks LAG at the next boundary -/
  lagCheck : Bool
  /-- the brk of the next bundle is suppressed (15 R279) -/
  brkSkip : Bool
  /-- the boundary before the next bundle is a point: marked, and a scan window (06 R103, R111) -/
  atPoint : Bool
  atScan : Bool
  /-- the core stopped at a clean point -/
  clean : Bool
  /-- the freeze cause at the boundary of the last stop (09 R164) -/
  frzAt : Nat
  /-- queue and generation of the launch that held the core last (04 R80) -/
  prevQueue : Option (Nat × Nat)
  /-- the owner tag of its vault lines (07 R122), and the lines that carry another -/
  vaultTag : Nat
  lineTags : List (Nat × Nat)
  /-- SCHEDCYC as it stands after a halt (22 R368); sched goes on counting for what is in flight -/
  haltSched : Option Nat
  deriving DecidableEq, Repr

/-- The array at launch (13 R228, R244). -/
def ArrayState.empty : ArrayState := ⟨[], [], [], none, [], 0⟩

/-- The control registers whose reset value is not 0 (10 R188, 13 R240). -/
def ctrlReset : Store 64 :=
  [(1, 0xFF), (2, 0xFF), (6, 0x1FC), (7, 0x1FC), (64, 0x1A8), (65, 0x21C), (66, 0x21C), (67, 0x21C), (68, 0x21C),
   (69, 0x21C), (70, 0x21C)]

/-- A core before its first launch: everything cleared (01 R23, 04 R80; log 5 for PC, ALLOW and SLACK). -/
def Core.idle : Core :=
  { mode := .idle, launch := none, pc := 0, npc := 0, loops := [], rets := [], xfer := none, rep := none,
    rdvVal := none, sched := 0, lag := 0, allow := 0, allowDue := false, slack := 0, seq := 0, scalars := [],
    preds := [], plies := [], flagFile := [], ctrl := ctrlReset, engQ := [], corQ := [],
    ackc := 0, corrcnt := 0, trappc := 0, trapcause := 0, flags := 0, codebook := [], code := [], codeLen := 0,
    dict := [], dictValid := [], codeBad := [], dictBad := [], vault := [], items := [], causes := [], globals := [],
    holds := [], late := false, flagWait := none, rdvWait := none, episode := none, tlb := [], addrTab := [],
    recs := [], rels := [], held := [], poison := none, v0Busy := 0, v1Busy := 0, array := ArrayState.empty, engines := [], engBanks := [],
    record := none, handler := false, done := 0, resumePc := none, lagCheck := false, brkSkip := false, atPoint := false,
    atScan := false, clean := false, frzAt := 0, prevQueue := none, vaultTag := 0, lineTags := [], haltSched := none }

end Sys2Proof.Machine
end

