-- ==== Sys2Proof/Machine/Device.lean ====
section
/-! DEFINITION. The state of the package outside the cores: queues and launches (04, 06), fabric (02), translation, heat
and migration (03), management (05), reliability (07) and debug (08), as plain data. -/

namespace Sys2Proof.Machine

/-- What leaves the package: the model's record of messages to the outside world (log 7). -/
inductive Output where
  | msix (vector : Nat)
  | unsupportedRequest
  | hdmData (pa : Nat) (data : List Byte) (poison : Bool)
  | hdmDone (pa : Nat)
  | snoop (line : Nat)
  | snoopMiss
  | flit (port : Nat) (p : Packet)
  | sendAgain (port seq : Nat)
  | heartbeat (port : Nat)
  | replay (port : Nat)
  | sideband (code : Nat) (data : List Nat)
  | signature (s : BitVec 384)
  | hostLinkDown
  deriving DecidableEq, Repr

/-- QSTAT.STATE (04 R70). -/
inductive QState where
  | free | active | error | destroyed | destroyedRunning
  deriving DecidableEq, Repr

/-- A packet's header as dispatched (04 R76). -/
structure PktHead where
  type : Nat
  nunits : Nat
  tag : Nat
  fence : Bool
  notify : Bool
  cpladdr : Nat
  deriving DecidableEq, Repr

/-- What a queue is dispatching (04 R75, R84). Of a COPY: how many bytes it has written, whether a tile has failed once, and FMT
and GEOM of its two sides, once it has begun (19 R338). -/
inductive Dispatch where
  | none
  | launch (id : Nat)
  | wait (h : PktHead) (addr : Nat) (value mask : Word) (op : Nat) (deadline : Option Nat)
  | copy (h : PktHead) (frm into len done : Nat) (retried : Bool) (view : Option (Nat × Nat × Nat × Nat))
  deriving DecidableEq, Repr

/-- A queue (04 R68 to R75). gen counts its creations;
kicked: a teller event for its next packet is in the agenda; cmds: the commands not yet handled (1 CREATE, 2 DESTROY, 3 STOP,
4 RESUME), the oldest first, and whether that one has been taken and waits for the ordering lock (05 R88). -/
structure Queue where
  qbase : Word
  qcfg : Word
  qroot : Word
  qrsv : Word
  qtail : Nat
  qhead : Nat
  done : Nat
  lasterr : Nat
  rung : Nat
  revoked : Bool
  tainted : Bool
  state : QState
  gen : Nat
  disp : Dispatch
  kicked : Bool
  cmds : List Nat
  cmdWaits : Bool
  deriving DecidableEq, Repr

/-- An image descriptor of a LAUNCH (04 R78). -/
structure Image where
  codeva : Nat
  codelen : Nat
  entry : Nat
  dictn : Nat
  dictbase : Nat
  dictva : Nat
  deriving DecidableEq, Repr

/-- A preset of a LAUNCH (04 R78). -/
structure Preset where
  core : Nat
  tgt : Nat
  value : Word
  deriving DecidableEq, Repr

/-- The body of a LAUNCH packet (04 R78). -/
structure LaunchPkt where
  reloff : Nat
  slack : Nat
  pptdist : Nat
  scandist : Nat
  allow : Nat
  nref : Nat
  apol : Nat
  keepv : Bool
  refill : Nat
  deleg : Nat
  trapvec : Nat
  gangid : Nat
  t1 : Nat
  t2 : Nat
  flags : Word
  cores : List Nat
  cmap : List Nat
  images : List Image
  presets : List Preset
  deriving DecidableEq, Repr

/-- Where a launch stands (04 R80, 06 R100 to R110). -/
inductive LPhase where
  | waiting | loading | running | stopping | stopped | saving | saved | resuming | escrowed | ended
  deriving DecidableEq, Repr

/-- A launch (04 R78 to R82, 06 R100 to R110, 07 R127). -/
structure Launch where
  id : Nat
  queue : Nat
  gen : Nat
  head : PktHead
  pkt : LaunchPkt
  root : Nat
  prio : Nat
  escrow : Nat
  owner : Nat
  beganAt : Nat
  phase : LPhase
  /-- chip cycles: claim D, loading done Y, release -/
  claimAt : Nat
  loadedAt : Nat
  /-- its saves under way (06 R108): the die, the chip cycle of the end and the shadow slots taken -/
  saves : List (Nat × Nat × Nat)
  relcyc : Nat
  laterel : Bool
  released : Bool
  refills : Nat
  /-- the chip cycle of the stop request, whether the host asked (a host stop waits for RESUME), the ladder is in force,
  and the cores stopped with their chip cycles -/
  stopAt : Option Nat
  hostStop : Bool
  /-- a host STOP of it waits for free slots (06 R108), and the waiting launch for which it was stopped (06 R102) -/
  stopWanted : Bool
  stopFor : Option Nat
  ladder : Bool
  stops : List (Nat × Nat)
  rung : Nat
  /-- restart chip cycles of the cores after a restore -/
  restarts : List (Nat × Nat)
  code : Nat
  detail : Nat
  /-- physical clusters with the chip cycle of the launch's last use (07 R127); the tainted logical clusters -/
  prov : List (Nat × Nat)
  taint : Nat
  recorded : Bool
  /-- the record waits for an automatic dump (08 R142) -/
  dumping : Bool
  /-- the chip cycle of the debug stop it stands in (08 R136) -/
  dbgAt : Option Nat
  deriving DecidableEq, Repr

/-- A saved context (06 R107, R108): the core's state, and whether it lies in a shadow slot of its die or in the HBM area. While
it is being restored its state stands in the core, and its slot is still taken (07 R133). -/
structure SavedCtx where
  core : Nat
  launch : Nat
  hbm : Bool
  savedAt : Nat
  restoring : Bool
  ctx : Core
  deriving DecidableEq, Repr

/-- A rendezvous round (09 R158): launch, group, the opener's n, arrivals with their values. -/
structure Round where
  launch : Nat
  group : Nat
  n : Nat
  arrived : List (Nat × Word)
  closed : Bool
  /-- cycles left to its release when a debug stop fell between (08 R136) -/
  left : Option Nat
  deriving DecidableEq, Repr

/-- A Sarene port (02 R28). state: 0 DOWN, 1 TRAINING, 2 UP. -/
structure Port where
  state : Nat
  half : Bool
  peerPkg : Nat
  peerPort : Nat
  retry : Nat
  badflit : Nat
  fails : Nat
  lastRx : Nat
  lastTx : Nat
  deriving DecidableEq, Repr

/-- An entry of the group table (02 R36). -/
structure GroupEntry where
  valid : Bool
  parent : Nat
  rank : Nat
  size : Nat
  child : Nat
  gtmo : Nat
  seq : Nat
  deriving DecidableEq, Repr

/-- An input of a reduction at this Spindle (02 R38): the port it came in on (24 for the own input), its key, NR, FMT,
element count, and its tiles in the pieces that packets have brought, each at its offset. -/
structure GroupInput where
  port : Nat
  key : Nat
  nr : Nat
  fmt : Nat
  count : Nat
  pieces : List (Nat × List Byte)
  deriving DecidableEq, Repr

/-- An operation of a group in progress (02 R38, R39): its inputs, the own contribution's core and engine command and its
GEOM, the ports whose input has failed once, the timer's deadline or what remains of it while it stands still, whether the
partial has left for the parent, and the result's element codes once it has come and whether it has failed once. -/
structure GroupOp where
  group : Nat
  seq : Nat
  inputs : List GroupInput
  own : Option (Nat × Nat)
  geom : Nat
  failed : List Nat
  deadline : Nat
  paused : Option Nat
  sentUp : Bool
  resultFailed : Bool
  result : Option (List Nat)
  /-- what this Spindle has sent by a port of the tree, kept until the operation ends, and the result as far as it has come -/
  kept : List (Nat × Packet)
  back : List (Nat × List Byte)
  deriving DecidableEq, Repr

/-- A fabric packet sent by an engine and not yet acknowledged (02 R33). -/
structure OutPkt where
  tag : Nat
  core : Nat
  cmd : Nat
  pkt : Packet
  sentAt : Nat
  resent : Bool
  deriving DecidableEq, Repr

/-- A change of a port's state as the tellers are to report it (05 R87, R91): port, STATE, HALF, PEERPKG and its chip cycle. -/
structure LinkNews where
  port : Nat
  state : Nat
  half : Bool
  peer : Nat
  cyc : Nat
  deriving DecidableEq, Repr

/-- The fabric side of the Spindle (02): its ports, number and routes, the (SRC, TAG) pairs performed with what was
answered, the packets sent and not acknowledged, WRITE packets of tiles that are not yet whole, the groups and their
operations, the hold set, the lost packages with the chip cycles of their loss, and the port changes not yet reported. -/
structure Fabric where
  ports : List Port
  fabid : Nat
  routes : Store 32
  performed : List ((Nat × Nat) × Nat)
  outstanding : List OutPkt
  tagNext : Nat
  partTiles : List Packet
  groups : List (Nat × GroupEntry)
  ops : List GroupOp
  holds : List Nat
  lost : List (Nat × Nat)
  linkNews : List LinkNews
  deriving DecidableEq, Repr

/-- An entry of the heat table (03 R62). -/
structure HeatEntry where
  ctx : Nat
  base : Nat
  size : Nat
  loc : Nat
  count : Nat
  notified : Bool
  age : Nat
  deriving DecidableEq, Repr

/-- Lines touched on a page on the present chip cycle (03 R62). -/
structure Touch where
  ctx : Nat
  base : Nat
  size : Nat
  loc : Nat
  lines : Nat
  deriving DecidableEq, Repr

/-- A table entry in the walker cache (03 R58): CTXID, level 1 to 4, the address bits that select it, the entry. -/
structure WalkEntry where
  ctx : Nat
  level : Nat
  prefix_ : Nat
  entry : Nat
  deriving DecidableEq, Repr

/-- A notification of the heat ring (03 R63), a 16-byte entry. -/
abbrev RingEntry := BitVec 128

/-- A migration (03 R67). -/
structure Migration where
  slot : Nat
  ctx : Nat
  root : Nat
  va : Nat
  size : Nat
  pteAddr : Nat
  pte : Nat
  oldPa : Nat
  oldLoc : Nat
  newPa : Nat
  newLoc : Nat
  /-- 1 to 5, the step of R67 under way -/
  step : Nat
  failed : Nat
  /-- heat: the page counts heat -/
  heat : Bool
  /-- a tile has failed once and been requested again (03 R67) -/
  retried : Bool
  /-- the drop of the shootdown under way: its chip cycle and the accesses by dropped entries (03 R61) -/
  dropped : Option (Nat × List Nat)
  deriving DecidableEq, Repr

/-- A parked write (03 R66): the die of its buffer, the core and access (or engine command) it counts for, the migration's
slot, the offset in the page, how many bytes it covers, what it writes and the chip cycle on which it parked. -/
structure Parked where
  die : Nat
  core : Nat
  acc : Nat
  engine : Bool
  slot : Nat
  off : Nat
  len : Nat
  kind : GlobalKind
  at_ : Nat
  deriving DecidableEq, Repr

/-- Translation, heat and migration on the Spindle (03). -/
structure Xlate where
  fabroot : Nat
  tlbinvVa : Word
  tlbinvCtl : Word
  issued : Nat
  doneCnt : Nat
  shootdowns : List (Nat × Nat)
  /-- the drop of the first of them, if it has taken place (03 R61) -/
  dropped : Option (Nat × List Nat)
  heatCfg : Word
  drop : Nat
  evict : Nat
  heat : List HeatEntry
  heatRing : List RingEntry
  heatAge : Nat
  /-- the threshold for the increments of the present chip cycle (03 R64), and these increments -/
  thr : Nat
  touches : List Touch
  decayAt : Nat
  migVa : Word
  migCtl : Word
  migPa : Word
  migstat : List Word
  migs : List Migration
  parked : List Parked
  /-- the die TLBs with their dies, the latest first, and the walker cache (03 R58) -/
  dieTlb : List (Nat × TlbEntry)
  walkCache : List WalkEntry
  deriving DecidableEq, Repr

/-- A ring in HBM4 that the device writes (05 R89, 08 R138). -/
structure Ring where
  base : Word
  cfg : Word
  prod : Nat
  cons : Nat
  lost : Nat
  deriving DecidableEq, Repr

/-- A section of the hand-over structure (05 R94): TYPE, offset, length and CRC-32 of its directory entry, and its bytes as a
number (log 23). -/
structure HandoverSection where
  type : Nat
  off : Nat
  len : Nat
  crc : BitVec 32
  content : Nat
  deriving DecidableEq, Repr

/-- The hand-over structure (05 R94): the header's fields but NSEC and LEN, and the sections. -/
structure Handover where
  magic : Nat
  hvmaj : Nat
  hvmin : Nat
  fromver : Nat
  tover : Nat
  sections : List HandoverSection
  deriving DecidableEq, Repr

/-- A firmware image: its length in bytes and its bytes from 0 (05 R92, R93). -/
structure FwImage where
  len : Nat
  data : Store 8
  deriving DecidableEq, Repr

/-- Firmware update (05 R92 to R95). -/
structure Firmware where
  fwimg : Word
  state : Nat
  err : Nat
  actver : Nat
  pendver : Nat
  actslot : Nat
  otherValid : Bool
  /-- version of the image in the slot that is not active -/
  otherVer : Nat
  /-- the two image slots of the flash: the active one and the other (01 R16, 05 R93) -/
  actImage : FwImage
  otherImage : FwImage
  /-- the image that the side-band has transferred for the STAGE under way (05 R97) -/
  component : Option FwImage
  hbdl : Nat
  /-- the chip cycle of the hand-over or of the roll-back -/
  since : Nat
  staging : Bool
  rejected : Bool
  /-- the chip cycle by which a restarted old image must have sent its first heartbeat (05 R95) -/
  beatBy : Option Nat
  /-- the hand-over structure last written to Spindle SRAM (05 R94) -/
  handover : Option Handover
  deriving DecidableEq, Repr

/-- The sweep of an array instance by the carder (07 R119, R120): what it has read of its period, and what it should have, in ms at
multiplier 1; whether it has stopped deferring; the chip cycles of its begin and of the last ended sweep's begin; the chip cycles of
the corrections of the last 100 ms; and its multiplier M. -/
structure Sweep where
  done : Nat
  due : Nat
  eager : Bool
  began : Nat
  passed : Option Nat
  fixes : List Nat
  rate : Nat
  deriving DecidableEq, Repr

/-- The rotating scan of one die (07 R126, R129): logical cluster named, physical cluster being scanned, rotation stopped,
steps completed, chip cycle of the last naming and of the next, start of the scan under way. -/
structure Scan where
  named : Option Nat
  scanning : Option Nat
  stopped : Bool
  rot : Nat
  namedAt : Nat
  nextAt : Nat
  startedAt : Nat
  moving : Bool
  /-- the logical cluster that the scan under way concerns, and whether it is scanned in place -/
  subject : Nat
  inPlace : Bool
  deriving DecidableEq, Repr

/-- Reliability (07). -/
structure Reliab where
  relcfg : Word
  cardThr : Word
  ue : Nat
  late : Nat
  ce : Nat
  ueaddr : Word
  ueinfo : Word
  rhsel : Word
  decayAt : Nat
  scans : List Scan
  /-- chip cycle of the last passed scan's begin of a physical cluster 17d + c; unlisted: the boot scan -/
  passed : List (Nat × Nat)
  /-- spare map: (16d + c, physical cluster of the die); unlisted: the identity -/
  bind : List (Nat × Nat)
  /-- retired physical clusters, logical clusters without a home -/
  retired : List Nat
  homeless : List Nat
  /-- row-health counters by 128·(physical core) + row -/
  rows : Store 4
  /-- retired rows: (physical core, row) in the order of the spares taken -/
  spares : List (Nat × Nat)
  pendingRows : List (Nat × Nat)
  /-- physical cores whose third row reached the threshold -/
  badCores : List Nat
  /-- owner tags of launches that have ended and are not swept yet, with the chip cycle of the end (07 R122) -/
  oldTags : List (Nat × Nat)
  /-- the sweeps of the array instances in the order of sweepKinds; an unlisted one has not begun -/
  sweeps : List Sweep
  deriving DecidableEq, Repr

/-- A write through the lateral port into an issuing core's own vault, by an acknowledged engine command (11 R193, R200): the core
and the launch whose context it belongs to, the address and the bytes, whether it is the final status word, and the entry that
the command's end pushes. -/
structure Lateral where
  core : Nat
  launch : Option Nat
  addr : Nat
  data : List Byte
  status : Bool
  entry : Option Word
  deriving DecidableEq, Repr

/-- A dump under way (08 R142 to R144): core, launch, its queue, bytes of the buffer, whether AUTO began it, the stop's
chip cycle, and the bytes written so far. -/
structure Dump where
  core : Nat
  launch : Nat
  queue : Nat
  limit : Nat
  auto : Bool
  chip : Nat
  off : Nat
  deriving DecidableEq, Repr

/-- An upset that has fired and whose tile has not closed (08 R146). -/
structure Upset where
  core : Nat
  ad : Nat
  row : Nat
  col : Nat
  deriving DecidableEq, Repr

/-- The event queue of the tellers (05 R86): the pending events, the oldest first, with their class (urgent or not), the events
whose sources found the queue full, and the events that a teller has taken and not yet handled. -/
structure Tellers where
  pending : List (Bool × Instr)
  full : List (Bool × Instr)
  taken : List Instr
  deriving DecidableEq, Repr

/-- Debug, trace, sketches, dumps and upset injection (08). -/
structure Debug where
  dbgstat : Word
  stoppedCore : Nat
  bps : List Word
  /-- a STEP under way: core, launch, the SCHEDCYC of its end (08 R136) -/
  step : Option (Nat × Nat × Nat)
  trc : Ring
  /-- freeze episodes that have ended on the present chip cycle (08 R138) -/
  ended : List (Nat × Episode)
  seed : Word
  skctl : Word
  skqest : Word
  skq : Option Word
  sketch : Store 32
  dumpVa : Word
  dumpCtl : Word
  dumpStat : Word
  dump : Option Dump
  upsetCtl : Word
  upsetStat : Word
  upsets : List Upset
  deriving DecidableEq, Repr

/-- A slot of the configuration record in flash (01 R22, R23): the sequence number if its signature verifies, and the record. -/
structure FlashRecord extends ConfigRecord where
  seq : Option Nat
  deriving DecidableEq, Repr

/-- Power, resets and bring-up (01 R20 to R25, 03 R46). -/
structure Power where
  stby12 : Bool
  main48 : Bool
  hostLink : Bool
  ready : Bool
  recovery : Bool
  nospare : Nat
  bilink : Bool
  /-- admission hold: conditions 0 power, 1 junction, 2 HBM4 (01 R21), 3 side-band (05 R98), 4 no MAIN48 (log 11) -/
  holds : List Nat
  boot : Option BootInput
  /-- MSI-X messages posted while the host link is down (01 R25) -/
  msixWait : List Nat
  deriving DecidableEq, Repr

/-- A device access held by a back-invalidate snoop, with the chip cycle of the snoop (03 R48). -/
structure Held where
  line : Nat
  core : Nat
  acc : Nat
  since : Nat
  deriving DecidableEq, Repr

/-- A line that its L2 slice may hold dirty (01 R16, 07 R122): the owner tag, what HBM4 itself still holds, and whether it is
poisoned there. -/
structure L2Line where
  tag : Nat
  under : Nat
  bad : Bool
  deriving DecidableEq, Repr

/-- Memories outside the cores: HBM4, second tier and host memory, the poisoned lines (line numbers), the HDM lines that
the host holds (log 14), and the lines dirty in L2. HBM4 is held as every access sees it, through L2. -/
structure Mem where
  hbm : Store 8
  tier : Store 8
  host : Store 8
  hbmPoison : List Nat
  tierPoison : List Nat
  hostPoison : List Nat
  hostLines : List Nat
  snoops : List Held
  l2 : List (Nat × L2Line)
  deriving DecidableEq, Repr

end Sys2Proof.Machine
end

