-- ==== Sys2Proof/Machine/State.lean ====
section
/-! DEFINITION. The state of the package, its faults and refusals, and the state after reset. -/

namespace Sys2Proof.Machine

/-- Faults: the model stops. -/
inductive Fault where
  /-- raised by HDM_WRITE and HDM_READ at a physical address outside the HDM decoder's range, which names no byte of the
  package (03 R47); safe: the model stops where the host's own decoder would not have sent the access -/
  | outsideHdm (pa : Nat)
  deriving DecidableEq, Repr

/-- Refusals: the model gives no meaning. -/
inductive Refusal where
  /-- raised by exec for an instruction without a meaning yet; safe: nothing can be proved of a run past it -/
  | notModelled (mnemonic : String)
  deriving DecidableEq, Repr

/-- The package. agenda holds the events still to come with their chip cycles (log 1); fresh counts the free values drawn
(log 3); cur is the logical core whose slot executes (log 1); out is what has left the package, the latest first (log 7). -/
structure State where
  chip : Nat
  agenda : List (Nat × Instr)
  fresh : Nat
  cur : Nat
  nextId : Nat
  out : List Output
  power : Power
  /-- the two configuration-record slots of the flash (01 R16) -/
  flash : List FlashRecord
  cores : List (Nat × Core)
  mem : Mem
  queues : List (Nat × Queue)
  launches : List Launch
  saved : List SavedCtx
  /-- cores earmarked for a waiting launch (06 R101), and the cores known not to be free -/
  marks : List (Nat × Nat)
  busyCores : List Nat
  tellers : Tellers
  rounds : List Round
  /-- lateral writes of acknowledged commands that perform on the present chip cycle (11 R193) -/
  lateral : List Lateral
  ownerNext : Nat
  ctxsave : Word
  fabric : Fabric
  xlate : Xlate
  nq : Ring
  fw : Firmware
  reliab : Reliab
  dbg : Debug
  deriving DecidableEq, Repr

/-- A queue page at reset (04 R68, R70). -/
def Queue.reset : Queue :=
  { qbase := 0, qcfg := 0, qroot := 0, qrsv := 0, qtail := 0, qhead := 0, done := 0, lasterr := 0, rung := 0,
    revoked := false, tainted := false, state := .free, gen := 0, disp := .none, kicked := false,
    cmds := [], cmdWaits := false }

/-- A port at reset (02 R28). -/
def Port.reset : Port :=
  { state := 0, half := false, peerPkg := 0, peerPort := 0, retry := 0, badflit := 0, fails := 0, lastRx := 0,
    lastTx := 0 }

/-- An entry of the group table at reset (02 R36). -/
def GroupEntry.reset : GroupEntry :=
  { valid := false, parent := 0, rank := 0, size := 0, child := 0, gtmo := 0, seq := 0 }

/-- The scan of one die at reset (07 R132). -/
def Scan.reset : Scan :=
  { named := none, scanning := none, stopped := false, rot := 0, namedAt := 0, nextAt := 0, startedAt := 0, moving := false,
    subject := 0, inPlace := false }

/-- The fabric at reset (02 R28, R29, R36; log 5 for FABID and the routes). -/
def Fabric.reset : Fabric :=
  { ports := List.replicate 24 Port.reset, fabid := 0, routes := [], performed := [], outstanding := [], tagNext := 0,
    partTiles := [], groups := [], ops := [], holds := [], lost := [], linkNews := [] }

/-- Translation, heat and migration at reset (03 R60, R64). -/
def Xlate.reset : Xlate :=
  { fabroot := 0, tlbinvVa := 0, tlbinvCtl := 0, issued := 0, doneCnt := 0, shootdowns := [], dropped := none,
    heatCfg := 0x100000100, drop := 0, evict := 0, heat := [], heatRing := [], heatAge := 0, thr := 256, touches := [],
    decayAt := 0, migVa := 0, migCtl := 0, migPa := 0, migstat := [0, 0, 0, 0], migs := [], parked := [], dieTlb := [], walkCache := [] }

/-- A ring at reset (05 R89). -/
def Ring.reset : Ring := { base := 0, cfg := 0, prod := 0, cons := 0, lost := 0 }

/-- Firmware state at reset (05 R92; log 5 for the image's version and slot). -/
def Firmware.reset : Firmware :=
  { fwimg := 0, state := 0, err := 0, actver := 0, pendver := 0, actslot := 0, otherValid := false, otherVer := 0, hbdl := 0,
    actImage := ⟨0, []⟩, otherImage := ⟨0, []⟩, component := none, since := 0, staging := false, rejected := false, beatBy := none, handover := none }

/-- Reliability at reset (07 R132): ROWTHR 4, ROWDECAY 10, SCAN_IVL 400, PCT 75. -/
def Reliab.reset : Reliab :=
  { relcfg := 0x40A0190, cardThr := 75, ue := 0, late := 0, ce := 0, ueaddr := 0, ueinfo := 0, rhsel := 0,
    decayAt := 0, scans := List.replicate 4 Scan.reset, passed := [], bind := [], retired := [], homeless := [],
    rows := [], spares := [], pendingRows := [], badCores := [], oldTags := [], sweeps := [] }

/-- Debug at reset (08): TRCCFG.MINLOST 1. -/
def Debug.reset : Debug :=
  { dbgstat := 0, stoppedCore := 0, bps := [0, 0, 0, 0], step := none, trc := { Ring.reset with cfg := 0x100000000 }, ended := [],
    seed := 0, skctl := 0, skqest := 0, skq := none, sketch := [], dumpVa := 0, dumpCtl := 0, dumpStat := 0,
    dump := none, upsetCtl := 0, upsetStat := 0, upsets := [] }

/-- A record with the identity as its spare map, nothing retired, and every port to train (log 5). -/
def FlashRecord.factory : FlashRecord :=
  { seq := none, cfgVer := Config.cfgVer, fabid := 0, routes := [], bind := [], retired := [], homeless := [], spares := [],
    ports := List.range 24, thermal := [], minSvn := 0 }

/-- What the bring-up finds in the flash, the scan and the links when the world says nothing else (log 11). -/
def BootInput.standard : BootInput :=
  { main48 := true, pufOk := true, recA := some 0, recB := none, imgActive := true, imgOther := false, failing := [], ports := [] }

/-- Power at the moment of power-up (01 R20, R23). -/
def Power.reset : Power :=
  { stby12 := true, main48 := true, hostLink := false, ready := false, recovery := false, nospare := 0,
    bilink := false, holds := [], boot := none, msixWait := [] }

/-- Memory at reset: nothing listed (log 2). -/
def Mem.reset : Mem :=
  { hbm := [], tier := [], host := [], hbmPoison := [], tierPoison := [], hostPoison := [], hostLines := [],
    snoops := [], l2 := [] }

/-- The package at power-up: POWER_UP is the first event (01 R23; log 4). -/
def State.reset : State :=
  { chip := 0, agenda := [(0, .powerUp BootInput.standard)], fresh := 0, cur := 0, nextId := 0, out := [],
    power := Power.reset, flash := [{ FlashRecord.factory with seq := some 0 }, FlashRecord.factory], cores := [],
    mem := Mem.reset, queues := [], launches := [], saved := [], marks := [], busyCores := [],
    tellers := ⟨[], [], []⟩, rounds := [], lateral := [],
    ownerNext := 1, ctxsave := 0, fabric := Fabric.reset, xlate := Xlate.reset, nq := Ring.reset, fw := Firmware.reset,
    reliab := Reliab.reset, dbg := Debug.reset }

end Sys2Proof.Machine
end

