-- ==== Sys2Proof/Machine/Ops.lean ====
section
/-! DEFINITION. The named operations over memories, registers, pending items and time, taking an exception and returning
from one. Every meaning is written over these. -/

namespace Sys2Proof.Machine

/-! Sparse stores. -/

/-- The value at a key; an unlisted key reads 0. -/
def Store.read {w : Nat} (m : Store w) (a : Nat) : BitVec w :=
  match m with
  | [] => 0
  | (k, v) :: r => if k = a then v else Store.read r a

/-- The cells of consecutive values from key a, the zeros left out. -/
def Store.cells {w : Nat} (a : Nat) (vs : List (BitVec w)) : Store w :=
  match vs with
  | [] => []
  | v :: r => if v = 0 then Store.cells (a + 1) r else (a, v) :: Store.cells (a + 1) r

/-- Writes consecutive values from key a. -/
def Store.put {w : Nat} (m : Store w) (a : Nat) (vs : List (BitVec w)) : Store w :=
  m.filter (fun c => c.1 < a) ++ Store.cells a vs ++ m.filter (fun c => a + vs.length ≤ c.1)

/-- Writes one value. -/
def Store.write {w : Nat} (m : Store w) (a : Nat) (v : BitVec w) : Store w := Store.put m a [v]

/-- The canonical form: keys strictly rising, no zero listed. -/
def Store.wf {w : Nat} (m : Store w) : Bool :=
  match m with
  | [] => true
  | [(_, v)] => v != 0
  | (a, v) :: (b, u) :: r => v != 0 && a < b && Store.wf ((b, u) :: r)

/-- The little-endian number of n bytes from address a (00 R6). -/
def Store.num (m : Store 8) (a n : Nat) : Nat :=
  (m.filter (fun c => a ≤ c.1 && c.1 < a + n)).foldl (fun acc c => acc + c.2.toNat <<< (8 * (c.1 - a))) 0

/-- The n bytes of a little-endian number (00 R6). -/
def numBytes (n v : Nat) : List Byte := (List.range n).map fun i => BitVec.ofNat 8 (v >>> (8 * i))

/-- The number of a list of bytes (00 R6). -/
def bytesNum (bs : List Byte) : Nat := bs.foldr (fun b acc => b.toNat + 256 * acc) 0

/-- Removes the cells of n keys from a, which then read 0. -/
def Store.clear {w : Nat} (m : Store w) (a n : Nat) : Store w := m.filter fun c => c.1 < a || a + n ≤ c.1

/-- Copies n keys from key a of one store to key b of another. -/
def Store.blit {w : Nat} (dst src : Store w) (a b n : Nat) : Store w :=
  dst.filter (fun c => c.1 < b) ++ (src.filter fun c => a ≤ c.1 && c.1 < a + n).map (fun c => (c.1 - a + b, c.2))
    ++ dst.filter fun c => b + n ≤ c.1

/-! Sorting. -/

/-- Inserts an element before the first that it does not follow. -/
def insertBy {α : Type} (le : α → α → Bool) (x : α) : List α → List α
  | [] => [x]
  | y :: r => if le x y then x :: y :: r else y :: insertBy le x r

/-- A stable sort. -/
def sortBy {α : Type} (le : α → α → Bool) : List α → List α
  | [] => []
  | x :: r => insertBy le x (sortBy le r)

/-! Lanes. -/

/-- The 128 lanes. -/
def lanes : List Nat := List.range 128

/-- A 64-bit word sign-extended from its low n bits (00 R6). -/
def sextNat (n v : Nat) : Word :=
  let v := v % 2 ^ n
  if n = 0 then 0 else if v < 2 ^ (n - 1) then BitVec.ofNat 64 v else BitVec.ofInt 64 ((v : Int) - 2 ^ n)

/-- Splits a number of 128 fields of w plies, lane 0 lowest (16 R287). -/
def splitLanes (w v : Nat) : List Nat := lanes.map fun l => v >>> (4 * w * l) % 2 ^ (4 * w)

/-- Joins 128 lane values of w plies, lane 0 lowest (16 R287). -/
def joinLanes (w : Nat) (vals : List Nat) : Nat := vals.foldr (fun x acc => x % 2 ^ (4 * w) + acc <<< (4 * w)) 0

/-- A mask from a list of lane bits, lane 0 first. -/
def maskOf (bs : List Bool) : LaneMask :=
  BitVec.ofNat 128 (bs.foldr (fun b acc => (if b then 1 else 0) + 2 * acc) 0)

/-- The lanes of the groups set in an 8-bit VGM (10 R179). -/
def groupLanes (vgm : Nat) : LaneMask := maskOf (lanes.map fun l => vgm.testBit (l / 16))

/-! Cores and time. -/

/-- The core of a logical number; a core that no launch has touched is idle. -/
def State.core (s : State) (n : Nat) : Core :=
  match s.cores.find? (fun p => p.1 == n) with
  | some p => p.2
  | none => Core.idle

/-- Inserts or replaces at a key in a list kept in rising order of keys. -/
def setAt {α : Type} (l : List (Nat × α)) (n : Nat) (a : α) : List (Nat × α) :=
  match l with
  | [] => [(n, a)]
  | (k, b) :: r => if k = n then (n, a) :: r else if n < k then (n, a) :: (k, b) :: r else (k, b) :: setAt r n a

/-- Replaces a core. -/
def State.setCore (s : State) (n : Nat) (c : Core) : State := { s with cores := setAt s.cores n c }

/-- Changes a core. -/
def State.updCore (s : State) (n : Nat) (f : Core → Core) : State := s.setCore n (f (s.core n))

/-- A core has an access or an engine command of a number. -/
def Core.owns (c : Core) (id : Nat) : Bool := c.globals.any (fun a => a.id == id) || c.engines.any fun e => e.id == id

/-- The context that owns an access or command of core n: the core's own, or a saved one (06 R107). -/
def State.owner (s : State) (n id : Nat) : Core :=
  if (s.core n).owns id then s.core n
  else match s.saved.find? fun x => x.core == n && x.ctx.owns id with
    | some x => x.ctx
    | none => s.core n

/-- Changes the context that owns an access or command. -/
def State.updOwner (s : State) (n id : Nat) (f : Core → Core) : State :=
  if (s.core n).owns id then s.updCore n f
  else { s with saved := s.saved.map fun x => if x.core == n && x.ctx.owns id then { x with ctx := f x.ctx } else x }

/-- Changes the core whose slot executes. -/
def State.onCur (s : State) (f : Core → Core) : State := s.updCore s.cur f

/-- The core whose slot executes. -/
def State.curCore (s : State) : Core := s.core s.cur

/-- Enters an event at a chip cycle (log 1). -/
def State.plan (s : State) (t : Nat) (i : Instr) : State := { s with agenda := s.agenda ++ [(t, i)] }

/-- Draws a free moment below n (log 3, log 8). -/
def State.drawBelow (s : State) (n : Nat) : Nat × State :=
  (Config.freeTime s.fresh % n, { s with fresh := s.fresh + 1 })

/-- Draws a free moment without bound (log 3). -/
def State.draw (s : State) : Nat × State := (Config.freeTime s.fresh, { s with fresh := s.fresh + 1 })

/-- Enters an event at a free moment at most n cycles from now (log 3). -/
def State.planWithin (s : State) (n : Nat) (i : Instr) : State :=
  let (d, s) := s.drawBelow (n + 1)
  s.plan (s.chip + d) i

/-- Enters an event at a free moment after the present chip cycle (log 3). -/
def State.planFree (s : State) (i : Instr) : State :=
  let (d, s) := s.draw
  s.plan (s.chip + 1 + d) i

/-! The tellers (05 R86 to R88). -/

/-- The queue whose ordering lock an event of the tellers needs (05 R88). -/
def queueOf (i : Instr) : Option Nat :=
  match i with
  | .launch n | .wait n | .signal n | .copyPacket n | .query n => some n
  | .qcmdCreate n | .qcmdDestroy n | .preemptStop n | .preemptResume n => some n
  | _ => none

/-- The event of a tail write: a teller looks at the next packet of a queue (05 R87). -/
def tailLook (i : Instr) : Bool :=
  match i with
  | .launch _ | .wait _ | .signal _ | .copyPacket _ | .query _ => true
  | _ => false

/-- The Class column of 05 R87: an escalated trap, a scan result, a link event, a thermal or power condition is urgent. -/
def urgent (i : Instr) : Bool :=
  match i with
  | .tellerTrapEvent _ | .scanResult .. | .linkEvent .. | .packageLoss .. | .powerLimitHold _ | .admissionResume _
  | .thermalTrip | .main48Loss => true
  | _ => false

/-- A teller's timer (05 R87): WAIT polling and time-out, ladder T1 and T2, the heartbeat deadline. -/
def timer (i : Instr) : Bool :=
  match i with
  | .waitPoll _ | .waitTimeout _ | .ladderT1 | .ladderT2 | .heartbeatDeadline => true
  | _ => false

/-- A request of the side-band (05 R87, R97, R98). -/
def sideBand (i : Instr) : Bool :=
  match i with
  | .getVersion | .getCapabilities | .negotiateAlgorithms | .getDigests | .getCertificate | .challenge | .getMeasurements
  | .mctpControl | .pldmBaseRequest | .pldmIdentity | .pldmFruRead | .pldmSensorRead _ | .pldmAdmissionHold _ | .pldmComputeReset
  | .pldmSpindleReset | .pldmFwUpdate .. => true
  | _ => false

/-- A firmware command of the host (05 R87). -/
def fwCommand (i : Instr) : Bool :=
  match i with
  | .fwctlStage _ | .fwctlActivate _ | .fwctlAbort _ => true
  | _ => false

/-- Events that fall due at their source and enter the tellers' event queue there (05 R87): a scan result, a package loss, a thermal or
power condition, a side-band request, a firmware command, a timer. The other kinds are entered by what causes them. -/
def arrives (i : Instr) : Bool :=
  timer i || sideBand i || fwCommand i ||
    match i with
    | .scanResult .. | .packageLoss .. | .powerLimitHold _ | .admissionResume _ | .thermalTrip | .main48Loss => true
    | _ => false

/-- DESIGN CHOICE (log 12): the kinds that a teller handles on the chip cycle on which it takes them, so that the moments of the rules
hold while a teller is idle. -/
def atOnce (i : Instr) : Bool := arrives i && !sideBand i && !fwCommand i

/-- A doorbell, by the event that begins what it asks for within 10 microseconds (03 R61, R65, 05 R87; log 28). -/
def doorbell (i : Instr) : Bool :=
  match i with
  | .shootdownComplete | .migrationCopy _ => true
  | _ => false

/-- What an event touches: the queue whose lock it needs, or the management state that host and side-band share (05 R88, R99). -/
def lockOf (i : Instr) : Option Nat := if sideBand i || fwCommand i then some 256 else queueOf i

/-- A state effecter of the side-band, which touches everything (05 R98). -/
def effecter (i : Instr) : Bool :=
  match i with
  | .pldmAdmissionHold _ | .pldmComputeReset | .pldmSpindleReset => true
  | _ => false

/-- Two events are handled in the order in which they entered the event queue: those of one queue, and those of the host and of the
side-band that touch the same state (05 R88, R99). -/
def serialised (i j : Instr) : Bool :=
  (lockOf i).isSome && (lockOf j).isSome && (lockOf i = lockOf j || effecter i || effecter j)

/-- A teller takes an event and handles it at a free moment, after those events that entered before it and that it is serialised with
(05 R88, R99). A tail write that finds a teller idle is handled within 20 microseconds, and so are the events before it. -/
def State.takeEvent (s : State) (i : Instr) (idle : Bool) : State :=
  let before := s.tellers.taken
  let mine (e : Nat × Instr) : Bool := serialised i e.2 && before.contains e.2
  let s := { s with tellers := { s.tellers with taken := before ++ [i] } }
  if idle && tailLook i then
    let (d, s) := s.drawBelow 25001
    let t := s.chip + d
    { s with agenda := s.agenda.map fun e => if mine e then (min e.1 t, e.2) else e }.plan t i
  else if atOnce i then s.plan s.chip i
  else if doorbell i then s.planWithin 12500 i
  else
    let (d, s) := s.draw
    let last := (s.agenda.filter mine).foldl (fun t e => max t e.1) s.chip
    s.plan (max last (s.chip + 1 + d)) i

/-- A teller takes the oldest urgent event, or else the oldest event, unless all twelve are busy; a source that found the queue
full presents its event again (05 R86). -/
def State.serve (s : State) (idle : Bool) : State :=
  let q := s.tellers
  if 12 ≤ q.taken.length then s
  else
    match (q.pending.find? fun e => e.1).orElse fun _ => q.pending.head? with
    | none => s
    | some e =>
      let s := { s with tellers := { q with pending := q.pending.erase e ++ q.full.take 1, full := q.full.drop 1 } }
      s.takeEvent e.2 idle

/-- Events of one source that merge while the first is still pending: tail writes to one queue, heat-ring events, expiries of one timer
(05 R86). -/
def merges (i : Instr) : Bool := tailLook i || i = .pageHeat || timer i

/-- An event enters the queue of 4096 events (05 R86). -/
def State.post (s : State) (i : Instr) : State :=
  let q := s.tellers
  let e := (urgent i, i)
  if merges i && (q.pending.contains e || q.full.contains e) then s
  else if 4096 ≤ q.pending.length then { s with tellers := { q with full := q.full ++ [e] } }
  else { s with tellers := { q with pending := q.pending ++ [e] } }.serve true

/-- The teller that took an event has handled it and takes another. -/
def State.handled (s : State) (i : Instr) : State :=
  if s.tellers.taken.contains i then { s with tellers := { s.tellers with taken := s.tellers.taken.erase i } }.serve false
  else s

/-- An event is at its source, and no teller has taken it yet (05 R86, R87). -/
def State.enters (s : State) (i : Instr) : Bool := arrives i && !s.tellers.taken.contains i

/-- Removes the first entry of an event. -/
def dropInstr (i : Instr) : List (Nat × Instr) → List (Nat × Instr)
  | [] => []
  | x :: r => if x.2 = i then r else x :: dropInstr i r

/-- The events that tellers have taken and not finished, but for the one being handled, are presented again (05 R95). -/
def State.presentAgain (s : State) (now : Instr) : State :=
  let open_ := s.tellers.taken.erase now
  let s := { s with
    agenda := open_.foldl (fun a i => dropInstr i a) s.agenda,
    tellers := { s.tellers with
      pending := open_.map (fun i => (urgent i, i)) ++ s.tellers.pending, taken := s.tellers.taken.filter (· = now) } }
  (List.range 12).foldl (fun s _ => s.serve false) s

/-- A fresh number for an access, a command or a launch. -/
def State.newId (s : State) : Nat × State := (s.nextId, { s with nextId := s.nextId + 1 })

/-- Sends a message to the outside world (log 7). -/
def State.emit (s : State) (o : Output) : State := { s with out := o :: s.out }

/-- The launch of a number. -/
def State.launch? (s : State) (id : Nat) : Option Launch := s.launches.find? fun l => l.id == id

/-- Changes a launch. -/
def State.updLaunch (s : State) (id : Nat) (f : Launch → Launch) : State :=
  { s with launches := s.launches.map fun l => if l.id = id then f l else l }

/-- The launch that holds a core. -/
def State.launchOf (s : State) (n : Nat) : Option Launch :=
  match (s.core n).launch with
  | some id => s.launch? id
  | none => none

/-- The owner tag of a launch; 0 for none (07 R122). -/
def State.ownerTag (s : State) (id : Option Nat) : Nat :=
  match id.bind s.launch? with
  | some l => l.owner
  | none => 0

/-- The owner tag of a vault line (07 R122). -/
def Core.tagOf (c : Core) (line : Nat) : Nat := ((c.lineTags.find? fun x => x.1 = line).map fun x => x.2).getD c.vaultTag

/-- Vault lines take an owner tag (07 R122). -/
def Core.tagLines (c : Core) (tag : Nat) (lines : List Nat) : Core :=
  { c with lineTags := lines.foldl (fun xs l =>
      if tag = c.vaultTag then xs.filter fun x => x.1 ≠ l else setAt xs l tag) c.lineTags }

/-- Bytes are written into the vault of a core for the owner of a tag. -/
def Core.putVault (c : Core) (tag a : Nat) (data : List Byte) : Core :=
  { c with vault := Store.put c.vault a data }.tagLines tag
    ((List.range ((a + data.length + 63) / 64 - a / 64)).map fun i => a / 64 + i)

/-- A queue page. -/
def State.queue (s : State) (q : Nat) : Queue :=
  match s.queues.find? (fun p => p.1 == q) with
  | some p => p.2
  | none => Queue.reset

/-- Changes a queue page. -/
def State.updQueue (s : State) (q : Nat) (f : Queue → Queue) : State :=
  { s with queues := setAt s.queues q (f (s.queue q)) }

/-- The die of a logical core (01 R17). -/
def dieOf (core : Nat) : Nat := core / 64

/-- The logical cluster of a core within its die (01 R17). -/
def clusterOf (n : Nat) : Nat := n / 4 % 16

/-! Physical clusters (01 R17, R18). -/

/-- The physical cluster of a die that logical cluster c of die d is bound to. -/
def State.bound (s : State) (d c : Nat) : Nat :=
  ((s.reliab.bind.find? fun p => p.1 = 16 * d + c).map fun p => p.2).getD c

/-- The number 17d + P of the physical cluster under a logical core. -/
def State.physOf (s : State) (n : Nat) : Nat := 17 * dieOf n + s.bound (dieOf n) (clusterOf n)

/-- The physical core under a logical one (01 R17). -/
def State.physCore (s : State) (n : Nat) : Nat := 4 * s.physOf n + n % 4

/-! Registers. -/

/-- SCHEDCYC as the manual shows it: it stands still in a delegated handler, until the return (09 R163), and once the core
has halted (22 R368). -/
def Core.schedcyc (c : Core) : Nat :=
  match c.handler, c.record with
  | true, some r => r.sched
  | _, _ => c.haltSched.getD c.sched

/-- Scalar r without popping; s0 reads 0 (10 R183). -/
def Core.scalar (c : Core) (r : Nat) : Word := if r = 0 then 0 else Store.read c.scalars r

/-- Predicate p; p0 is all true (10 R186). -/
def Core.pred (c : Core) (p : Nat) : LaneMask := if p = 0 then BitVec.allOnes 128 else Store.read c.preds p

/-- A control register held in the register map (10 R188). -/
def Core.ctl (c : Core) (n : Nat) : Nat := (Store.read c.ctrl n).toNat

/-- JORD (10 R189). -/
def Core.jord (c : Core) : Nat := c.ctl 0 % 8

/-- The lanes that a V slot's VGM enables (10 R179). -/
def Core.vgm (c : Core) (port : Bool) : LaneMask := groupLanes (c.ctl (if port then 2 else 1) % 256)

/-- s63 is the engine completion queue (10 R184). -/
def Core.engMapped (c : Core) : Bool := (c.ctl 5).testBit 0

/-- s62 is the correction queue (10 R184). -/
def Core.corMapped (c : Core) : Bool := (c.ctl 5).testBit 1

/-- Register r is mapped to a queue. -/
def Core.mapped (c : Core) (r : Nat) : Bool := (r = 63 && c.engMapped) || (r = 62 && c.corMapped)

/-- The scalar values a slot reads from the registers it names; a mapped register pops once per slot, and every field sees
that entry (10 R184). -/
def Core.readScalars (c : Core) (rs : List Nat) : List Word × Core :=
  let vals := rs.map fun r =>
    if r = 63 && c.engMapped then c.engQ.headD 0 else if r = 62 && c.corMapped then c.corQ.headD 0 else c.scalar r
  let c := if rs.contains 63 && c.engMapped then { c with engQ := c.engQ.tail } else c
  let c := if rs.contains 62 && c.corMapped then { c with corQ := c.corQ.tail } else c
  (vals, c)

/-- A scalar lands; s0 and a mapped s62 or s63 discard it (10 R183, R184). -/
def Core.landScalar (c : Core) (r : Nat) (v : Word) : Core :=
  if r = 0 || c.mapped r then c else { c with scalars := Store.write c.scalars r v }

/-- A spool level is active (10 R187). -/
def Core.inSpool (c : Core) : Bool := c.loops.any fun l => l.spool.isSome

/-- Masked lane bits of a predicate land; p0 discards them, and so do p56 to p63 in a spool (10 R186, R187). -/
def Core.landPred (c : Core) (p : Nat) (mask bits : LaneMask) : Core :=
  if p = 0 || (56 ≤ p && p ≤ 63 && c.inSpool) then c
  else { c with preds := Store.write c.preds p ((c.pred p &&& ~~~mask) ||| (bits &&& mask)) }

/-- The lane values of plies start to start+w-1 (10 R170). -/
def Core.plyVals (c : Core) (start w : Nat) : List Nat :=
  let rows := (List.range w).map fun i => (Store.read c.plies (start + i)).toNat
  lanes.map fun l => rows.foldr (fun r acc => r >>> (4 * l) % 16 + 16 * acc) 0

/-- The 512-bit row of one ply taken from lane values at ply i. -/
def plyRow (vals : List Nat) (i : Nat) : BitVec 512 :=
  BitVec.ofNat 512 (vals.foldr (fun v acc => v >>> (4 * i) % 16 + 16 * acc) 0)

/-- A mask of lanes widened to their plies. -/
def plyMask (mask : LaneMask) : BitVec 512 := plyRow (lanes.map fun l => if mask.getLsbD l then 15 else 0) 0

/-- n plies per lane land in the masked lanes (10 R174). -/
def Core.landPlies (c : Core) (start n : Nat) (mask : LaneMask) (vals : List Nat) : Core :=
  let m := plyMask mask
  let rows := (List.range n).map fun i =>
    (Store.read c.plies (start + i) &&& ~~~m) ||| (plyRow vals i &&& m)
  { c with plies := Store.put c.plies start rows }

/-- Bits of the flag file are set in some lanes and cleared in others; a set wins (10 R177). -/
def Core.landFlags (c : Core) (set clear : List (Nat × LaneMask)) : Core :=
  let f := clear.foldl (fun f p => Store.write f p.1 (Store.read f p.1 &&& ~~~p.2)) c.flagFile
  { c with flagFile := set.foldl (fun f p => Store.write f p.1 (Store.read f p.1 ||| p.2)) f }

/-- The writable bits of a control register (10 R189, 13 R240): all of RSSEED, and the fields of the others. -/
def ctlMask (n : Nat) : Nat :=
  if n = 0 then 7 else if n ≤ 2 then 0xFF else if n = 3 then 7 else if n = 4 then 2 ^ 64 - 1 else if n = 5 then 3
  else if n ≤ 7 then 0x3FF else if n < 48 then 2 ^ 35 - 1 else if n < 52 then 2 ^ 22 - 1 else 0x3FF

/-- The W1C bits of a control register (10 R189): FPCTL.ISAT, QCTL.COROVF and ENGOVF. -/
def ctlW1c (n : Nat) : Nat := if n = 3 then 0x100 else if n = 5 then 0x300 else 0

/-- A control register's value after a movc or a preset (15 R278, 00 R9). -/
def ctlNext (n : Nat) (old v : Word) : Word :=
  (v &&& BitVec.ofNat 64 (ctlMask n)) ||| (old &&& BitVec.ofNat 64 (ctlW1c n) &&& ~~~v)

/-- A control register lands. -/
def Core.landCtl (c : Core) (n : Nat) (v : Word) : Core :=
  { c with ctrl := Store.write c.ctrl n (ctlNext n (Store.read c.ctrl n) v) }

/-- Sets a bit of a control register without a movc (ISAT, COROVF, ENGOVF). -/
def Core.setCtlBit (c : Core) (n bit : Nat) : Core :=
  { c with ctrl := Store.write c.ctrl n (Store.read c.ctrl n ||| BitVec.ofNat 64 (2 ^ bit)) }

/-- Pushes an entry into the engine completion queue; a full queue drops it and sets ENGOVF (10 R184). -/
def Core.pushEng (c : Core) (e : Word) : Core :=
  if c.engQ.length < 16 then { c with engQ := c.engQ ++ [e] } else c.setCtlBit 5 8

/-- Pushes an entry into the correction queue; a full queue drops it and sets COROVF (10 R184). -/
def Core.pushCor (c : Core) (e : Word) : Core :=
  if c.corQ.length < 16 then { c with corQ := c.corQ ++ [e] } else c.setCtlBit 5 9

/-! Guards. -/

/-- The lanes of a uniform view (09 R153). -/
def Core.viewLanes (c : Core) : LaneMask :=
  let g := (c.ctl 1 ||| c.ctl 2) % 256
  if g = 0 then BitVec.allOnes 128 else groupLanes g

/-- The uniform view of a predicate: none if the lanes differ (09 R153). -/
def Core.uniform (c : Core) (p : Nat) : Option Bool :=
  let m := c.viewLanes
  let v := c.pred p &&& m
  if v = 0 then some false else if v = m then some true else none

/-- The uniform view of a guard (09 R153, 14 R246). -/
def Core.guard (c : Core) (g : Guard) : Option Bool := (c.uniform g.pred).map fun b => xor b g.neg

/-- The lanes on which a V slot's guard is true, within its VGM (09 R152). -/
def Core.guardLanes (c : Core) (port : Bool) (g : Guard) : LaneMask :=
  (if g.neg then ~~~(c.pred g.pred) else c.pred g.pred) &&& c.vgm port

/-! Pending items. -/

/-- Adds a pending item whose next event lies n schedule cycles ahead (09 R165). -/
def Core.push (c : Core) (n src : Nat) (a : Act) : Core :=
  { c with items := c.items ++ [⟨c.sched + n, src, c.sched, c.seq, a⟩], seq := c.seq + 1 }

/-- SRC codes of the slots (09 R164). -/
def srcE : Nat := 0
def srcT : Nat := 1
def srcM (port : Bool) : Nat := if port then 3 else 2
def srcV (port : Bool) : Nat := if port then 5 else 4
def srcX : Nat := 6
def srcC : Nat := 7

/-- Plies per lane of what a vault load is to land. -/
def LoadTo.payload (into : LoadTo) : Nat :=
  match into with
  | .plies _ w | .nibbles _ w _ => w
  | .codebook => 16
  | _ => 0

/-- Plies per lane that an item holds in the landing payload (09 R164, R165): a vault load counts those it is to land, and a
flag mask takes 10 beside its data (10 R178). -/
def Act.payload (a : Act) : Nat :=
  match a with
  | .land (.codebook _) => 16
  | .sample _ _ _ _ into _ _ => into.payload
  | .land (.plies _ n _ _) | .landTrap (.plies _ n _ _) => n
  | .land (.pred ..) => 1
  | .land (.flags ..) => 10
  | .perform _ _ d _ => (d.length + 63) / 64
  | .performPlies _ n _ => (n + 127) / 128
  | _ => 0

/-- An item of core c that R165 counts: a result, a vault access, a register write, or a global load or atomic of an M slot that
has not landed. The bookkeeping of other global accesses is none, and an engine's units stay in the engine (19 R336). -/
def Core.counts (c : Core) (i : Item) : Bool :=
  i.src < 8 && match i.act with
  | .openGlobal _ | .land (.flags ..) | .land (.ctlBit ..) | .correct .. | .pushCor _ | .upsetFire .. | .upsetVerdict _ => false
  | .globalLand id => c.globals.any fun a => a.id == id && a.cmd.isNone &&
      match a.kind with
      | .load .. | .atomic .. => true
      | _ => false
  | _ => true

/-- The rank of a landing among those of one schedule cycle, the weakest first (10 R175): E, T, M0, M1, V0, V1 for plies;
C, X, V0, V1 for predicates; E, M0, M1, C, X for scalars; flag sets after flag clears (10 R177); a bit that the hardware sets
after a movc that clears it (00 R9). -/
def landRank (i : Item) : Nat :=
  match i.act with
  | .land (.pred ..) => if i.src = 7 then 0 else if i.src = 6 then 1 else i.src
  | .land (.scalar ..) => if i.src = 7 then 5 else i.src
  | .land (.flags _ clears) => if clears.isEmpty then 8 else 0
  | .land (.ctlBit ..) => 9
  | _ => i.src

/-- Applies a landing to its core; a sync flag of another core is written by the caller. -/
def Core.land (c : Core) (d : Dest) : Core :=
  match d with
  | .plies start n mask vals => c.landPlies start n mask vals
  | .pred p mask bits => c.landPred p mask bits
  | .scalar r v => c.landScalar r v
  | .ctrl r v => c.landCtl r v
  | .flag _ _ _ => c
  | .flags set clear => c.landFlags set clear
  | .codebook es => { c with codebook := Store.put [] 0 es }
  | .dropRecs => { c with recs := [] }
  | .ctlBit r b => c.setCtlBit r b

/-- Writes a sync flag of a core. -/
def Core.setFlag (c : Core) (f : Nat) (v : Bool) : Core :=
  { c with flags := if v then c.flags ||| BitVec.ofNat 64 (2 ^ f) else c.flags &&& ~~~(BitVec.ofNat 64 (2 ^ f)) }

/-! Exceptions. -/

/-- The DELEG bit number of a class (04 R81). -/
def Trap.bit (t : Trap) : Nat :=
  match t with
  | .assay => 0 | .timing => 1 | .bank => 2 | .illegal => 3 | .plyRange => 4 | .nonuniform => 5 | .translation => 6
  | .protection => 7 | .allowance => 8 | .stack => 9 | .cvt => 10 | .fenceE => 11 | .break => 12

/-- The class of a DELEG bit number. -/
def Trap.ofBit (n : Nat) : Trap :=
  match n with
  | 0 => .assay | 1 => .timing | 2 => .bank | 3 => .illegal | 4 => .plyRange | 5 => .nonuniform | 6 => .translation
  | 7 => .protection | 8 => .allowance | 9 => .stack | 10 => .cvt | 11 => .fenceE | _ => .break

/-- The order in which causes of one bundle are taken (09 R162). -/
def Trap.order (t : Trap) : Nat :=
  match t with
  | .nonuniform => 0 | .illegal => 1 | .plyRange => 2 | .stack => 3 | .fenceE => 4 | .timing => 5 | .translation => 6
  | .protection => 7 | .bank => 8 | .cvt => 9 | .assay => 10 | .allowance => 11 | .break => 12

/-- The array holds a beat in flight or an open tile, so that it stays frozen through a handler (09 R163, R168). -/
def Core.arrayBusy (c : Core) : Bool :=
  !c.array.beats.isEmpty || !c.array.pushes.isEmpty || c.array.tile.isSome || !c.array.closing.isEmpty
    || c.items.any fun i => i.src == srcT

/-- An engine has a command that has started or will start and has not ended (19 R336, R337). -/
def Core.engineBusy (c : Core) (b : Nat) : Bool := c.engines.any fun e => e.block == b && !e.ended

/-- The freeze cause charged now: the earliest-issued item that holds the core, ties to the lower code (08 R137). -/
def Core.frz (c : Core) : Option Hold :=
  c.holds.foldl (fun best h =>
    match best with
    | none => some h
    | some b => if h.issued < b.issued || (h.issued = b.issued && h.cause < b.cause) then some h else some b) none

/-- A global result is there on chip cycle t: it arrived earlier, or on t itself if the core was not waiting for it
(09 R155). -/
def GlobalAcc.here (a : GlobalAcc) (t : Nat) (late : Bool) : Bool :=
  match a.arrived with
  | some x => x < t || (x = t && !late)
  | none => false

/-- The late global results that hold the core at its present schedule cycle (11 R195), with their home dies (03 R47). -/
def Core.lateHolds (c : Core) (t : Nat) : List Hold :=
  (c.items.filter fun i => i.due ≤ c.sched).filterMap fun i =>
    match i.act with
    | .globalLand id =>
      match c.globals.find? fun a => a.id == id with
      | some a => if a.here t c.late then none
          else some ⟨1, (a.pa.map fun p => p / 2 ^ 37 % 4).getD 0, i.issued, id⟩
      | none => none
    | _ => none

/-- What holds the core on chip cycle t. A flag wait that has been satisfied lets go two chip cycles after the sample
(09 R159). -/
def Core.frozen (c : Core) (t : Nat) : Option Hold :=
  { c with holds := c.holds ++ c.lateHolds t }.frz

/-- The flight record at a boundary (09 R164). -/
def Core.capture (c : Core) (cls kind respc done fcause fva : Nat) : FlightRecord :=
  { respc := respc, bpc := (c.resumePc.getD c.pc), done := done, cls := cls, kind := kind,
    frz := match c.frz with | some h => h.cause | none => 0,
    sched := c.sched, fcause := fcause, fva := fva, items := c.items, causes := c.causes, xfer := c.xfer,
    rep := c.rep, rdvVal := c.rdvVal, v0Busy := c.v0Busy, v1Busy := c.v1Busy, arrayHeld := c.arrayBusy, halted := c.mode = .halted,
    enginesIdle := (List.range 6).filter fun b => !c.engineBusy b, allowDue := c.allowDue, flagWait := c.flagWait,
    rdvWait := c.rdvWait, escalated := false }

/-- A hold of a flag or rendezvous wait (08 R137). -/
def Hold.ofWait (h : Hold) : Bool := h.cause = 4 || h.cause = 5

/-- The holds of the waits of a core that it has entered on schedule cycle t (09 R159, R158). -/
def reentryHolds (t : Nat) (f : Option FlagWait) (r : Option RdvWait) : List Hold :=
  (f.toList.map fun w => ⟨4, w.flag, t, 0⟩) ++ r.toList.map fun w => ⟨5, w.group, t, 0⟩

/-- A delegated trap enters the handler at TRAPVEC (09 R163): the flight record is written, PC goes to TRAPPC and the class
to TRAPCAUSE. A wait in which the core stood is left until the return (09 R161). -/
def Core.enterHandler (c : Core) (k : Cause) (vec : Nat) : Core :=
  { c with
    mode := .running, record := some (c.capture k.cls.bit 0 k.pc k.done k.fcause k.fva), handler := true, trappc := k.pc,
    trapcause := k.cls.bit, pc := vec, items := [], causes := [], xfer := none, rep := none, rdvVal := none,
    v0Busy := 0, v1Busy := 0, done := 0, resumePc := none, lagCheck := false, allowDue := false, flagWait := none, rdvWait := none,
    holds := c.holds.filter fun h => !h.ofWait }

/-- A trap that goes to the tellers holds the core with its flight record in place (09 R163); one raised inside a handler has a
record of its own, since it ends the launch. -/
def Core.holdForTellers (c : Core) (k : Cause) : Core :=
  { c with mode := .tellers, record := some { c.capture k.cls.bit 0 k.pc k.done k.fcause k.fva with escalated := true } }

/-- A core in a debug stop on chip cycle t (08 R136): the results in flight and the freeze cause are in its flight record. -/
def Core.debugStop (c : Core) (t : Nat) : Core :=
  if c.mode = .running then { c with mode := .debug, frzAt := ((c.frozen t).map fun h => h.cause).getD 0 } else c

/-- Every core of a launch enters a debug stop on the present chip cycle (08 R136), which ends a STEP of that launch; DBGSTAT names
the core that triggered it with the reason and the breakpoint. -/
def State.debugStop (s : State) (n reason bp : Nat) : State :=
  let c := s.core n
  let stat := c.schedcyc % 2 ^ 32 * 2 ^ 32 + c.pc % 2 ^ 16 * 2 ^ 16 + n % 2 ^ 8 * 2 ^ 8 + bp % 4 * 2 ^ 3 + reason % 4 * 2
  let chip := s.chip
  let stop (p : Nat × Core) : Nat × Core :=
    if p.1 = n || (p.2.launch = c.launch && c.launch.isSome) then (p.1, p.2.debugStop chip) else p
  let s := { s with cores := s.cores.map stop }
  let mark (l : Launch) : Launch := if c.launch = some l.id && l.dbgAt.isNone then { l with dbgAt := some chip } else l
  { s with
    launches := s.launches.map mark, dbg := { s.dbg with
      dbgstat := BitVec.ofNat 64 stat, stoppedCore := n, step := s.dbg.step.filter fun x => c.launch ≠ some x.2.1 } }

/-- Taking an exception on core n (09 R163, 04 R81, 08 R135): a delegated class enters the handler, BREAK is a debug stop,
and every other trap, one raised inside a handler included, holds the core for the tellers. -/
def State.takeTrap (s : State) (n : Nat) (k : Cause) : State :=
  let c := s.core n
  if k.cls = .break then s.debugStop n 2 0
  else
    match s.launchOf n with
    | some l =>
      if !c.handler && l.pkt.deleg.testBit k.cls.bit then s.updCore n fun c => c.enterHandler k l.pkt.trapvec
      else (s.updCore n fun c => c.holdForTellers k).post (.tellerTrapEvent n)
    | none => (s.updCore n fun c => c.holdForTellers k).post (.tellerTrapEvent n)

/-- A cause of the bundle at the boundary of core c. -/
def Core.cause (c : Core) (t : Trap) : Cause :=
  { due := c.sched, issued := c.sched, cls := t, pc := c.pc, done := c.done, fcause := 0, fva := 0 }

/-- A trap of the present bundle of the core whose slot executes. -/
def State.trapHere (s : State) (t : Trap) : State := s.takeTrap s.cur (s.curCore.cause t)

/-- The return from a trap (09 R167): PC, SCHEDCYC, the completion mask and everything in flight come back from the flight
record, and R156 checks LAG at the boundary. An ALLOWANCE that was passed over recurs there (09 R162), and a wait is entered again
(09 R161). -/
def Core.eret (c : Core) : Core :=
  match c.record with
  | none => c
  | some r =>
    { c with
      record := none, handler := false, mode := if r.halted && r.done = 0 then .halted else .running, pc := r.respc,
      npc := r.respc, sched := r.sched, items := r.items, causes := r.causes, xfer := r.xfer, rep := r.rep, rdvVal := r.rdvVal, v0Busy := r.v0Busy,
      v1Busy := r.v1Busy, done := if r.halted then r.done % 128 else r.done,
      resumePc := if r.done = 0 then none else some r.bpc, lagCheck := true,
      allowDue := c.allowDue || r.allowDue, flagWait := r.flagWait, rdvWait := r.rdvWait,
      holds := c.holds ++ reentryHolds (r.sched - 1) r.flagWait r.rdvWait,
      array := if r.arrayHeld then c.array else { c.array with busy := 0 } }

end Sys2Proof.Machine
end

