-- ==== Sys2Proof/Machine/Operands.lean ====
section
/-! DEFINITION. Operand forms: fetching a bundle and its literals, guards of slots, scalar operands of every slot, and the
addresses of the M slots. -/

namespace Sys2Proof.Machine

/-- The outcome of a step of this machine. -/
abbrev Out := Host.Outcome State Fault Refusal

/-! Fetching (09 R150, 14 R248, R249). -/

/-- A bundle as fetched: its 384 bits, the claimed literals, the next PC, and the dictionary entry it came from. -/
structure Fetched where
  bundle : Nat
  lits : List Nat
  next : Nat
  entry : Option Nat
  deriving DecidableEq, Repr

/-- A code halfword. -/
def Core.half (c : Core) (a : Nat) : Nat := (Store.read c.code a).toNat

/-- A literal of two halfwords, low halfword first (09 R150). -/
def Core.literal (c : Core) (a : Nat) : Nat := c.half a + c.half (a + 1) * 65536

/-- The 24 halfwords of a literal bundle (14 R249). -/
def Core.literalBundle (c : Core) (a : Nat) : Nat :=
  (List.range 24).foldr (fun h acc => c.half (a + h) + 65536 * acc) 0

/-- The literals that a bundle claims, from the halfword address after it; none if a halfword lies past the image
(14 R248). -/
def Core.withLits (c : Core) (bundle a : Nat) (entry : Option Nat) : Option Fetched :=
  let n := claimCount bundle
  let next := a + 2 * n
  if next ≤ c.codeLen && next ≤ 65536 then
    some ⟨bundle, (List.range n).map fun i => c.literal (a + 2 * i), next, entry⟩
  else none

/-- Forms the bundle at a halfword address; none is ILLEGAL (09 R150, 14 R248, R249). -/
def Core.fetch (c : Core) (pc : Nat) : Option Fetched :=
  if c.codeLen ≤ pc || 65536 ≤ pc then none
  else
    let i := c.half pc
    if i < 2048 then
      if c.dictValid.contains i then c.withLits (Store.read c.dict i).toNat (pc + 1) (some i) else none
    else if i = 0xFFFE then some ⟨0, [], pc + 1, none⟩
    else if i = 0xFFFF then
      if pc + 25 ≤ c.codeLen then c.withLits (c.literalBundle (pc + 1)) (pc + 25) none else none
    else none

/-- The address after the bundle at an address; the address itself if there is no bundle. -/
def Core.after (c : Core) (pc : Nat) : Nat :=
  match c.fetch pc with
  | some f => f.next
  | none => pc

/-- The bits of the bundle at a halfword address, its literals aside; none where the index names no bundle, or the halfwords of a
literal bundle pass the image (09 R150, 14 R248, R249). -/
def Core.bundleAt (c : Core) (pc : Nat) : Option Nat :=
  let i := c.half pc
  if c.codeLen ≤ pc || 65536 ≤ pc then none
  else if i < 2048 then (if c.dictValid.contains i then some (Store.read c.dict i).toNat else none)
  else if i = 0xFFFE then some 0
  else if i = 0xFFFF && pc + 25 ≤ c.codeLen then some (c.literalBundle (pc + 1))
  else none

/-- The address after the halfwords of the bundle at an address. DEDUCED (log 13): an index that names no bundle takes its own
halfword alone. -/
def Core.reach (c : Core) (pc : Nat) : Nat :=
  let first := if c.half pc = 0xFFFF then pc + 25 else pc + 1
  first + 2 * ((c.bundleAt pc).map claimCount).getD 0

/-- The start of the n-th bundle from an address and the address after it (15 R269). -/
def Core.body (c : Core) (pc n : Nat) : Nat × Nat :=
  match n with
  | 0 => (pc, pc)
  | k + 1 => if k = 0 then (pc, c.reach pc) else c.body (c.reach pc) k

/-! Slots. -/

/-- Runs a slot whose guard is read through the uniform view (09 R152, R153): NONUNIFORM, nothing when guarded off, the
first trap of its checks, or its effect. -/
def slotRun (g : Guard) (checks : State → List Trap) (eff : State → State) (s : State) : Out :=
  match s.curCore.guard g with
  | none => .next (s.trapHere .nonuniform)
  | some false => .next s
  | some true =>
    match checks s with
    | [] => .next (eff s)
    | t :: _ => .next (s.trapHere t)

/-- No check. -/
def noChecks (_ : State) : List Trap := []

/-- One check. -/
def check (b : Bool) (t : Trap) : List Trap := if b then [t] else []

/-! Scalar operands. -/

/-- Operand B of an X form: the literal, the immediate, or the scalar value (16 R281). -/
def xOperandB (x : XArgs) (vb : Word) : Word :=
  match x.imm, x.lit with
  | true, some l => sextNat 32 l
  | true, none => sextNat 15 x.sb
  | false, _ => vb

/-- The offset of an M form in bytes or plies (16 R286). -/
def mOffset (m : MArgs) : Word :=
  match m.lit with
  | some l => sextNat 32 l
  | none => sextNat 14 m.off

/-- The offset of ldx and stx. -/
def smOffset (m : ScalarMemArgs) : Word :=
  match m.lit with
  | some l => sextNat 32 l
  | none => sextNat 14 m.off

/-- The offset of an atomic: OFF[13:6] or the literal (14 R250, 16 R295). -/
def atomOffset (a : AtomArgs) : Word :=
  match a.lit with
  | some l => sextNat 32 l
  | none => sextNat 8 a.off

/-- VC of an E form: the literal or the scalar's value (19 R330). -/
def eValueC (e : EArgs) (vc : Word) : Word :=
  match e.lit with
  | some l => BitVec.ofNat 64 l
  | none => vc

/-! Vault addresses (11 R191). -/

/-- The levels of a vault form: own, cluster, die. -/
inductive Level where
  | own | cluster | die
  deriving DecidableEq, Repr

/-- The logical core whose vault an address names, seen from core n (11 R191, 01 R17). -/
def vaultTarget (n : Nat) (l : Level) (v : Nat) : Nat :=
  match l with
  | .own => n
  | .cluster => n / 4 * 4 + v / 2 ^ 21 % 4
  | .die => n / 64 * 64 + v / 2 ^ 21 % 64

/-- The byte offset of a vault address. -/
def vaultOffset (v : Nat) : Nat := v % 2 ^ 21

/-- A range of n bytes at a vault address is legal (11 R191, 16 R289): the upper bits are 0 and it ends within the vault. -/
def vaultRangeOk (v n : Nat) : Bool := v < 2 ^ 27 && vaultOffset v + n ≤ Config.vaultBytes

/-- The target core of a lateral form is held by the issuing core's launch, a stopped context's core included (11 R191). -/
def State.holdsCore (s : State) (n target : Nat) : Bool :=
  n = target ||
    match s.launchOf n with
    | some l => l.pkt.cores.contains target && (s.core target).launch == some l.id
    | none => false

end Sys2Proof.Machine
end

