-- ==== Sys2Proof/Machine/Flags.lean ====
section
/-! DEFINITION. Flag computations: compares of the scalars (16 R283) and the flag-file bits of the vector unit
(10 R177, 12 R217). -/

namespace Sys2Proof.Machine

/-- The IEEE flags that one operation raises (10 R177). -/
structure FpFlags where
  invalid : Bool
  divZero : Bool
  overflow : Bool
  underflow : Bool
  inexact : Bool
  deriving DecidableEq, Repr

/-- No flag. -/
def FpFlags.none : FpFlags := ⟨false, false, false, false, false⟩

/-- Both sets. -/
def FpFlags.or (a b : FpFlags) : FpFlags :=
  ⟨a.invalid || b.invalid, a.divZero || b.divZero, a.overflow || b.overflow, a.underflow || b.underflow,
    a.inexact || b.inexact⟩

/-- The five bits of a coefficient: invalid highest, inexact lowest (10 R177). -/
def FpFlags.code (f : FpFlags) : Nat :=
  (if f.invalid then 16 else 0) + (if f.divZero then 8 else 0) + (if f.overflow then 4 else 0)
    + (if f.underflow then 2 else 0) + (if f.inexact then 1 else 0)

/-- The flag-file sets of a result: for each coefficient j and flag i, the lanes of the mask whose five-bit code has bit i
(10 R177). codes lists, for each lane, the codes of coefficients 0 to k. -/
def flagSets (k : Nat) (mask : LaneMask) (codes : List (List Nat)) : List (Nat × LaneMask) :=
  ((List.range (k + 1)).flatMap fun j =>
    (List.range 5).map fun i =>
      (5 * j + i, maskOf (codes.map fun l => (l.getD j 0).testBit i) &&& mask)).filter fun p => p.2 != 0

/-- Every lane of a predicate (16 R283). -/
def allLanes (b : Bool) : LaneMask := if b then BitVec.allOnes 128 else 0

end Sys2Proof.Machine
end

