-- ==== Sys2Proof/Machine/Num.lean ====
section
/-! DEFINITION. Number formats, scales, rounding and conversion (12 R209 to R221), on exact rational values. -/

namespace Sys2Proof.Machine

/-! Formats (12 R209). -/

/-- A floating-point format: total bits, exponent bits, fraction bits, bias, whether it has infinities, and the largest
finite encoding. -/
structure FpFmt where
  bits : Nat
  eb : Nat
  fb : Nat
  bias : Nat
  hasInf : Bool
  hasNan : Bool
  maxCode : Nat
  nan : Nat
  deriving DecidableEq, Repr

/-- Precision counting the hidden bit. -/
def FpFmt.p (f : FpFmt) : Nat := f.fb + 1

/-- Exponent of the smallest normal value. -/
def FpFmt.emin (f : FpFmt) : Int := 1 - (f.bias : Int)

/-- Exponent of the last place of a subnormal. -/
def FpFmt.elast (f : FpFmt) : Int := f.emin - f.fb

def fF64 : FpFmt := ⟨64, 11, 52, 1023, true, true, 0x7FEFFFFFFFFFFFFF, 0x7FF8000000000000⟩
def fF32 : FpFmt := ⟨32, 8, 23, 127, true, true, 0x7F7FFFFF, 0x7FC00000⟩
def fBf16 : FpFmt := ⟨16, 8, 7, 127, true, true, 0x7F7F, 0x7FC0⟩
def fF16 : FpFmt := ⟨16, 5, 10, 15, true, true, 0x7BFF, 0x7E00⟩
def fE5m2 : FpFmt := ⟨8, 5, 2, 15, true, true, 0x7B, 0x7E⟩
def fE4m3 : FpFmt := ⟨8, 4, 3, 7, false, true, 0x7E, 0x7F⟩
def fE2m1 : FpFmt := ⟨4, 2, 1, 1, false, false, 0x7, 0⟩

/-- The format of a V-slot or conversion code (14 R255, R256): f64, f32, bf16, f16, e5m2, e4m3, e2m1. -/
def fpFmt (i : Nat) : FpFmt :=
  match i with
  | 0 => fF64
  | 1 => fF32
  | 2 => fBf16
  | 3 => fF16
  | 4 => fE5m2
  | 5 => fE4m3
  | _ => fE2m1

/-! Exact values. -/

/-- An extended real: a NaN (signalling or quiet), an infinity, or the sign and magnitude num/den of a finite value. -/
inductive EV where
  | nan (sig : Bool)
  | inf (neg : Bool)
  | fin (neg : Bool) (num den : Nat)
  deriving DecidableEq, Repr

/-- 2^e as a fraction times num. -/
def EV.pow2 (neg : Bool) (num : Nat) (e : Int) : EV :=
  if 0 ≤ e then .fin neg (num * 2 ^ e.toNat) 1 else .fin neg num (2 ^ (-e).toNat)

def EV.zero : EV := .fin false 0 1
def EV.isNan (v : EV) : Bool := match v with | .nan _ => true | _ => false
def EV.isSig (v : EV) : Bool := match v with | .nan b => b | _ => false
def EV.isFin (v : EV) : Bool := match v with | .fin .. => true | _ => false
def EV.isZero (v : EV) : Bool := match v with | .fin _ n _ => n == 0 | _ => false
def EV.isNeg (v : EV) : Bool := match v with | .nan _ => false | .inf s => s | .fin s _ _ => s
def EV.negate (v : EV) : EV := match v with | .nan b => .nan b | .inf s => .inf (!s) | .fin s n d => .fin (!s) n d
def EV.abs (v : EV) : EV := match v with | .nan b => .nan b | .inf _ => .inf false | .fin _ n d => .fin false n d

/-- A signed integer. -/
def EV.ofInt (i : Int) : EV := .fin (i < 0) i.natAbs 1

/-- The signed numerator of a finite value. -/
def EV.num (v : EV) : Int := match v with | .fin s n _ => if s then -(n : Int) else n | _ => 0

/-- The denominator of a finite value. -/
def EV.den (v : EV) : Nat := match v with | .fin _ _ d => d | _ => 1

/-- The value of an encoding (12 R209, R210). -/
def decodeFp (f : FpFmt) (code : Nat) : EV :=
  let code := code % 2 ^ f.bits
  let s := code.testBit (f.bits - 1)
  let e := code / 2 ^ f.fb % 2 ^ f.eb
  let m := code % 2 ^ f.fb
  if f.hasInf && e = 2 ^ f.eb - 1 then
    if m = 0 then .inf s else .nan (f.bits ≠ 8 && !m.testBit (f.fb - 1))
  else if !f.hasInf && f.hasNan && code % 2 ^ (f.bits - 1) = f.nan then .nan false
  else if e = 0 then EV.pow2 s m f.elast
  else EV.pow2 s (m + 2 ^ f.fb) ((e : Int) - f.bias - f.fb)

/-- Exact sum of two finite fractions with signs. -/
def addFrac (a b : Int × Nat) : Int × Nat :=
  if a.2 = b.2 then (a.1 + b.1, a.2)
  else if b.2 % a.2 = 0 then (a.1 * (b.2 / a.2 : Nat) + b.1, b.2)
  else if a.2 % b.2 = 0 then (a.1 + b.1 * (a.2 / b.2 : Nat), a.2)
  else (a.1 * b.2 + b.1 * a.2, a.2 * b.2)

/-- The exact sum of finite values as a fraction. -/
def sumFrac (vs : List EV) : Int × Nat := vs.foldl (fun acc v => addFrac acc (v.num, v.den)) (0, 1)

/-- An exact sum (12 R217, R222) and whether it raises invalid: infinities of both signs give NaN with invalid, a NaN term beside them
too, and else a NaN term gives NaN; a zero sum takes its sign by its terms and the mode (RD is 3). -/
def evSum (mode : Nat) (vs : List EV) : EV × Bool :=
  match vs with
  | [v] => (v, false)
  | _ =>
    let pos := vs.any fun v => v == .inf false
    let neg := vs.any fun v => v == .inf true
    if pos && neg then (.nan false, true)
    else if vs.any EV.isNan then (.nan false, false)
    else
      if pos then (.inf false, false)
      else if neg then (.inf true, false)
      else
        let s := sumFrac vs
        if s.1 = 0 then
          (.fin ((!vs.isEmpty && vs.all fun v => v.isNeg) || (mode == 3 && !vs.isEmpty)) 0 1, false)
        else (.fin (s.1 < 0) s.1.natAbs s.2, false)

/-- An exact product and whether it raises invalid (12 R222). -/
def evMul (a b : EV) : EV × Bool :=
  match a, b with
  | .nan _, _ | _, .nan _ => (.nan false, false)
  | .inf s, .inf t => (.inf (xor s t), false)
  | .inf s, .fin t n _ | .fin t n _, .inf s => if n = 0 then (.nan false, true) else (.inf (xor s t), false)
  | .fin s n d, .fin t m e => (.fin (xor s t) (n * m) (d * e), false)

/-- An exact quotient with its invalid and divide-by-zero (12 R222). -/
def evDiv (a b : EV) : EV × Bool × Bool :=
  match a, b with
  | .nan _, _ | _, .nan _ => (.nan false, false, false)
  | .inf _, .inf _ => (.nan false, true, false)
  | .inf s, .fin t _ _ => (.inf (xor s t), false, false)
  | .fin s _ _, .inf t => (.fin (xor s t) 0 1, false, false)
  | .fin s n d, .fin t m e =>
    if m = 0 then (if n = 0 then (.nan false, true, false) else (.inf (xor s t), false, true))
    else (.fin (xor s t) (n * e) (d * m), false, false)

/-- Order of two values that are no NaN. -/
def evLt (a b : EV) : Bool :=
  match a, b with
  | .inf s, .inf t => s && !t
  | .inf s, _ => s
  | _, .inf t => !t
  | _, _ => a.num * b.den < b.num * a.den

/-- Equality of two values that are no NaN; zeros of both signs are equal. -/
def evEq (a b : EV) : Bool := !a.isNan && !b.isNan && !evLt a b && !evLt b a

/-! Rounding (12 R217, R218). -/

/-- ⌊log2 (n/d)⌋ for n > 0. -/
def ilog2 (n d : Nat) : Int :=
  let l : Int := (n.log2 : Int) - d.log2
  let ge := if 0 ≤ l then d * 2 ^ l.toNat ≤ n else d ≤ n * 2 ^ (-l).toNat
  if ge then l else l - 1

/-- n/d over 2^e as quotient, remainder and divisor. -/
def gridOf (n d : Nat) (e : Int) : Nat × Nat × Nat :=
  if 0 ≤ e then (n / (d * 2 ^ e.toNat), n % (d * 2 ^ e.toNat), d * 2 ^ e.toNat)
  else (n * 2 ^ (-e).toNat / d, n * 2 ^ (-e).toNat % d, d)

/-- Chooses between the neighbour toward zero q and q+1 (12 R217): modes 0 RNE, 1 RZ, 2 RU, 3 RD, 4 RS with the draw r. -/
def roundUp (mode r : Nat) (neg : Bool) (q rem div : Nat) : Bool :=
  if rem = 0 then false
  else
    match mode with
    | 1 => false
    | 2 => !neg
    | 3 => neg
    | 4 => r < rem * 2 ^ 32 / div
    | _ => div < 2 * rem || (2 * rem = div && q % 2 = 1)

/-- A magnitude rounded to a grid of last place 2^e: significand and whether it is inexact. -/
def roundGrid (mode r : Nat) (neg : Bool) (n d : Nat) (e : Int) : Nat × Bool :=
  let g := gridOf n d e
  (if roundUp mode r neg g.1 g.2.1 g.2.2 then g.1 + 1 else g.1, g.2.1 != 0)

/-- The encoding of significand m over last place e, exact in the format, without the sign. -/
def packFp (f : FpFmt) (m : Nat) (e : Int) : Nat :=
  let (m, e) := if 2 ^ f.p ≤ m then (m / 2, e + 1) else (m, e)
  if m < 2 ^ f.fb then m else ((e + f.fb + f.bias).toNat) * 2 ^ f.fb + (m - 2 ^ f.fb)

/-- The sign bit of an encoding. -/
def signBit (f : FpFmt) (neg : Bool) : Nat := if neg then 2 ^ (f.bits - 1) else 0

/-- The encoding of an infinity; the largest finite value where the format has none (12 R210). -/
def infCode (f : FpFmt) (neg : Bool) : Nat :=
  signBit f neg + (if f.hasInf then (2 ^ f.eb - 1) * 2 ^ f.fb else f.maxCode)

/-- A finite magnitude rounded on the format's grid: encoding without sign, overflow, underflow, inexact (12 R217). -/
def roundMag (f : FpFmt) (mode r : Nat) (neg : Bool) (n d : Nat) : Nat × Bool × Bool × Bool :=
  if n = 0 then (0, false, false, false)
  else
    let l := ilog2 n d
    let e := if l - f.fb < f.elast then f.elast else l - f.fb
    let (m, inexact) := roundGrid mode r neg n d e
    let code := packFp f m e
    let isOver := f.maxCode < code
    let free := (roundGrid mode r neg n d (l - f.fb)).1
    let tiny := l < f.emin && !(2 ^ f.p ≤ free && f.emin ≤ l + 1)
    (code, isOver, inexact && tiny, inexact)

/-- The overflowed result by mode (12 R217), in the formats with infinities; the largest finite value elsewhere. -/
def overflowCode (f : FpFmt) (mode : Nat) (neg : Bool) : Nat :=
  let toMax := mode = 1 || (mode = 2 && neg) || (mode = 3 && !neg)
  if toMax then signBit f neg + f.maxCode else infCode f neg

/-- A result rounded once into its format (12 R210, R217): the encoding and its flags. -/
def roundFp (f : FpFmt) (mode r : Nat) (v : EV) : Nat × FpFlags :=
  match v with
  | .nan _ => (f.nan, { FpFlags.none with invalid := !f.hasNan })
  | .inf s => (infCode f s, { FpFlags.none with invalid := !f.hasInf })
  | .fin s n d =>
    let (code, isOver, under, inexact) := roundMag f mode r s n d
    if isOver then
      (overflowCode f mode s, { FpFlags.none with overflow := true, inexact := true, invalid := !f.hasInf })
    else (signBit f s + code, { FpFlags.none with underflow := under, inexact := inexact })

/-- The mode of an instruction that encodes mode m (12 R217): the dynamic mode 7 reads FPCTL.RM, 5 and 6 there act as RNE,
and RS becomes RNE where the destination does not allow it. -/
def effMode (m rm : Nat) (rsOk : Bool) : Nat :=
  let x := if m = 7 then (if rm ≤ 4 then rm else 0) else m
  if x = 4 && !rsOk then 0 else x

/-- Formats that RS may round into (12 R217). -/
def rsAllowed (fmt : Nat) : Bool := 2 ≤ fmt && fmt ≤ 5

/-- The stochastic draw (12 R218). -/
def rsDraw (seed sched sid lane j e : Nat) : Nat :=
  let k := (sched * 4 + sid) % 2 ^ 64
  let x := Nat.xor seed (k * 0x9E3779B97F4A7C15 % 2 ^ 64)
  let x := Nat.xor (Nat.xor (Nat.xor x (e <<< 10 % 2 ^ 64)) (lane <<< 3)) j
  let x := Nat.xor x (x >>> 30) * 0xBF58476D1CE4E5B9 % 2 ^ 64
  let x := Nat.xor x (x >>> 27) * 0x94D049BB133111EB % 2 ^ 64
  let x := Nat.xor x (x >>> 31)
  x >>> 32

/-! Conversion (12 R219, R220). -/

/-- The result of a conversion: encoding, flags and whether policy 11 traps. -/
structure Conv where
  code : Nat
  flags : FpFlags
  trap : Bool
  deriving DecidableEq, Repr

/-- Converts into a float format under an overflow policy. -/
def convFloat (f : FpFmt) (mode pol r : Nat) (v : EV) : Conv :=
  match v with
  | .nan sig =>
    if f.hasNan then ⟨f.nan, { FpFlags.none with invalid := sig }, false⟩
    else ⟨0, { FpFlags.none with invalid := true }, pol == 3⟩
  | .inf s =>
    if f.hasInf then ⟨infCode f s, FpFlags.none, false⟩
    else if f.hasNan && pol = 2 then ⟨f.nan, { FpFlags.none with invalid := true }, false⟩
    else ⟨signBit f s + f.maxCode, { FpFlags.none with invalid := true }, pol == 3⟩
  | .fin s n d =>
    let (code, isOver, under, inexact) := roundMag f mode r s n d
    if isOver then
      let fl := { FpFlags.none with overflow := true, inexact := true }
      match pol with
      | 1 => if f.hasInf then ⟨infCode f s, fl, false⟩
             else ⟨signBit f s + f.maxCode, { fl with invalid := true }, false⟩
      | 2 => if f.hasNan then ⟨f.nan, { fl with invalid := true }, false⟩
             else ⟨signBit f s + f.maxCode, { fl with invalid := true }, false⟩
      | p => ⟨signBit f s + f.maxCode, fl, p == 3⟩
    else ⟨signBit f s + code, { FpFlags.none with underflow := under, inexact := inexact }, false⟩

/-- Lowest value of an integer type of n bits. -/
def intMin (sgn : Bool) (n : Nat) : Int := if sgn then -(2 ^ (n - 1)) else 0

/-- Highest value of an integer type of n bits. -/
def intMax (sgn : Bool) (n : Nat) : Int := if sgn then 2 ^ (n - 1) - 1 else 2 ^ n - 1

/-- An integer as an encoding of n bits. -/
def intCode (n : Nat) (i : Int) : Nat := (i % (2 ^ n : Int)).toNat

/-- The value of an integer encoding (12 R211). -/
def intVal (sgn : Bool) (n code : Nat) : Int :=
  let c := code % 2 ^ n
  if sgn && 2 ^ (n - 1) ≤ c then (c : Int) - 2 ^ n else c

/-- Converts into an integer of n bits. -/
def convInt (sgn : Bool) (n mode pol : Nat) (v : EV) : Conv :=
  let bad (i : Int) : Conv := ⟨intCode n i, { FpFlags.none with invalid := true }, pol == 3⟩
  match v with
  | .nan _ => bad 0
  | .inf s => bad (if s then intMin sgn n else intMax sgn n)
  | .fin s a b =>
    let (m, inexact) := roundGrid mode 0 s a b 0
    let i : Int := if s then -(m : Int) else m
    if i < intMin sgn n then bad (intMin sgn n)
    else if intMax sgn n < i then bad (intMax sgn n)
    else ⟨intCode n i, { FpFlags.none with inexact := inexact }, false⟩

/-! Scales (12 R212, R214). -/

/-- The value of an S10 code; a NaN for 0x3FC to 0x3FF. -/
def s10 (code : Nat) : EV :=
  let code := code % 1024
  if 0x3FC ≤ code then .nan false else EV.pow2 false (4 + code % 4) ((code / 4 : Nat) - 129 : Int)

/-- E8M0 to S10. -/
def e8ToS10 (e : Nat) : Nat := if e = 255 then 0x3FC else e * 4

/-- S10 to E8M0, and whether it saturates. -/
def s10ToE8 (code : Nat) : Nat × Bool :=
  if 0x3FC ≤ code then (255, false)
  else if code % 4 < 2 then (code / 4, false)
  else if code / 4 = 254 then (254, true)
  else (code / 4 + 1, false)

/-- A scaled value (12 R212). -/
def scaled (v : EV) (scale : EV) : EV := (evMul v scale).1

/-! The LC2 codebook (12 R215, R216). -/

/-- The eight e4m3 weights of a code: multiples of one half. -/
def lc2Weights (book : Store 32) (code : Nat) : List EV :=
  let w := (Store.read book (code / 256)).toNat
  let s (k : Nat) : Bool :=
    if k < 7 then code.testBit (k + 1)
    else (List.range 7).foldl (fun x i => xor x (code.testBit (i + 1))) false
  (List.range 8).map fun k =>
    let mag := w / 16 ^ k % 16 + code % 2
    if mag = 0 then EV.zero else .fin (s k) mag 2

/-- The e4m3 encoding of a decoded weight. -/
def weightCode (v : EV) : Nat := (roundFp fE4m3 0 0 v).1

/-! Page formats (03 R53) and tiles (12 R225, R226). -/

/-- Bits of an element of a page FMT; 0 for RAW, MX and LC2 (03 R53). -/
def pageBits (fmt : Nat) : Nat :=
  match fmt with
  | 1 => 64 | 2 => 32 | 3 => 16 | 4 => 16 | 5 => 8 | 6 => 8 | 7 => 4
  | 0x0C => 4 | 0x0D => 8 | 0x0E => 16 | 0x0F => 32 | 0x10 => 64
  | 0x11 => 4 | 0x12 => 8 | 0x13 => 16 | 0x14 => 32 | 0x15 => 64
  | _ => 0

/-- A float FMT of a page, 1 to 7. -/
def pageFloat (fmt : Nat) : Bool := 1 ≤ fmt && fmt ≤ 7

/-- A signed integer FMT. -/
def pageSigned (fmt : Nat) : Bool := 0x0C ≤ fmt && fmt ≤ 0x10

/-- An integer FMT. -/
def pageInt (fmt : Nat) : Bool := 0x0C ≤ fmt && fmt ≤ 0x15

/-- An MX or LC2 FMT. -/
def pageBlocked (fmt : Nat) : Bool := 8 ≤ fmt && fmt ≤ 0x0B

/-- The exact value of an element code of a plain FMT. -/
def pageVal (fmt code : Nat) : EV :=
  if pageFloat fmt then decodeFp (fpFmt (fmt - 1)) code else EV.ofInt (intVal (pageSigned fmt) (pageBits fmt) code)

/-- The edge of a tile by GEOM (03 R54). -/
def tileEdge (geom : Nat) : Nat := 2 ^ (geom + 1)

/-- Bytes of a tile's data block (12 R225). -/
def tileData (fmt geom : Nat) : Nat :=
  let n := tileEdge geom * tileEdge geom
  let b := (n + 31) / 32
  if fmt = 8 || fmt = 9 then b * 32 + b
  else if fmt = 0x0A then b * 16 + b
  else if fmt = 0x0B then 8 * b + (10 * b + 7) / 8
  else (n * pageBits fmt + 7) / 8

/-- Bytes of one sum (12 R225). -/
def sumBytes (fmt : Nat) : Nat := if fmt = 1 then 8 else 4

/-- Offset of a tile's sums. -/
def tileSums (fmt geom : Nat) : Nat := (tileData fmt geom + sumBytes fmt - 1) / sumBytes fmt * sumBytes fmt

/-- Bytes of a tile, a multiple of 64. -/
def tileBytes (fmt geom : Nat) : Nat :=
  (tileSums fmt geom + (2 * tileEdge geom + 1) * sumBytes fmt + 63) / 64 * 64

/-- The scaled element values of a data block of n elements held as a little-endian number (12 R213, R216, R225). -/
def blockVals (book : Store 32) (fmt n data : Nat) : List EV :=
  let b := (n + 31) / 32
  if fmt = 8 || fmt = 9 then
    let f := if fmt = 8 then fE4m3 else fE5m2
    (List.range n).map fun i =>
      scaled (decodeFp f (data >>> (8 * i) % 256)) (s10 (e8ToS10 (data >>> (8 * (32 * b + i / 32)) % 256)))
  else if fmt = 0x0A then
    (List.range n).map fun i =>
      scaled (decodeFp fE2m1 (data >>> (4 * i) % 16)) (s10 (e8ToS10 (data >>> (8 * (16 * b + i / 32)) % 256)))
  else if fmt = 0x0B then
    ((List.range ((n + 7) / 8)).flatMap fun q =>
      let sc := s10 (data >>> (64 * b + 10 * (q / 4)) % 1024)
      (lc2Weights book (data >>> (16 * q) % 65536)).map fun w => scaled w sc).take n
  else (List.range n).map fun i => pageVal fmt (data >>> (pageBits fmt * i) % 2 ^ pageBits fmt)

/-- One running sum of 12 R226, as an encoding of the sum format. -/
def sumChain (fmt : Nat) (vs : List EV) : Nat :=
  if pageInt fmt then ((vs.foldl (fun acc v => acc + v.num) 0) % (2 ^ 32 : Int)).toNat
  else
    let f := if fmt = 1 then fF64 else fF32
    vs.foldl (fun acc v => (roundFp f 0 0 (evSum 0 [decodeFp f acc, v]).1).1) 0

/-- The canonical sums of a tile of edge r: rows, columns, total (12 R226). -/
def canonicalSums (fmt r : Nat) (vs : List EV) : List Nat :=
  let row (i : Nat) : List EV := (vs.drop (i * r)).take r
  let rows := (List.range r).map row
  rows.map (sumChain fmt) ++ (List.range r).map (fun j => sumChain fmt (rows.map fun x => x.getD j EV.zero))
    ++ [sumChain fmt vs]

/-- The sums stored in a tile held as a little-endian number. -/
def storedSums (fmt geom tile : Nat) : List Nat :=
  (List.range (2 * tileEdge geom + 1)).map fun i =>
    tile >>> (8 * (tileSums fmt geom + i * sumBytes fmt)) % 2 ^ (8 * sumBytes fmt)

/-- A tile verifies exactly (07 R115). -/
def tileVerifies (book : Store 32) (fmt geom tile : Nat) : Bool :=
  let r := tileEdge geom
  storedSums fmt geom tile == canonicalSums fmt r (blockVals book fmt (r * r) tile)

/-- Bits lo to hi - 1 of a number are 0. -/
def clearBits (x lo hi : Nat) : Nat := x % 2 ^ lo + x / 2 ^ hi * 2 ^ hi

/-- The data block of a tile as it is written: the element and code slots of a 4 × 4 tile of an MX or LC2 page that belong to no element
are 0; larger tiles have none (12 R225). -/
def cleanData (fmt geom tile : Nat) : Nat :=
  let data := tile % 2 ^ (8 * tileData fmt geom)
  if geom ≠ 1 then data
  else if fmt = 8 || fmt = 9 then clearBits data 128 256
  else if fmt = 0x0A then clearBits data 64 128
  else if fmt = 0x0B then clearBits data 32 64
  else data

/-- A tile of a data block and sums, with its padding 0 (12 R225). -/
def tileOf (fmt geom data : Nat) (sums : List Nat) : Nat :=
  data + (sums.foldr (fun x acc => x + acc <<< (8 * sumBytes fmt)) 0) <<< (8 * tileSums fmt geom)

/-- A tile with its sums regenerated from its data block (07 R115, 12 R225). -/
def regenTile (book : Store 32) (fmt geom tile : Nat) : Nat :=
  let r := tileEdge geom
  let data := cleanData fmt geom tile
  tileOf fmt geom data (canonicalSums fmt r (blockVals book fmt (r * r) data))

/-- A tile verifies at the Spindle. DESIGN CHOICE (log 35): the manual gives codebooks to cores only, so the Spindle cannot decode an LC2
tile; it takes the sums of one as they are stored, so that a pure copy always verifies (12 R226). -/
def spindleVerifies (fmt geom tile : Nat) : Bool := fmt = 0x0B || tileVerifies [] fmt geom tile

/-- A tile as the Spindle writes it: an LC2 tile keeps its sums (12 R225, R226; log 35). -/
def spindleTile (fmt geom tile : Nat) : Nat :=
  if fmt = 0x0B then tileOf fmt geom (cleanData fmt geom tile) (storedSums fmt geom tile) else regenTile [] fmt geom tile

end Sys2Proof.Machine
end

