-- ==== Sys2Proof/Machine/VSlot.lean ====
section
/-! DEFINITION. What every form of the V slots shares (17 R299 to R301): active lanes, checks, occupancy, landings, and the
coefficients of a jet (10 R176). -/

namespace Sys2Proof.Machine

/-- The rounding parameters of a form at issue: the dynamic mode, RSSEED, SCHEDCYC and the slot's sid (12 R217, R218). -/
structure Rnd where
  mode : Nat
  seed : Nat
  sched : Nat
  sid : Nat
  deriving DecidableEq, Repr

/-- The parameters of a V form whose mode field is m and whose destination allows RS or not. -/
def Core.rnd (c : Core) (port : Bool) (m : Nat) (rsOk : Bool) : Rnd :=
  ⟨effMode m (c.ctl 3 % 8) rsOk, c.ctl 4, c.schedcyc, if port then 1 else 0⟩

/-- The draw for a lane and a coefficient (12 R218). -/
def Rnd.draw (r : Rnd) (lane j : Nat) : Nat :=
  if r.mode = 4 then rsDraw r.seed r.sched r.sid lane j 0 else 0

/-- The chip of a V slot still occupied. -/
def Core.vBusy (c : Core) (port : Bool) : Nat := if port then c.v1Busy else c.v0Busy

/-- A form occupies its slot for n cycles from its issue. -/
def Core.occupy (c : Core) (port : Bool) (n : Nat) : Core :=
  if port then { c with v1Busy := c.sched + n } else { c with v0Busy := c.sched + n }

/-- Runs a V form (17 R299 to R301): nothing without an active lane; ILLEGAL of illegal; PLY_RANGE of the footprints
(10 R171); TIMING in an occupied slot (17 R301); else its effect in the active lanes, and its occupancy. -/
def vRun (v : VArgs) (illegal : Core → Bool) (foot : Nat → List (Nat × Nat)) (occ : Nat → Nat)
    (eff : Nat → LaneMask → Core → Core) (s : State) : Out :=
  let c := s.curCore
  let m := c.guardLanes v.port v.guard
  let k := c.jord
  if m = 0 then .next s
  else
    match check (illegal c) .illegal ++ check ((foot k).any fun f => 2048 < f.1 + f.2) .plyRange
        ++ check (c.sched < c.vBusy v.port) .timing with
    | [] => .next (s.onCur fun c => (eff k m c).occupy v.port (occ k))
    | t :: _ => .next (s.trapHere t)

/-- No ILLEGAL at issue. -/
def neverIllegal (_ : Core) : Bool := false

/-- One value for each active lane; 0 elsewhere. -/
def laneMap (m : LaneMask) (f : Nat → Nat) : List Nat := lanes.map fun l => if m.getLsbD l then f l else 0

/-- A vector result lands n cycles after issue in the active lanes. -/
def Core.landVec (c : Core) (v : VArgs) (n plies : Nat) (m : LaneMask) (vals : List Nat) : Core :=
  c.push n (srcV v.port) (.land (.plies v.dst plies m vals))

/-- A predicate result lands. -/
def Core.landBits (c : Core) (v : VArgs) (n : Nat) (m : LaneMask) (f : Nat → Bool) : Core :=
  c.push n (srcV v.port) (.land (.pred v.dst m (maskOf (lanes.map f))))

/-- Flags land with the result unless the form is quiet (17 R299): codes lists the five-bit codes of the coefficients for
each lane. The mask travels with the result whether or not a flag is raised (10 R178). -/
def Core.landFlagCodes (c : Core) (v : VArgs) (n k : Nat) (m : LaneMask) (codes : List (List Nat)) : Core :=
  if v.b then c else c.push n (srcV v.port) (.land (.flags (flagSets k m codes) []))

/-- The lane values of coefficients 0 to k of an operand (10 R176). -/
def Core.jetVals (c : Core) (start w k : Nat) : List (List Nat) :=
  (List.range (k + 1)).map fun j => c.plyVals (start + j * w) w

/-- The coefficients of one lane. -/
def laneJet (js : List (List Nat)) (l : Nat) : List Nat := js.map fun vs => vs.getD l 0

/-- A jet's coefficients joined into one value of w plies each. -/
def joinJet (w : Nat) (cs : List Nat) : Nat := cs.foldr (fun x acc => x % 2 ^ (4 * w) + acc <<< (4 * w)) 0

/-- A rounded or copied coefficient with its flags. -/
abbrev Coef := Nat × FpFlags

/-- A jet result and its flags land n cycles after issue: f gives the coefficients of a lane (17 R300). -/
def Core.landJet (c : Core) (v : VArgs) (n w k : Nat) (m : LaneMask) (f : Nat → List Coef) : Core :=
  let res := lanes.map fun l => if m.getLsbD l then f l else []
  (c.landVec v n (w * (k + 1)) m (res.map fun cs => joinJet w (cs.map fun x => x.1))).landFlagCodes v n k m
    (res.map fun cs => cs.map fun x => x.2.code)

/-- Rounded-up quotient. -/
def ceilDiv (a b : Nat) : Nat := (a + b - 1) / b

end Sys2Proof.Machine
end

