-- ==== Sys2Proof/Machine/Array.lean ====
section
/-! DEFINITION. The systolic array and the T slot (13 R227 to R244, 19 R328, R329, 08 R146). -/

namespace Sys2Proof.Machine

/-! Views (10 R180 to R182). -/

/-- A tile descriptor: BASE, FMT, ROWS, COLS. -/
structure TileDesc where
  base : Nat
  fmt : Nat
  rows : Nat
  cols : Nat
  deriving DecidableEq, Repr

/-- The fields of a tile descriptor (10 R189). -/
def tileDesc (v : Nat) : TileDesc := ⟨bits v 0 11, bits v 11 5, bits v 16 9 + 1, bits v 25 10 + 1⟩

/-- TD_n. -/
def Core.td (c : Core) (n : Nat) : TileDesc := tileDesc (c.ctl (32 + n))

/-- Plies of an element of a view's FMT (10 R180). -/
def fmtWidth (fmt : Nat) : Nat := if fmt = 0x0B then 4 else pageBits fmt / 4

/-- An FMT that a tile view may have (10 R189). -/
def viewFmtOk (fmt : Nat) : Bool := (1 ≤ fmt && fmt ≤ 7) || (0x0B ≤ fmt && fmt ≤ 0x15)

/-- Elements of one row that a lane holds. -/
def TileDesc.perLane (t : TileDesc) : Nat := (t.cols + 127) / 128

/-- The per-lane span S. -/
def TileDesc.span (t : TileDesc) : Nat := t.rows * t.perLane * fmtWidth t.fmt

/-- The ply of element (i, j) in lane j mod 128, at coefficient q. -/
def TileDesc.ply (t : TileDesc) (q i j : Nat) : Nat :=
  t.base + q * t.span + (i * t.perLane + j / 128) * fmtWidth t.fmt

/-- The elements of view row i at coefficient q. -/
def Core.viewRow (c : Core) (t : TileDesc) (q i : Nat) : List Nat :=
  (((List.range t.perLane).map fun p => c.plyVals (t.ply q i (128 * p)) (fmtWidth t.fmt)).flatten).take t.cols

/-- An accumulator descriptor: BASE, FMT, ROWS. -/
structure AccDesc where
  base : Nat
  fmt : Nat
  rows : Nat
  deriving DecidableEq, Repr

/-- AD_n. -/
def Core.accDesc (c : Core) (n : Nat) : AccDesc :=
  let v := c.ctl (48 + n)
  ⟨bits v 0 11, bits v 11 2, bits v 13 9 + 1⟩

/-- Plies of an accumulator element. -/
def AccDesc.width (a : AccDesc) : Nat := if a.fmt = 1 then 16 else 8

/-- The ply of accumulator row i at coefficient q (10 R181). -/
def AccDesc.ply (a : AccDesc) (q i : Nat) : Nat := a.base + q * (a.rows * a.width) + i * a.width

/-- Lanes 0 to 63. -/
def lowLanes : LaneMask := BitVec.ofNat 128 (2 ^ 64 - 1)

/-! Pairings (13 R228). -/

/-- The line of the table to which a stationary FMT belongs. -/
def pairLine (fmt : Nat) : Option Nat :=
  match fmt with
  | 1 => some 0
  | 2 => some 1
  | 3 => some 2
  | 4 => some 3
  | 5 | 6 => some 4
  | 0x0B => some 5
  | 7 => some 6
  | 0x0D | 0x12 => some 7
  | 0x0C | 0x11 => some 8
  | _ => none

/-- g, the elements of a K-group. -/
def lineG (line : Nat) : Nat :=
  match line with
  | 0 | 1 => 1
  | 2 | 3 => 4
  | 6 | 8 => 16
  | _ => 8

/-- The lines of integer pairings. -/
def lineInt (line : Nat) : Bool := line = 7 || line = 8

/-- A jet order that a line allows. -/
def lineJord (line k : Nat) : Bool := k = 0 || (1 ≤ line && line ≤ 3 && k ≤ 3)

/-- A line that allows block scales (13 R234). -/
def lineBlk (line : Nat) : Bool := line = 4 || line = 5 || line = 6

/-- An AD FMT that a line allows. -/
def lineAcc (line adFmt : Nat) : Bool :=
  if line = 0 then adFmt = 1 else if lineInt line then 2 ≤ adFmt else adFmt = 0

/-- The line of a SHIFT whose streamed FMT is given, over the rows that serve it; none is ILLEGAL. -/
def shiftLine (fmt : Nat) (rows : List (Nat × ArrayRow)) : Option Nat :=
  match rows with
  | [] => if fmt = 0x0B then none else pairLine fmt
  | r :: _ =>
    match pairLine r.2.fmt with
    | none => none
    | some l =>
      if rows.all (fun q => pairLine q.2.fmt == some l)
          && (if l = 5 then fmt == 6 else fmt != 0x0B && pairLine fmt == some l) then some l else none

/-- Occupancy of a SHIFT of order k over rows of order kb (13 R228, R243). -/
def shiftOcc (line k kb : Nat) : Nat :=
  if line = 0 then 4
  else ((List.range (k + 1)).map fun a => min kb (k - a) + 1).foldl (· + ·) 0

/-- The highest kb of the rows that serve (log 13). -/
def rowsKb (rows : List (Nat × ArrayRow)) : Nat := rows.foldl (fun m r => max m r.2.kb) 0

/-! Exact values in the array (13 R233 to R236). -/

/-- The value of an element code held in the array. -/
def arrVal (fmt code : Nat) : EV := if fmt = 0x0B then decodeFp fE4m3 code else pageVal fmt code

/-- Codes scaled by a latched scale and block scales; integers are unscaled. -/
def scaledVals (fmt scale : Nat) (blocks : Option (List Nat)) (codes : List Nat) : List EV :=
  let vs := codes.map (arrVal fmt)
  if pageInt fmt then vs
  else
    let sc := s10 scale
    let vs := vs.map fun v => scaled v sc
    match blocks with
    | none => vs
    | some bs => vs.zipIdx.map fun x => scaled x.1 (s10 (bs.getD (x.2 / 32) 0x1FC))

/-- The scaled elements of coefficient q of an array row; +0 above kb. -/
def ArrayRow.vals (r : ArrayRow) (q : Nat) : List EV := scaledVals r.fmt r.wscale r.blocks (r.codes.getD q [])

/-- The float format of a line's accumulators. -/
def lineFmt (line : Nat) : FpFmt := if line = 0 then fF64 else fF32

/-- Products of two element lists, the shorter one continued by +0. -/
def prods (a b : List EV) : List EV :=
  let n := max a.length b.length
  let pad (l : List EV) : List EV := l ++ List.replicate (n - l.length) EV.zero
  (List.zip (pad a) (pad b)).map fun p => (evMul p.1 p.2).1

/-- One step of a rounded sum. -/
def addRound (f : FpFmt) (mode acc : Nat) (vs : List EV) : Nat :=
  (roundFp f mode 0 (evSum 0 [decodeFp f acc, (evSum 0 vs).1]).1).1

/-- The chain of 13 R233 over K-groups of g elements; each list holds the products of one pair of coefficients, and the groups
beyond their ends are +0. -/
def chainFp (f : FpFmt) (mode g fuel acc : Nat) (ps : List (List EV)) : Nat :=
  match fuel with
  | 0 => acc
  | k + 1 =>
    let G := (ps.map fun l => l.take g).flatten
    if G.isEmpty then addRound f mode acc [EV.zero] else chainFp f mode g k (addRound f mode acc G) (ps.map fun l => l.drop g)

/-- The pairs of coefficients of a product at coefficient j (13 R243). -/
def pairsAt (ka kb j : Nat) : List (Nat × Nat) :=
  ((List.range (ka + 1)).map fun a => (a, j - a)).filter fun p => p.1 ≤ j && p.2 ≤ kb

/-- Output coefficient j of streamed coefficients as over stationary ones bs: a float code, or an integer modulo 2^64. -/
def chainOut (line mode kb j : Nat) (as : List (List EV)) (bs : Nat → List EV) : Nat :=
  let ps := (pairsAt (as.length - 1) kb j).map fun p => prods (as.getD p.1 []) (bs p.2)
  if lineInt line then intCode 64 (ps.foldl (fun acc l => l.foldl (fun acc v => acc + v.num) acc) 0)
  else chainFp (lineFmt line) mode (lineG line) 64 0 ps

/-- The sum over array rows in ascending order of element e at coefficient q, with its magnitude (13 R235). -/
def assaySum (line : Nat) (vals : List (List EV)) (e : Nat) : EV × EV :=
  if lineInt line then (EV.ofInt (vals.foldl (fun acc r => acc + (nthEV r e).num) 0), EV.zero)
  else
    let f := lineFmt line
    let s := vals.foldl (fun acc r => addRound f 0 acc [nthEV r e]) 0
    let m := vals.foldl (fun acc r => addRound f 2 acc [(nthEV r e).abs]) 0
    (decodeFp f s, decodeFp f m)
where
  /-- Element e of a row, +0 beyond its end. -/
  nthEV (r : List EV) (e : Nat) : EV := r.getD e EV.zero

/-- The assay row at coefficient q: sums and magnitudes. -/
def assayRow (line : Nat) (rows : List (Nat × ArrayRow)) (q : Nat) : List (EV × EV) :=
  let vals := rows.map fun r => r.2.vals q
  let n := vals.foldl (fun m l => max m l.length) 0
  (List.range n).map (assaySum line vals)

/-- The value of coefficient codes that a beat streams. -/
def Beat.vals (b : Beat) (ascale : Nat) (blocks : Option (List Nat)) : List (List EV) :=
  if b.assay then b.codes.map fun cs => cs.map fun x => decodeU b.line x
  else (b.codes.map (scaledVals b.fmt ascale blocks)).map fun vs => if b.neg then vs.map EV.negate else vs
where
  /-- A column checksum's code: a float of the accumulator, or an integer modulo 2^32. -/
  decodeU (line x : Nat) : EV := if lineInt line then EV.ofInt (intVal true 32 x) else decodeFp (lineFmt line) x

/-- The output of a beat, formed from the rows that serve it (13 R233, R235, R236). Every row takes the pairs of the beat's kb, with
+0 for its coefficients above its own and for those of a row that was never pushed (13 R243). -/
def Beat.form (b : Beat) (ascale : Nat) (blocks : Option (List Nat)) (rows : List (Nat × ArrayRow)) : Beat :=
  let as := b.vals ascale blocks
  let kb := rowsKb rows
  let rowOf (n : Nat) : Option ArrayRow := (rows.find? fun r => r.1 == n).map fun r => r.2
  let dataOut (as : List (List EV)) (mode : Nat) (abs : Bool) (j : Nat) : List Nat :=
    (List.range 64).map fun n =>
      match rowOf n with
      | some r => chainOut b.line mode kb j as fun q => if abs then (r.vals q).map EV.abs else r.vals q
      | none => if as.all (fun l => l.all EV.isFin) then 0 else chainOut b.line mode kb j as fun _ => []
  let js := List.range (b.k + 1)
  if b.assay then
    let ms := b.mags.map fun cs => cs.map fun x => decodeFp (lineFmt b.line) x
    { b with
      formed := true, out := js.map (dataOut as 0 false),
      outMag := if lineInt b.line then js.map fun _ => [] else js.map (dataOut ms 2 true) }
  else
    let ar := (List.range (kb + 1)).map (assayRow b.line rows)
    let sums (q : Nat) : List EV := (ar.getD q []).map fun p => p.1
    let mags (q : Nat) : List EV := (ar.getD q []).map fun p => p.2
    let aas := as.map fun l => l.map EV.abs
    { b with
      formed := true, out := js.map (dataOut as 0 false),
      side := js.map fun j =>
        (chainOut b.line 0 kb j as sums, if lineInt b.line then 0 else chainOut b.line 2 kb j aas mags) }

/-! The column checksum (13 R236). -/

/-- Adds streamed values to a list of codes, element by element, the shorter list continued by 0. -/
def addCodes (line mode : Nat) (cs : List Nat) (vs : List EV) : List Nat :=
  let n := max cs.length vs.length
  (List.range n).map fun e =>
    let c := cs.getD e 0
    let v := vs.getD e EV.zero
    if lineInt line then intCode 32 ((c : Int) + v.num) else addRound (lineFmt line) mode c [v]

/-- A SHIFT's values enter u and its magnitude. -/
def Tile.stream (t : Tile) (line : Nat) (as : List (List EV)) : Tile :=
  let n := max t.u.length as.length
  { t with
    u := (List.range n).map fun q => addCodes line 0 (t.u.getD q []) (as.getD q []),
    um := if lineInt line then []
      else (List.range n).map fun q => addCodes line 2 (t.um.getD q []) ((as.getD q []).map EV.abs) }

/-! One schedule cycle of the array, before the beat of the cycle issues. -/

/-- The block scales of a view row, from their ply (13 R234): one S10 code for each lane. -/
def Core.blockScales (c : Core) (at_ : Nat) : List Nat := (c.plyVals at_ 3).map fun v => v % 1024

/-- Claims whose cycle has come enter the assay accumulators (13 R235). -/
def accClaim (line : Nat) (old : Option (Nat × Nat)) (add : Nat × Nat) (ow : Bool) : Nat × Nat :=
  match old, ow with
  | some o, false =>
    if lineInt line then ((o.1 + add.1) % 2 ^ 32, 0)
    else
      let f := lineFmt line
      (addRound f 0 o.1 [decodeFp f add.1], addRound f 2 o.2 [decodeFp f add.2])
  | _, _ => if lineInt line then (add.1 % 2 ^ 32, 0) else add

/-- A line whose pairings an accumulator FMT takes. -/
def accLine (adFmt : Nat) : Nat := if adFmt = 0 then 1 else if adFmt = 1 then 0 else 7

/-- One pending claim lands in the tile's assay accumulators. A claim acts on the coefficients of its output row, and those of a
higher order that an earlier claim wrote stand as the data do (13 R235, R243). -/
def Tile.landClaim (t : Tile) (p : ClaimPend) : Tile :=
  let line := accLine t.adFmt
  match p.row with
  | some r =>
    let old := ((t.acc.find? fun a => a.row == r).map fun a => a.sums).getD []
    let new := p.add.mapIdx fun j l => accClaim line (old[j]?) (l.headD (0, 0)) p.ow
    { t with acc := ⟨r, new ++ old.drop p.add.length⟩ :: t.acc.filter fun a => a.row != r }
  | none =>
    let new := p.add.mapIdx fun j l => l.mapIdx fun n x => accClaim line ((t.cksAcc.getD j [])[n]?) x p.ow
    { t with cksAcc := new ++ t.cksAcc.drop p.add.length }

/-- Claims due at a schedule cycle. -/
def Tile.landClaims (t : Tile) (sched : Nat) : Tile :=
  let t' := (t.pend.filter fun p => p.due ≤ sched).foldl Tile.landClaim t
  { t' with pend := t.pend.filter fun p => sched < p.due }

/-- The array at the start of schedule cycle sched of its core (13 R230): SHIFTs issued on the cycle before read ASCALE and
their block scales and form their output over the rows that served them; PUSHes issued on the cycle before read WSCALE, and
those issued two cycles before serve. -/
def Core.arrayTick (c : Core) : Core :=
  let a := c.array
  let s := c.sched
  let form (b : Beat) : Beat :=
    if b.formed || b.issued = s then b else b.form (c.ctl 7 % 1024) (b.blkAt.map c.blockScales) a.rows
  let streamed := a.beats.filter fun b => !b.formed && b.issued ≠ s && !b.assay && !b.disc
  let tile := streamed.foldl (fun t b =>
    t.map fun t => Tile.stream t b.line (b.vals (c.ctl 7 % 1024) (b.blkAt.map c.blockScales))) a.tile
  let pushes := a.pushes.map fun p =>
    if p.1 + 1 = s then (p.1, p.2.1, { p.2.2 with wscale := c.ctl 6 % 1024 }) else p
  let rows := (pushes.filter fun p => p.1 + 2 ≤ s).foldl (fun r p => setAt r p.2.1 p.2.2) a.rows
  { c with
    array := { a with
      beats := (a.beats.filter fun b => s ≤ b.emerge).map form,
      tile := tile.map fun t => t.landClaims s,
      pushes := pushes.filter fun p => s < p.1 + 2,
      rows := rows } }

/-! The checker (13 R238 to R241). -/

/-- The tolerance register of a stationary FMT (13 R240). -/
def tolReg (sfmt : Nat) : Nat := if sfmt = 0x0B then 69 else 63 + sfmt

/-- The exact value of an accumulator code. -/
def accVal (adFmt code : Nat) : EV :=
  if adFmt = 0 then decodeFp fF32 code else if adFmt = 1 then decodeFp fF64 code else EV.ofInt (intVal true 32 code)

/-- A comparison of an exact sum with a check value and a magnitude sum (13 R239). -/
def mismatch (adFmt tol : Nat) (isat : Bool) (xs : List EV) (check : Nat × Nat) : Bool :=
  if 2 ≤ adFmt then
    !(adFmt = 3 && isat) && (xs.foldl (fun acc v => acc + v.num) 0 - (check.1 : Int)) % (2 ^ 32 : Int) != 0
  else
    let m := accVal adFmt check.2
    match s10 tol with
    | .nan _ | .inf _ => false
    | t =>
      if !m.isFin then false
      else
        let sum := (evSum 0 xs).1
        let k := accVal adFmt check.1
        if !sum.isFin || !k.isFin then true
        else
          let d := addFrac (sum.num, sum.den) (-k.num, k.den)
          let lim : EV := (evMul (evMul t m).1 (.fin false 1 (2 ^ 23))).1
          evLt lim (.fin false d.1.natAbs d.2)

/-- A verdict of one coefficient: nothing, a trap with the columns that mismatched, or a correction. -/
inductive Verdict where
  | pass
  | trap (cols : List Nat)
  | element (row col : Nat)
  | assayElement (row : Nat)
  | checksum (col : Nat)
  deriving DecidableEq, Repr

/-- The columns that mismatched. -/
def Verdict.cols (v : Verdict) : List Nat :=
  match v with
  | .trap cols => cols
  | .element _ col | .checksum col => [col]
  | .pass | .assayElement _ => []

/-- The verdict of coefficient j of a tile (13 R241). -/
def Tile.verdict (t : Tile) (tol j : Nat) : Verdict :=
  let val (d : Drained) (n : Nat) : EV := accVal t.adFmt ((d.codes.getD j []).getD n 0)
  let rows := t.drains.filter fun d =>
    mismatch t.adFmt tol t.isat ((List.range 64).map (val d)) (d.check.getD j (0, 0))
  let cols := (List.range 64).filter fun n =>
    mismatch t.adFmt tol t.isat (t.drains.map fun d => val d n) ((t.cksAcc.getD j []).getD n (0, 0))
  match rows, cols with
  | [], [] => .pass
  | [d], [n] => .element d.row n
  | [d], [] => .assayElement d.row
  | [], [n] => .checksum n
  | _, _ => .trap cols

/-- The corrected value of element (i, n) at coefficient j. -/
def Tile.corrected (t : Tile) (j i n : Nat) : Nat :=
  let k := ((t.cksAcc.getD j []).getD n (0, 0)).1
  let others := (t.drains.filter fun d => d.row != i).map fun d => accVal t.adFmt ((d.codes.getD j []).getD n 0)
  if 2 ≤ t.adFmt then intCode 32 ((k : Int) - others.foldl (fun acc v => acc + v.num) 0)
  else
    let f := if t.adFmt = 1 then fF64 else fF32
    (roundFp f 0 0 (evSum 0 [accVal t.adFmt k, (evSum 0 others).1.negate]).1).1

/-- The queue entry of a correction without CYC (10 R185). -/
def corEntry (ad row col : Nat) (cks : Bool) : Nat :=
  2 ^ 63 + ad * 2 ^ 61 + row * 2 ^ 52 + col * 2 ^ 46 + (if cks then 2 ^ 45 else 0)

/-- The row number that stands for no row charged. -/
def noRow : Nat := 255

/-- A row of core n is charged in its health counter (07 R130); at ROWTHR it waits for its retirement, or, as the core's third,
marks the core (07 R131). -/
def State.chargeRow (s : State) (n row : Nat) : State :=
  if 65 ≤ row then s
  else
    let m := s.physCore n
    let key := 128 * m + row
    let v := min 15 ((Store.read s.reliab.rows key).toNat + 1)
    let thr := let t := bits s.reliab.relcfg.toNat 24 4; if t = 0 then 1 else t
    let s := { s with reliab := { s.reliab with rows := Store.write s.reliab.rows key (BitVec.ofNat 4 v) } }
    let mine (p : Nat × Nat) : Bool := p.1 = m
    let taken := (s.reliab.spares.filter mine).length + (s.reliab.pendingRows.filter mine).length
    if v < thr || s.reliab.pendingRows.contains (m, row) then s
    else if 2 ≤ taken then
      { s with reliab := { s.reliab with
          badCores := if s.reliab.badCores.contains m then s.reliab.badCores else m :: s.reliab.badCores } }
    else
      let s := { s with reliab := { s.reliab with pendingRows := s.reliab.pendingRows ++ [(m, row)] } }
      if (s.core n).launch.isNone then s.plan (s.chip + 1) (.rowRetire n) else s

/-- The upset register's element of a tile (08 R146). -/
def State.upsetOf (s : State) (n ad : Nat) : Option Upset := s.dbg.upsets.find? fun u => u.core = n && u.ad = ad

/-- The items of a correction of one coefficient: the accumulator element and its drained copy at issue+8. -/
def Tile.fixItems (t : Tile) (j i n due issued seq : Nat) : List Item :=
  match t.drains.find? fun d => d.row = i with
  | none => []
  | some d =>
    let w := if t.adFmt = 1 then 16 else 8
    let v := t.corrected j i n
    let vals := lanes.map fun l => if l = n then v else 0
    let mask := BitVec.ofNat 128 (2 ^ n)
    [⟨due, srcT, issued, seq, .land (.plies (d.accAt.getD j 0) w mask vals)⟩,
      ⟨due, srcT, issued, seq, .land (.plies (d.copyAt.getD j 0) w mask vals)⟩]

/-- The tolerance of a tile's pairing as core c holds it (13 R240). -/
def Core.tolerance (c : Core) (t : Tile) : Nat := c.ctl (tolReg t.sfmt) % 1024

/-- The verdict of the tile that closes on this schedule cycle of core n: a trap, or its corrections at t+8 (13 R241). The
answer says whether ASSAY is raised. tol is the tolerance that stands at t+6 (13 R245). An ASSAY charges the row of every column that
mismatched in any coefficient, a correction its own (07 R130). -/
def State.closeTile (s : State) (n : Nat) (tol : Nat) (t : Tile) (issued : Nat) : Bool × State :=
  let vs := (List.range (t.k + 1)).map fun j => (j, t.verdict tol j)
  let ad := t.ad.getD 0
  let traps := vs.any fun p => match p.2 with
    | .trap _ => true
    | _ => false
  let hit (u : Upset) : Bool := vs.any fun p => match p.2 with
    | .element i m => p.1 = 0 && u.row = i && u.col = m
    | _ => false
  let ups := s.dbg.upsets.filter fun u => u.core = n && u.ad = ad
  let s := { s with dbg := { s.dbg with upsets := s.dbg.upsets.filter fun u => !(u.core = n && u.ad = ad) } }
  let note (c : Core) (due bit : Nat) : Core := { c with items := c.items ++ [⟨due, srcT, issued, c.seq, .upsetVerdict bit⟩] }
  if traps then
    let s := ((vs.flatMap fun p => p.2.cols).eraseDups).foldl (fun s r => s.chargeRow n r) s
    let s := s.updCore n fun c => { c with array := { c.array with closing := c.array.closing.filter (· != t) } }
    (true, if ups.isEmpty then s else
      { s with dbg := { s.dbg with upsetStat := s.dbg.upsetStat ||| 4#64 } })
  else
    let due := issued + 8
    let add (c : Core) (p : Nat × Verdict) : Core :=
      let item (entry row : Nat) : Item := ⟨due, srcT, issued, c.seq, .correct entry row⟩
      match p.2 with
      | .element i m =>
        let charged := if p.1 = 0 && ups.any (fun u => u.row = i && u.col = m) then noRow else m
        { c with items := c.items ++ t.fixItems p.1 i m due issued c.seq ++ [item (corEntry ad i m false) charged] }
      | .assayElement i => { c with items := c.items ++ [item (corEntry ad i 0 true) 64] }
      | .checksum m => { c with items := c.items ++ [item (corEntry ad 0x1FF m true) m] }
      | _ => c
    (false, s.updCore n fun c =>
      let c := vs.foldl add c
      ups.foldl (fun c u => note c due (if hit u then 1 else 3)) c)

/-! Beats (13 R229 to R232, 19 R328, R329). -/

/-- A beat in a handler while the array is held in place (09 R163). -/
def Core.arrayHeld (c : Core) : Bool :=
  c.handler && match c.record with
    | some r => r.arrayHeld
    | none => false

/-- The SHIFT or ASSAY whose output row emerges on this cycle and may be claimed. -/
def Core.emerging (c : Core) : Option Beat := c.array.beats.find? fun b => b.emerge = c.sched && !b.disc

/-- Traps that every beat but ACC and DRAIN shares: held array ILLEGAL, held slot TIMING. -/
def heldTraps (c : Core) : List Trap := check c.arrayHeld .illegal
def busyTraps (c : Core) : List Trap := check (c.sched < c.array.busy) .timing

/-- Footprint of a view at order k (10 R182), with its block scales (13 R234). -/
def viewTraps (t : TileDesc) (k : Nat) (blk : Bool) : List Trap :=
  check (2048 < t.base + (k + 1) * t.span || (blk && 2048 < t.base + t.span + 3 * t.rows)) .plyRange

/-- A tile just opened. -/
def Tile.opened : Tile :=
  { ad := none, adFmt := 0, claimed := [], cksClaimed := false, shifted := 0, line := none, sfmt := 0, occ := 1, k := 0,
    u := [], um := [], acc := [], cksAcc := [], pend := [], drains := [], isat := false, cks := none }

/-- zero: opens a tile. -/
def execZero (t : TArgs) (s : State) : Out :=
  slotRun t.guard
    (fun s => let c := s.curCore; heldTraps c ++ check c.array.tile.isSome .illegal ++ busyTraps c)
    (fun s => s.onCur fun c => { c with array := { c.array with tile := some Tile.opened } }) s

/-- The element codes of a view row at order k; lc2 codes become their weights (12 R216). -/
def Core.streamCodes (c : Core) (d : TileDesc) (k row : Nat) : List (List Nat) :=
  (List.range (k + 1)).map fun q =>
    let cs := c.viewRow d q row
    if d.fmt = 0x0B then (cs.flatMap fun x => lc2Weights c.codebook x).map weightCode else cs

/-- The ply of the block scales of view row r (13 R234). -/
def TileDesc.blkPly (d : TileDesc) (r : Nat) : Nat := d.base + d.span + 3 * r

/-- push: the view row is read at issue; it serves beats issued at issue+2 or later. -/
def execPush (t : TArgs) (s : State) : Out :=
  slotRun t.guard
    (fun s =>
      let c := s.curCore
      let d := c.td t.desc
      let bad := match pairLine d.fmt with
        | none => true
        | some l => !lineJord l c.jord || (t.blk && !lineBlk l)
            || (if l = 5 then 64 < d.cols else 64 * lineG l < d.cols)
      let order := match c.array.tile with
        | some x => x.shifted ≠ 0
        | none => false
      heldTraps c ++ check (bad || d.rows ≤ t.aux / 16 || order) .illegal ++ viewTraps d c.jord t.blk ++ busyTraps c)
    (fun s => s.onCur fun c =>
      let d := c.td t.desc
      let r := t.aux / 16
      let row : ArrayRow := ⟨d.fmt, c.jord, 0x1FC, if t.blk then some (c.blockScales (d.blkPly r)) else none,
        c.streamCodes d c.jord r⟩
      { c with array := { c.array with pushes := c.array.pushes ++ [(c.sched, t.row, row)] } }) s

/-- Traps of the SHIFT part of a beat: view row and tile descriptor given. -/
def shiftTraps (c : Core) (t : TArgs) : List Trap :=
  let d := c.td t.desc
  let bad := match shiftLine d.fmt c.array.rows with
    | none => true
    | some l => !lineJord l c.jord || (t.blk && !lineBlk l) || 64 * lineG l < d.cols
  check (c.array.tile.isNone || bad || d.rows ≤ t.aux / 16) .illegal ++ viewTraps d c.jord t.blk ++ busyTraps c

/-- The SHIFT part of a beat (13 R230, R233). -/
def Core.issueShift (c : Core) (t : TArgs) : Core :=
  let d := c.td t.desc
  let line := (shiftLine d.fmt c.array.rows).getD 0
  let k := c.jord
  let occ := shiftOcc line k (rowsKb c.array.rows)
  let b : Beat := ⟨c.sched, c.sched + 67 + occ, false, t.neg, t.disc, line, d.fmt, k,
    c.streamCodes d k (t.aux / 16), [], if t.blk then some (d.blkPly (t.aux / 16)) else none, false, [], [], []⟩
  let sfmt := match c.array.rows with
    | [] => d.fmt
    | r :: _ => r.2.fmt
  { c with
    array := { c.array with
      beats := c.array.beats ++ [b], busy := c.sched + occ,
      tile := c.array.tile.map fun x =>
        { x with shifted := x.shifted + 1, line := some line, sfmt := sfmt, occ := occ, k := k } } }

/-- The line of an ASSAY: the pairing of the tile's SHIFTs, to which every row that records a format belongs. DESIGN CHOICE (log 13): in
a tile without SHIFTs it is the pairing of the rows, and with no row pushed that of f32; the manual gives none. -/
def Tile.assayLine (x : Tile) (rows : List (Nat × ArrayRow)) : Option Nat :=
  let line := match x.line, rows with
    | some l, _ => some l
    | none, [] => some 1
    | none, r :: _ => pairLine r.2.fmt
  if rows.all fun r => pairLine r.2.fmt == line then line else none

/-- Traps of the ASSAY part of a beat. -/
def assayTraps (c : Core) : List Trap :=
  let bad := match c.array.tile with
    | none => true
    | some x =>
      match x.assayLine c.array.rows with
      | none => true
      | some l => !lineJord l c.jord
  check bad .illegal ++ busyTraps c

/-- The ASSAY part of a beat: streams u, which starts again (13 R236). -/
def Core.issueAssay (c : Core) : Core :=
  match c.array.tile with
  | none => c
  | some x =>
    let line := (x.assayLine c.array.rows).getD 1
    let b : Beat := ⟨c.sched, c.sched + 67 + x.occ, true, false, false, line, 0, x.k, x.u, x.um, none, false, [], [], []⟩
    { c with
      array := { c.array with
        beats := c.array.beats ++ [b], busy := c.sched + x.occ,
        tile := some { x with shifted := 0, u := [], um := [] } } }

/-- Traps of a claim into row r of AD_m (13 R231, R232, 19 R329). -/
def claimTraps (c : Core) (m r : Nat) (ow cks : Bool) : List Trap :=
  let d := c.accDesc m
  match c.array.tile with
  | none => [.illegal]
  | some x =>
    let first := if cks then !x.cksClaimed else !x.claimed.contains r
    let kind := match c.emerging with
      | some b => b.assay ≠ cks || !lineAcc b.line d.fmt
      | none => false
    let k := match c.emerging with
      | some b => b.k
      | none => 0
    check ((!cks && d.rows ≤ r) || kind || first ≠ ow || (x.ad.isSome && x.ad ≠ some m)) .illegal
      ++ check (2048 < d.base + (k + 1) * (d.rows * d.width)) .plyRange
      ++ check c.emerging.isNone .timing

/-- The result of a claim on an accumulator element, and whether it clamps (13 R233, 12 R221). -/
def claimElement (adFmt : Nat) (ow : Bool) (old out : Nat) : Nat × Bool :=
  if 2 ≤ adFmt then
    let x := intVal true 64 out + (if ow then 0 else intVal true 32 old)
    if adFmt = 2 then (intCode 32 x, false)
    else if x < -(2 ^ 31) then (0x80000000, true)
    else if 2 ^ 31 ≤ x then (0x7FFFFFFF, true)
    else (intCode 32 x, false)
  else if ow then (out, false)
  else
    let f := if adFmt = 1 then fF64 else fF32
    (addRound f 0 old [decodeFp f out], false)

/-- The claim part of a beat of core n: the accumulator row is read at issue and lands at issue+2, and the assay accumulators
follow (13 R230, R233, R235); an armed upset inverts its bit in what lands, and fires on the landing cycle (08 R145, R146). A claim
that names the same row before that landing does not fire again. -/
def State.issueClaim (s : State) (m r : Nat) (ow cks : Bool) : State :=
  let n := s.cur
  let c := s.core n
  match c.emerging, c.array.tile with
  | some b, some x =>
    let d := c.accDesc m
    let beats := c.array.beats.filter (· != b)
    let pend : ClaimPend := ⟨c.sched + 2, ow, if cks then none else some r,
      if cks then b.out.mapIdx fun j l => l.mapIdx fun i v => (v, (b.outMag.getD j []).getD i 0)
      else b.side.map fun p => [p]⟩
    if cks then
      let x := { x with ad := some m, adFmt := d.fmt, cksClaimed := true, pend := x.pend ++ [pend] }
      s.updCore n fun c => { c with array := { c.array with beats := beats, tile := some x } }
    else
      let u := s.dbg.upsetCtl.toNat
      let fired := c.items.any fun i => match i.act with | .upsetFire .. => true | _ => false
      let fires := u.testBit 63 && bits u 48 8 = n && bits u 56 2 = m && bits u 32 9 = r && !fired
      let col := bits u 8 6
      let bit := bits u 0 6
      let flip (j l v : Nat) : Nat :=
        if fires && j = 0 && l = col && bit < 4 * d.width then Nat.xor v (2 ^ bit) else v
      let res := (List.range (b.k + 1)).map fun j =>
        let old := c.plyVals (d.ply j r) d.width
        lanes.map fun l =>
          if l < 64 then
            let e := claimElement d.fmt ow (old.getD l 0) ((b.out.getD j []).getD l 0)
            (flip j l e.1, e.2)
          else (0, false)
      let sat := res.any fun l => l.any fun e => e.2
      s.updCore n fun c =>
        let x := { x with
          ad := some m, adFmt := d.fmt, pend := x.pend ++ [pend], isat := x.isat || sat,
          claimed := if x.claimed.contains r then x.claimed else r :: x.claimed }
        let c := { c with array := { c.array with beats := beats, tile := some x } }
        let c := (res.zipIdx).foldl (fun c p =>
          c.push 2 srcT (.land (.plies (d.ply p.2 r) d.width lowLanes (p.1.map fun e => e.1)))) c
        let c := if sat then c.push 2 srcT (.land (.ctlBit 3 8)) else c
        if fires then c.push 2 srcT (.upsetFire m r col) else c
  | _, _ => s

/-- shift. -/
def execShift (t : TArgs) (s : State) : Out :=
  slotRun t.guard (fun s => heldTraps s.curCore ++ shiftTraps s.curCore t) (fun s => s.onCur fun c => c.issueShift t) s

/-- assay. -/
def execAssayBeat (t : TArgs) (s : State) : Out :=
  slotRun t.guard (fun s => heldTraps s.curCore ++ assayTraps s.curCore) (fun s => s.onCur fun c => c.issueAssay) s

/-- A claim that is guarded off drops its row (13 R231), but for an array that a handler finds frozen (09 R163). -/
def dropClaim (s : State) : State :=
  s.onCur fun c => match c.arrayHeld, c.emerging with
    | false, some b => { c with array := { c.array with beats := c.array.beats.filter (· != b) } }
    | _, _ => c

/-- A beat with a claim: guarded off it drops the row that emerges. -/
def claimRun (g : Guard) (checks : State → List Trap) (eff : State → State) (s : State) : Out :=
  match s.curCore.guard g with
  | some false => .next (dropClaim s)
  | _ => slotRun g checks eff s

/-- acc. -/
def execAcc (t : TArgs) (s : State) : Out :=
  claimRun t.guard
    (fun s => heldTraps s.curCore ++ claimTraps s.curCore t.desc (t.aux / 16) t.ow t.cks)
    (fun s => s.issueClaim t.desc (t.aux / 16) t.ow t.cks) s

/-- The traps of two parts of a beat in the order of 09 R162. -/
def trapsOf (a b : List Trap) : List Trap :=
  sortBy (fun x y => decide (x.order ≤ y.order)) (a ++ b)

/-- shift.acc. -/
def execShiftAcc (t : TArgs) (s : State) : Out :=
  claimRun t.guard
    (fun s =>
      let c := s.curCore
      heldTraps c ++ trapsOf (shiftTraps c t) (claimTraps c (t.aux % 4) t.row t.ow t.cks))
    (fun s => (s.issueClaim (t.aux % 4) t.row t.ow t.cks).onCur fun c => c.issueShift t) s

/-- assay.acc. -/
def execAssayAcc (t : TArgs) (s : State) : Out :=
  claimRun t.guard
    (fun s =>
      let c := s.curCore
      heldTraps c ++ trapsOf (assayTraps c) (claimTraps c (t.aux % 4) t.row t.ow t.cks))
    (fun s => (s.issueClaim (t.aux % 4) t.row t.ow t.cks).onCur fun c => c.issueAssay) s

/-- The FMT of a view that takes a copy of an accumulator (13 R238). -/
def copyFmt (adFmt : Nat) : Nat := if adFmt = 0 then 2 else if adFmt = 1 then 1 else 0x0F

/-- Traps of drain (13 R232, R238); the AD's FMT is still of the tile's pairing (13 R228). -/
def drainTraps (c : Core) (m r : Nat) (cks : Bool) (d : TileDesc) (vr : Nat) : List Trap :=
  let a := c.accDesc m
  match c.array.tile with
  | none => [.illegal]
  | some x =>
    let order :=
      if cks then
        x.shifted ≠ 0 || c.array.beats.any (fun b => c.sched < b.emerge) || !x.cksClaimed
          || x.claimed.any fun q => !x.drains.any fun e => e.row = q
      else !x.claimed.contains r || x.drains.any fun e => e.row = r
    check (order || x.ad ≠ some m || !lineAcc (accLine x.adFmt) a.fmt || d.fmt ≠ copyFmt a.fmt || d.cols < 64 || d.rows ≤ vr || (!cks && a.rows ≤ r)) .illegal
      ++ check (2048 < a.base + (x.k + 1) * (a.rows * a.width) || 2048 < d.base + (x.k + 1) * d.span) .plyRange

/-- drain: the row is read at issue and its copy lands at issue+4; the checksum drain closes the tile and its verdict falls
at issue+6 (13 R230, R238, R241). -/
def execDrain (t : TArgs) (s : State) : Out :=
  let m := t.desc % 4
  let r := t.desc / 4 * 128 + t.row
  let vr := t.aux / 16
  slotRun t.guard
    (fun s => let c := s.curCore; heldTraps c ++ drainTraps c m r t.cks (c.td (t.aux % 16)) vr)
    (fun s => s.onCur fun c =>
      match c.array.tile with
      | none => c
      | some x =>
        let a := c.accDesc m
        let d := c.td (t.aux % 16)
        let js := List.range (x.k + 1)
        let codes := js.map fun j =>
          if t.cks then (x.cksAcc.getD j []).map fun p => p.1 else (c.plyVals (a.ply j r) a.width).take 64
        let copies := js.map fun j => d.ply j vr 0
        let c := (codes.zip copies).foldl (fun c p =>
          c.push 4 srcT (.land (.plies p.2 a.width lowLanes (p.1 ++ List.replicate 64 0)))) c
        if t.cks then
          let x := { x with cks := some c.sched, pend := [] }
          { c with array := { c.array with tile := none, closing := c.array.closing ++ [x] } }
        else
          let check := ((x.acc.find? fun e => e.row = r).map fun e => e.sums).getD []
          let x := { x with drains := x.drains ++ [⟨r, js.map fun j => a.ply j r, copies, codes, check⟩] }
          { c with array := { c.array with tile := some x } }) s

end Sys2Proof.Machine
end

