-- ==== Sys2Proof/Machine/CSlot.lean ====
section
/-! DEFINITION. The C slot and the sequencer (09 R149 to R160, 15 R264 to R279). -/

namespace Sys2Proof.Machine

/-! The sequencer. -/

/-- The innermost active level. -/
def Core.inner (c : Core) : Option LoopLevel := c.loops.head?

/-- A bundle address lies in a level's range (15 R268). -/
def LoopLevel.covers (l : LoopLevel) (a : Nat) : Bool := l.first ≤ a && a ≤ l.last

/-- Pops every innermost level whose range does not hold the target of a transfer (15 R268). -/
def popOutside (t : Nat) (ls : List LoopLevel) : List LoopLevel := ls.dropWhile fun l => !l.covers t

/-- The level test after the bundle at p has issued (15 R267, R269): the levels left, the next PC, and whether the boundary
is a point (06 R103): a LOOP's return, or the end of a spool's pass. -/
def levelStep (p next : Nat) (ls : List LoopLevel) : List LoopLevel × Nat × Bool :=
  match ls with
  | [] => ([], next, false)
  | l :: r =>
    if l.last = p then
      if l.remaining = 0 then
        let o := levelStep p next r
        (o.1, o.2.1, o.2.2 || l.spool.isSome)
      else
        ({ l with remaining := l.remaining - 1, index := l.index + 1,
                  spool := l.spool.map fun sp => { sp with due := true } } :: r, l.first, true)
    else (l :: r, next, false)

/-- The sequencer after the bundle at PC has issued (09 R149, R151, 15 R265 to R272): npc is the fall-through address. The slots of
RESPC that issue again are no bundle of their own: the value of an rdv still stands for the next (09 R160, R167). -/
def Core.advance (c : Core) : Core :=
  let c := { c with rdvVal := if c.resumePc.isSome then c.rdvVal else none, done := 0, brkSkip := false }
  let leave (c : Core) : Core :=
    match c.xfer with
    | some (t, 1, pops) => { c with xfer := none, pc := t, loops := if pops then popOutside t c.loops else c.loops }
    | x =>
      let o := levelStep c.pc c.npc c.loops
      { c with xfer := x.map fun p => (p.1, p.2.1 - 1, p.2.2), loops := o.1, pc := o.2.1, atPoint := c.atPoint || o.2.2 }
  match c.resumePc, c.rep with
  | some p, _ => { c with pc := p, resumePc := none }
  | none, some (a, n) =>
    if a = c.pc then (if n ≤ 1 then leave { c with rep := none } else { c with rep := some (a, n - 1) })
    else leave c
  | none, none => leave c

/-- The stage predicates of pass q and, after pass 0, the deltas (15 R271), which land on the pass's first issue cycle after
every other landing. -/
def Core.passStart (c : Core) : Core :=
  match c.loops with
  | l :: r =>
    match l.spool with
    | some sp =>
      if sp.due && !c.handler then
        let c := { c with loops := { l with spool := some { sp with due := false } } :: r }
        let c := if l.index = 0 then c
          else sp.deltas.foldl (fun c d => c.landScalar d.1 (c.scalar d.1 + d.2)) c
        (List.range 8).foldl (fun c k =>
          let on := k ≤ l.index && l.index - k < sp.n
          { c with preds := Store.write c.preds (56 + k) (if on then BitVec.allOnes 128 else 0) }) c
      else c
    | none => c
  | [] => c

/-! Transfers (15 R265). -/

/-- A transfer to t issues: its two delay bundles follow (09 R151); a br, brs or ret pops levels at its target, a call and a selv
leave them (15 R268). -/
def Core.transfer (c : Core) (t : Nat) (pops : Bool) : Core := { c with xfer := some (t, 3, pops) }

/-- ILLEGAL for a taken transfer (09 R151, 15 R268, R269): in a delay bundle, at the LAST of a level still to return, or in
a spool's body anywhere but the last bundle of the last pass. -/
def transferChecks (s : State) : List Trap :=
  let c := s.curCore
  let inBody := match c.inner with
    | some l => l.spool.isSome && l.covers c.pc && !(c.pc = l.last && l.remaining = 0)
    | none => false
  check (c.xfer.isSome || c.loops.any (fun l => l.last = c.pc && l.remaining ≠ 0) || inBody) .illegal

/-- br (15 R265): taken when the uniform view of the predicate, negated if asked, holds. -/
def execBr (g : Guard) (neg : Bool) (pred target : Nat) (s : State) : Out :=
  slotRun g
    (fun s => match s.curCore.uniform pred with
      | none => [.nonuniform]
      | some b => if xor b neg then transferChecks s else [])
    (fun s => match s.curCore.uniform pred with
      | some b => if xor b neg then s.onCur fun c => c.transfer target true else s
      | none => s) s

/-- The status word that brs samples (15 R266). -/
def Core.statusWord (c : Core) (a : Nat) : Nat := Store.num c.vault a 8

/-- The condition of brs at the address a. -/
def Core.brsTaken (c : Core) (neg fault : Bool) (a : Nat) : Bool :=
  xor ((c.statusWord (vaultOffset a)).testBit (if fault then 62 else 63)) neg

/-- brs (15 R265, R266). -/
def execBrs (g : Guard) (neg fault : Bool) (sk target : Nat) (s : State) : Out :=
  let addr (c : Core) : Nat := ((c.readScalars [sk]).1.getD 0 0).toNat
  slotRun g
    (fun s =>
      let a := addr s.curCore
      if !vaultRangeOk a 1 || vaultOffset a % 8 ≠ 0 then [.illegal]
      else if s.curCore.brsTaken neg fault a then transferChecks s else [])
    (fun s => s.onCur fun c =>
      let c' := (c.readScalars [sk]).2
      if c.brsTaken neg fault (addr c) then c'.transfer target true else c') s

/-- call (15 R265): pushes the address after its second delay bundle (09 R151). -/
def execCall (g : Guard) (target : Nat) (s : State) : Out :=
  slotRun g (fun s => transferChecks s ++ check (8 ≤ s.curCore.rets.length) .stack)
    (fun s => s.onCur fun c => { c with rets := c.after (c.after c.npc) :: c.rets }.transfer target false) s

/-- ret (15 R265). -/
def execRet (g : Guard) (s : State) : Out :=
  slotRun g (fun s => transferChecks s ++ check s.curCore.rets.isEmpty .stack)
    (fun s => s.onCur fun c => { c with rets := c.rets.tail }.transfer (c.rets.headD 0) true) s

/-! Levels (15 R267 to R272). -/

/-- The count of a loop or rep: the immediate or the scalar's value, and the core after the read. -/
def countOf (imm : Bool) (n : Nat) (c : Core) : Nat × Core :=
  if imm then (n, c) else (((c.readScalars [n]).1.getD 0 0).toNat, (c.readScalars [n]).2)

/-- loop (15 R267). -/
def execLoop (g : Guard) (imm : Bool) (n last : Nat) (s : State) : Out :=
  slotRun g
    (fun s =>
      let c := s.curCore
      let count := (countOf imm n c).1
      let beyond := match c.inner with
        | some l => l.last < last
        | none => false
      check (2 ^ 32 ≤ count || last ≤ c.pc || beyond) .illegal ++ check (count ≠ 0 && 6 ≤ c.loops.length) .stack)
    (fun s => s.onCur fun c =>
      let (count, c) := countOf imm n c
      if count = 0 then { c with npc := c.after last }
      else { c with loops := ⟨c.npc, last, count - 1, 0, none⟩ :: c.loops }) s

/-- A delta table (15 R270): stages and deltas, or none if it is malformed. -/
def Core.deltaTable (c : Core) (a : Nat) : Option (Nat × List (Nat × Word)) :=
  let h := c.half a
  let d := h % 16
  let row (i : Nat) : Nat × Word := (c.half (a + 1 + 3 * i), sextNat 32 (c.literal (a + 2 + 3 * i)))
  let rows := (List.range d).map row
  if h / 2048 = 0 && h / 16 % 16 = 0 && d ≤ 8 && a + 1 + 3 * d ≤ c.codeLen
      && rows.all (fun r => 1 ≤ r.1 && r.1 < 64) && (rows.map (fun r => r.1)).Nodup then
    some (h / 256 % 8 + 1, rows)
  else none

/-- spool (15 R269, R270). -/
def execSpool (g : Guard) (sk bm1 table : Nat) (s : State) : Out :=
  let count (c : Core) : Nat := ((c.readScalars [sk]).1.getD 0 0).toNat
  slotRun g
    (fun s =>
      let c := s.curCore
      check (2 ^ 32 ≤ count c || (c.deltaTable table).isNone || c.codeLen < (c.body c.npc (bm1 + 1)).2) .illegal
        ++ check (count c ≠ 0 && 6 ≤ c.loops.length) .stack)
    (fun s => s.onCur fun c =>
      let n := count c
      let c := (c.readScalars [sk]).2
      let (last, next) := c.body c.npc (bm1 + 1)
      match c.deltaTable table with
      | some (stages, deltas) =>
        if n = 0 then { c with npc := next }
        else { c with loops := ⟨c.npc, last, n + stages - 2, 0, some ⟨n, stages, deltas, true⟩⟩ :: c.loops }
      | none => c) s

/-- rep (15 R272). -/
def execRep (g : Guard) (imm : Bool) (n : Nat) (s : State) : Out :=
  slotRun g (fun s => check (2 ^ 32 ≤ (countOf imm n s.curCore).1) .illegal)
    (fun s => s.onCur fun c =>
      let (count, c) := countOf imm n c
      if count = 0 then { c with npc := c.after c.npc } else { c with rep := some (c.npc, count) }) s

/-! Rendezvous, size classes and sync flags (09 R158 to R160, 15 R273 to R275). -/

/-- The round of a launch and group that is still open. -/
def State.openRound (s : State) (launch group : Nat) : Option Round :=
  s.rounds.find? fun r => r.launch == launch && r.group == group && !r.closed

/-- A core arrives at a round; the last arrival closes it, and its members issue again 40 chip cycles later (09 R158). -/
def State.arrive (s : State) (launch group n core : Nat) (v : Word) : State :=
  let r : Round := match s.openRound launch group with
    | some r => { r with arrived := r.arrived ++ [(core, v)] }
    | none => ⟨launch, group, n, [(core, v)], false, none⟩
  let full := r.n ≤ r.arrived.length
  let others := s.rounds.filter fun q => !(q.launch == launch && q.group == group && !q.closed)
  let s := { s with rounds := others ++ [{ r with closed := full }] }
  if full then s.plan (s.chip + 40) (.rdvRoundRelease launch group) else s

/-- rdv (15 R273): FENCE_E on a pending poison error, ILLEGAL for a different n. -/
def execRdv (g : Guard) (sv sd nm1 group : Nat) (s : State) : Out :=
  slotRun g
    (fun s =>
      let mismatch := match s.openRound (s.curCore.launch.getD 0) group with
        | some r => r.n ≠ nm1 + 1
        | none => false
      check mismatch .illegal ++ check s.curCore.poison.isSome .fenceE)
    (fun s =>
      let c := s.curCore
      let v := (c.readScalars [sv]).1.getD 0 0
      let s := s.onCur fun c =>
        let c := (c.readScalars [sv]).2
        { c with rdvWait := some ⟨group, sd, none⟩, holds := c.holds ++ [⟨5, group, c.sched, 0⟩] }
      s.arrive (c.launch.getD 0) group (nm1 + 1) s.cur v) s

/-- A variant table (09 R160): bounds and entries, or none if it is malformed. -/
def Core.variants (c : Core) (a : Nat) : Option (List (Nat × Nat)) :=
  let h := c.half a
  let n := h % 16
  let row (i : Nat) : Nat × Nat :=
    (c.half (a + 1 + 4 * i) + c.half (a + 2 + 4 * i) * 2 ^ 16 + c.half (a + 3 + 4 * i) * 2 ^ 32,
      c.half (a + 4 + 4 * i))
  let rows := (List.range n).map row
  let bounds := rows.map fun r => r.1
  if h / 16 = 0 && 1 ≤ n && n ≤ 8 && (bounds.zip bounds.tail).all (fun p => p.1 < p.2)
      && rows.all (fun r => r.2 < c.codeLen) then some rows else none

/-- The variant that the delivered value selects (09 R160). -/
def selectVariant (v : Nat) (rows : List (Nat × Nat)) : Option Nat := (rows.find? fun r => v ≤ r.1).map fun r => r.2

/-- selv (09 R160, 15 R273): legal only in the bundle after an RDV bundle. -/
def execSelv (g : Guard) (table : Nat) (s : State) : Out :=
  slotRun g
    (fun s =>
      let c := s.curCore
      match c.rdvVal, c.variants table with
      | some v, some rows => if (selectVariant v.toNat rows).isSome then transferChecks s else []
      | _, _ => [.illegal])
    (fun s => s.onCur fun c =>
      match c.rdvVal, c.variants table with
      | some v, some rows =>
        match selectVariant v.toNat rows with
        | some t => c.transfer t false
        | none => c
      | _, _ => c) s

/-- The offset at which a flag write performs (15 R274): fixed within the cluster, a free moment of its window beyond. -/
def State.setfOffset (s : State) (target : Nat) : Nat × State :=
  if target = s.cur then (1, s)
  else if target / 4 = s.cur / 4 then (9, s)
  else if target / 64 = s.cur / 64 then let (d, s) := s.drawBelow 21; (12 + d, s)
  else let (d, s) := s.drawBelow 121; (40 + d, s)

/-- setf (15 R274): held after an unperformed REL (11 R199). -/
def execSetf (g : Guard) (val : Bool) (core flag : Nat) (s : State) : Out :=
  slotRun g
    (fun s =>
      check (!s.holdsCore s.cur core) .illegal
        ++ check (!s.curCore.rels.isEmpty && 64 ≤ s.curCore.held.length) .timing)
    (fun s =>
      let (d, s) := s.setfOffset core
      s.onCur fun c =>
        if c.rels.isEmpty then c.push d srcC (.land (.flag core flag val))
        else { c with held := c.held ++ [⟨c.seq, s.chip + d, false, .flag core flag val⟩], seq := c.seq + 1 }) s

/-- waitf (15 R275): samples on the issue chip cycle, and otherwise freezes the core from issue+1. -/
def execWaitf (g : Guard) (val : Bool) (flag : Nat) (s : State) : Out :=
  slotRun g noChecks
    (fun s => s.onCur fun c =>
      if c.flags.getLsbD flag = val then c
      else { c with flagWait := some ⟨flag, val, none⟩, holds := c.holds ++ [⟨4, flag, c.sched, 0⟩] }) s

/-! Points, ordering and fences (15 R276, R277). -/

/-- ppt (15 R276). -/
def execPpt (g : Guard) (s : State) : Out :=
  slotRun g noChecks (fun s => s.onCur fun c => { c with atPoint := true }) s

/-- ppt.scan (15 R276). -/
def execPptScan (g : Guard) (s : State) : Out :=
  slotRun g noChecks (fun s => s.onCur fun c => { c with atPoint := true, atScan := true }) s

/-- The acknowledged operations of a core that have neither performed nor ended (11 R198). -/
def Core.openAcks (c : Core) : List Nat :=
  (c.globals.filter fun a => a.acked && !a.performed).map (fun a => a.id)
    ++ (c.engines.filter fun e => 4 ≤ e.block && !e.ended || e.op = 6 && !e.ended).map fun e => e.id

/-- A REL issues: it waits for every acknowledged operation issued before it, and performs at once if there is none
(11 R199). -/
def Core.release (c : Core) (sys : Bool) : Core :=
  if c.openAcks.isEmpty then c else { c with rels := c.rels ++ [⟨sys, c.openAcks, c.seq⟩], seq := c.seq + 1 }

/-- rel.pkg (15 R276). -/
def execRelPkg (g : Guard) (s : State) : Out := slotRun g noChecks (fun s => s.onCur fun c => c.release false) s

/-- rel.sys (15 R276). -/
def execRelSys (g : Guard) (s : State) : Out := slotRun g noChecks (fun s => s.onCur fun c => c.release true) s

/-- An M-slot load, atomic or CHKS re-load of the core has issued and not landed; stores and the engines' accesses are not
awaited (15 R277). -/
def Core.loadsOpen (c : Core) : Bool :=
  c.items.any (fun i => match i.act with
    | .sample .. | .atomic .. => true
    | .globalLand _ => c.counts i
    | .land _ => i.src == 2 || i.src == 3
    | _ => false)

/-- fence.e (15 R277): while an earlier load has not landed the bundle is held; then its guard is read as any other slot's
(09 R153), and a pending poison error is FENCE_E whatever the guard; there is no further effect. -/
def execFenceE (g : Guard) (s : State) : Out :=
  if s.curCore.loadsOpen then .next (s.onCur fun c => { c with npc := c.pc })
  else if (s.curCore.guard g).isNone then .next (s.trapHere .nonuniform)
  else if s.curCore.poison.isSome then .next (s.trapHere .fenceE)
  else .next s

/-- rfence (15 R276, 11 R205): the records are dropped at issue+1. -/
def execRfence (g : Guard) (s : State) : Out :=
  slotRun g noChecks (fun s => s.onCur fun c => c.push 1 srcC (.land .dropRecs)) s

/-! Control registers (15 R278). -/

/-- movc: the scalar is read at issue and the register lands at issue+2. -/
def execMovc (g : Guard) (ss reg : Nat) (s : State) : Out :=
  slotRun g noChecks (fun s => s.onCur fun c =>
    let (vs, c) := c.readScalars [ss]
    c.push 2 srcC (.land (.ctrl reg (vs.getD 0 0)))) s

/-- The value an rdc reads (10 R188, R189): every listed register, 0 for an unlisted one. -/
def State.readCtl (s : State) (n reg : Nat) : Word :=
  let c := s.core n
  if reg = 5 then
    BitVec.ofNat 64 (c.ctl 5 + c.corQ.length * 2 ^ 16 + c.engQ.length * 2 ^ 24)
  else if reg = 8 then BitVec.ofNat 64 c.schedcyc
  else if reg = 9 then BitVec.ofNat 64 c.lag
  else if reg = 10 then BitVec.ofNat 64 c.allow
  else if reg = 11 then BitVec.ofNat 64 c.slack
  else if reg = 12 then BitVec.ofNat 64 s.chip
  else if reg = 13 then BitVec.ofNat 64 (n % 256)
  else if reg = 14 then BitVec.ofNat 64 c.ackc
  else if reg = 15 then BitVec.ofNat 64 c.corrcnt
  else if reg = 16 then BitVec.ofNat 64 c.trappc
  else if reg = 17 then BitVec.ofNat 64 c.trapcause
  else Store.read c.ctrl reg

/-- rdc: the register is read at issue and the scalar lands at issue+1. -/
def execRdc (g : Guard) (sd reg : Nat) (s : State) : Out :=
  slotRun g noChecks
    (fun s => s.onCur fun c => c.push 1 srcC (.land (.scalar sd (s.readCtl s.cur reg)))) s

/-! Break, return and halt (15 R279). -/

/-- brk: BREAK before the bundle, unless RESUME or STEP suppresses it for this issue. -/
def execBrk (g : Guard) (s : State) : Out :=
  slotRun g (fun s => check (!s.curCore.brkSkip) .break) (fun s => s) s

/-- The global loads of the M slots that were in flight are issued again on the first cycle after the return, and sample anew (09
R166); what an engine has read stays in it (19 R336). One whose bytes a later write of its own core has changed meanwhile keeps its
sample, since no load returns a later store's value. -/
def Core.reissueGlobals (c : Core) : Core :=
  let again (a : GlobalAcc) : GlobalAcc :=
    { a with data := none, arrived := none, poison := [], opened := false, performed := false }
  let ids := (c.globals.filter fun a => match a.kind with
    | .load .. => a.cmd.isNone && (a.arrived.isSome || a.opened) && !a.keep
    | _ => false).map fun a => a.id
  { c with
    globals := c.globals.map fun a => if ids.contains a.id then again a else a,
    items := c.items ++ ids.map fun id => ⟨c.sched, 0, c.sched, c.seq, .openGlobal id⟩ }

/-- Something that a handler started is in flight: a result, a beat of its own, or an engine's timed work (15 R279,
19 R336). -/
def Core.handlerOpen (c : Core) : Bool :=
  let held := match c.record with
    | some r => r.arrayHeld
    | none => false
  !c.items.isEmpty || (!held && c.arrayBusy)
    || c.engines.any fun e => e.handler && ((e.block < 4 && e.op != 6) || !e.streamDone)

/-- The engines stand again where they stood: a unit that faulted is read again (19 R335). -/
def Core.retryEngines (c : Core) : Core :=
  let again (e : EngCmd) : EngCmd := if e.block < 4 && e.op ≠ 6 then { e with fault := none } else e
  if c.causes.any fun k => k.cls = .translation || k.cls = .protection then c
  else { c with engines := c.engines.map again }

/-- The wait of a core for a round ends: LAG, the value for its destination and for SELV (09 R158, R160). -/
def Core.endRdv (c : Core) (dst lag : Nat) (v : Word) : Core :=
  { c with
    rdvWait := none, holds := c.holds.filter (fun h => h.cause != 5), lag := lag, rdvVal := some v,
    items := c.items ++ [⟨c.sched, srcC, c.sched, c.seq, .land (.scalar dst v)⟩], seq := c.seq + 1 }

/-- A core goes on at chip cycle t after a stop: a flag wait samples anew, and a round that was released while the core stood at
the tellers ends its rendezvous wait with LAG counted from its common cycle (09 R161). -/
def Core.reenter (c : Core) (t : Nat) : Core :=
  let c := match c.flagWait with
    | some w => { c with flagWait := some { w with resume := if c.flags.getLsbD w.flag = w.val then some (t + 2) else none } }
    | none => c
  match c.rdvWait with
  | some ⟨_, dst, some (t0, v)⟩ => c.endRdv dst (t - t0) v
  | _ => c

/-- eret: legal only in a handler with no result of the handler in flight; the bundle rules of 15 R279 are checked with the
bundle. -/
def execEret (g : Guard) (s : State) : Out :=
  slotRun g (fun s => check (!s.curCore.handler || s.curCore.handlerOpen) .illegal)
    (fun s =>
      let chip := s.chip
      s.onCur fun c => c.eret.retryEngines.reissueGlobals.reenter chip) s

/-- halt: ends issue after its bundle; FENCE_E on a pending poison error, ILLEGAL in a handler. -/
def execHalt (g : Guard) (s : State) : Out :=
  slotRun g (fun s => check s.curCore.handler .illegal ++ check s.curCore.poison.isSome .fenceE)
    (fun s => s.onCur fun c => { c with mode := .halted, loops := [], rets := [], haltSched := some c.sched }) s

/-- NOP (14 R247). -/
def execNop (s : State) : Out := .next s

end Sys2Proof.Machine
end

