-- ==== Sys2Proof/Machine/Translate.lean ====
section
/-! DEFINITION. Device page tables, TLBs and page heat (03 R47, R51 to R64). -/

namespace Sys2Proof.Machine

/-! Page-table entries (03 R52). -/

def pteFmt (e : Nat) : Nat := bits e 52 5
def ptePa (e : Nat) : Nat := bits e 12 40 * 4096
def pteGeom (e : Nat) : Nat := bits e 9 3
def pteLoc (e : Nat) : Nat := bits e 7 2
def ptePeer (e : Nat) : Bool := bit e 6
def pteWb (e : Nat) : Bool := bit e 5
def pteHeat (e : Nat) : Bool := bit e 4
def pteSz64 (e : Nat) : Bool := bit e 3
def pteLeaf (e : Nat) : Bool := bit e 2
def pteWrite (e : Nat) : Bool := bit e 1
def ptePres (e : Nat) : Bool := bit e 0

/-- A physical address lies in its space (03 R55): HBM4 39 bits, second tier 42 bits, host 52 bits. -/
def paInSpace (loc pa : Nat) : Bool :=
  if loc = 0 then pa < 2 ^ 39 else if loc = 2 then pa < 2 ^ 42 else loc = 1 && pa < 2 ^ 52

/-- A leaf entry for a page of 2^size bytes is malformed (03 R55); group: it is the group entry of a level-0 walk. -/
def leafBad (e size : Nat) (group : Bool) : Bool :=
  bits e 57 7 ≠ 0 || 0x16 ≤ pteFmt e || pteGeom e = 7 || (pteFmt e = 0 && pteGeom e ≠ 0) || pteLoc e = 3
    || ptePa e % 2 ^ size ≠ 0 || !paInSpace (pteLoc e) (ptePa e) || !pteLeaf e
    || (16 < size && pteSz64 e) || (size = 12 && !group && pteSz64 e)
    || (pteGeom e ≠ 0 && 2 ^ size < tileBytes (pteFmt e) (pteGeom e))

/-- A table entry is malformed: a bit other than PRES and PA is set, or PA lies outside HBM4 (03 R52, R55). -/
def tableBad (e : Nat) : Bool := e ≠ ptePa e + 1 || 2 ^ 39 ≤ ptePa e

/-! Memory outside the cores. -/

/-- A 64-byte line is poisoned. -/
def poisonedIn (lines : List Nat) (a n : Nat) : List Nat :=
  ((List.range ((a + n + 63) / 64 - a / 64)).map fun i => a / 64 + i).filter fun l => lines.contains l

/-- The bytes of a space: 0 HBM4, 1 host, 2 second tier (03 R52). -/
def Mem.space (m : Mem) (loc : Nat) : Store 8 := if loc = 0 then m.hbm else if loc = 1 then m.host else m.tier

/-- The poisoned lines of a space. -/
def Mem.poison (m : Mem) (loc : Nat) : List Nat :=
  if loc = 0 then m.hbmPoison else if loc = 1 then m.hostPoison else m.tierPoison

/-- The canonical form of the memory: each space lists rising addresses and no byte that reads as an unlisted one (log 2). -/
def Mem.wf (m : Mem) : Bool := Store.wf m.hbm && Store.wf m.tier && Store.wf m.host

/-- The numbers of the 64-byte lines under n bytes from address a. -/
def linesUnder (a n : Nat) : List Nat := (List.range ((a + n + 63) / 64 - a / 64)).map fun i => a / 64 + i

/-- The lines that a write of n bytes leaves dirty in L2 with a tag, beside those that were (07 R122). -/
def Mem.soil (m : Mem) (tag a n : Nat) : List (Nat × L2Line) :=
  (linesUnder a n).foldl (fun xs l =>
    let old := m.l2.find? fun x => x.1 = l
    setAt xs l (match old with
      | some x => { x.2 with tag := tag }
      | none => ⟨tag, Store.num m.hbm (64 * l) 64, m.hbmPoison.contains l⟩)) m.l2

/-- Writes bytes to a space for the owner of a tag; a write of a whole line clears its poison (07 R124). -/
def Mem.writeAs (m : Mem) (tag loc a : Nat) (data : List Byte) : Mem :=
  let keep (ls : List Nat) : List Nat := ls.filter fun l => !(a ≤ 64 * l && 64 * l + 64 ≤ a + data.length)
  if loc = 0 then
    { m with hbm := Store.put m.hbm a data, hbmPoison := keep m.hbmPoison, l2 := m.soil tag a data.length }
  else if loc = 1 then { m with host := Store.put m.host a data, hostPoison := keep m.hostPoison }
  else { m with tier := Store.put m.tier a data, tierPoison := keep m.tierPoison }

/-- A write that no launch makes. -/
def Mem.write (m : Mem) (loc a : Nat) (data : List Byte) : Mem := m.writeAs 0 loc a data

/-- The lines of a range are no longer in L2: what is written goes to HBM4 itself. -/
def Mem.leaveL2 (m : Mem) (a n : Nat) : Mem :=
  { m with l2 := m.l2.filter fun x => 64 * x.1 + 64 ≤ a || a + n ≤ 64 * x.1 }

/-- Marks a line poisoned. -/
def Mem.mark (m : Mem) (loc line : Nat) : Mem :=
  let add (ls : List Nat) : List Nat := if ls.contains line then ls else line :: ls
  if loc = 0 then { m with hbmPoison := add m.hbmPoison }
  else if loc = 1 then { m with hostPoison := add m.hostPoison }
  else { m with tierPoison := add m.tierPoison }

/-- The little-endian value of n bytes of a space, the bytes of poisoned lines read as 0 (07 R125), and the poisoned
lines. -/
def Mem.readNum (m : Mem) (loc a n : Nat) : Nat × List Nat :=
  let bad := poisonedIn (m.poison loc) a n
  let good := if bad.isEmpty then m.space loc else (m.space loc).filter fun c => !bad.contains (c.1 / 64)
  (Store.num good a n, bad)

/-- Writes bytes to a space of the package for a launch. -/
def State.writeFor (s : State) (id : Option Nat) (loc a : Nat) (data : List Byte) : State :=
  { s with mem := s.mem.writeAs (s.ownerTag id) loc a data }

/-- Writes bytes to a space of the package for no launch. -/
def State.writeMem (s : State) (loc a : Nat) (data : List Byte) : State := { s with mem := s.mem.write loc a data }

/-! Walks (03 R51). -/

/-- A translation: the leaf entry, the address of the entry and log2 of the page size. -/
structure Leaf where
  pte : Nat
  addr : Nat
  size : Nat
  deriving DecidableEq, Repr

/-- One entry of a table; none when it is poisoned (PTE_ERROR). -/
def Mem.entry (m : Mem) (a : Nat) : Option Nat :=
  if (poisonedIn m.hbmPoison a 8).isEmpty then some (Store.num m.hbm a 8) else none

/-- A leaf entry read at its address, as a page of 2^size bytes. -/
def leafAt (e a size : Nat) (group : Bool) : Except Nat Leaf :=
  if !ptePres e then .error 1 else if leafBad e size group then .error 3 else .ok ⟨e, a, size⟩

/-- The level-0 step: the group entry first, then the 4 KiB entry (03 R51). -/
def Mem.walk0 (m : Mem) (table va : Nat) : Except Nat Leaf :=
  let ga := table + 8 * (bits va 16 5 * 16)
  match m.entry ga with
  | none => .error 4
  | some ge =>
    if ptePres ge && pteSz64 ge then leafAt ge ga 16 true
    else
      let a := table + 8 * bits va 12 9
      match m.entry a with
      | none => .error 4
      | some e => leafAt e a 12 (bits va 12 4 = 0)

/-- A walk from a table of a level down (03 R51), in which cached may give the table entry of a level; the error is a cause of
03 R57. -/
def Mem.walkAt (m : Mem) (cached : Nat → Option Nat) (level table va : Nat) : Except Nat Leaf :=
  match level with
  | 0 => m.walk0 table va
  | k + 1 =>
    let a := table + 8 * bits va (12 + 9 * (k + 1)) 9
    match (match cached (k + 1) with | some e => some e | none => m.entry a) with
    | none => .error 4
    | some e =>
      if !ptePres e then .error 1
      else if pteLeaf e then
        if k ≤ 1 then leafAt e a (12 + 9 * (k + 1)) true else .error 3
      else if tableBad e then .error 3
      else m.walkAt cached k (ptePa e) va

/-- The translation of a 64-bit address under a root (03 R51, R56), with what a walker cache gives. -/
def Mem.walkVia (m : Mem) (cached : Nat → Option Nat) (root va : Nat) : Except Nat Leaf :=
  if 2 ^ 57 ≤ va then .error 2
  else if bits root 12 40 = 0 && root = 0 then .error 1
  else m.walkAt cached 4 (bits root 12 40 * 4096) va

/-- The translation that the tables themselves give. DESIGN CHOICE (log 8): a root's table outside HBM4 reads as zeros, so that the
cause is NOT_PRESENT; the manual names none for it. -/
def Mem.walk (m : Mem) (root va : Nat) : Except Nat Leaf := m.walkVia (fun _ => none) root va

/-- The table entries that a walk reads from a table of a level down, by their levels. -/
def Mem.tablesAt (m : Mem) (cached : Nat → Option Nat) (level table va : Nat) : List (Nat × Nat) :=
  match level with
  | 0 => []
  | k + 1 =>
    match (match cached (k + 1) with | some e => some e | none => m.entry (table + 8 * bits va (12 + 9 * (k + 1)) 9)) with
    | none => []
    | some e =>
      if ptePres e && !pteLeaf e && !tableBad e then (k + 1, e) :: m.tablesAt cached k (ptePa e) va else []

/-- The physical address of va under a leaf. -/
def Leaf.pa (l : Leaf) (va : Nat) : Nat := ptePa l.pte + va % 2 ^ l.size

/-- A translation with its permission checks (03 R57): writes need WRITE; an M slot needs LOC 00. -/
def permCause (pte : Nat) (write mslot : Bool) : Nat :=
  if write && !pteWrite pte then 5 else if mslot && pteLoc pte ≠ 0 then 6 else 0

/-- The home die of an HBM4 address (03 R47). -/
def homeDie (pa : Nat) : Nat := bits pa 37 2

/-! The core TLB (03 R58). -/

/-- The TLB entry that translates va in a context. -/
def Core.tlbFind (c : Core) (ctx va : Nat) : Option TlbEntry :=
  c.tlb.find? fun e => e.ctx == ctx && e.vpage == va / 2 ^ e.size

/-- Fills the TLB; the oldest of 64 entries gives way (log 8). -/
def Core.tlbFill (c : Core) (ctx va : Nat) (l : Leaf) : Core :=
  { c with tlb := (⟨ctx, va / 2 ^ l.size, l.size, l.pte⟩ :: c.tlb).take 64 }

/-- The entry of a die's TLB that translates va in a context (03 R58). -/
def Xlate.dieFind (x : Xlate) (die ctx va : Nat) : Option TlbEntry :=
  (x.dieTlb.find? fun p => p.1 == die && p.2.ctx == ctx && p.2.vpage == va / 2 ^ p.2.size).map fun p => p.2

/-- Fills a die's TLB; the oldest of its 4096 entries gives way (log 8). -/
def Xlate.dieFill (x : Xlate) (die ctx va pte size : Nat) : Xlate :=
  let mine := x.dieTlb.filter fun p => p.1 = die
  let rest := x.dieTlb.filter fun p => p.1 ≠ die
  { x with dieTlb := (die, ⟨ctx, va / 2 ^ size, size, pte⟩) :: mine.take 4095 ++ rest }

/-- The bits of an address that select its table entry of a level. -/
def walkPrefix (level va : Nat) : Nat := va / 2 ^ (12 + 9 * level)

/-- The table entry of a level that the walker cache holds for va in a context (03 R58). -/
def Xlate.cachedEntry (x : Xlate) (ctx va level : Nat) : Option Nat :=
  (x.walkCache.find? fun w => w.ctx = ctx && w.level = level && w.prefix_ = walkPrefix level va).map fun w => w.entry

/-- The walker cache takes the table entries of a walk. -/
def Xlate.cacheTables (x : Xlate) (ctx va : Nat) (es : List (Nat × Nat)) : Xlate :=
  let new := es.map fun e => (⟨ctx, e.1, walkPrefix e.1 va, e.2⟩ : WalkEntry)
  let same (a b : WalkEntry) : Bool := a.ctx = b.ctx && a.level = b.level && a.prefix_ = b.prefix_
  { x with walkCache := new ++ x.walkCache.filter fun w => !new.any (same w) }

/-- A walk by the walkers of the dies (03 R58): of each table entry in the walker cache it is free whether the walk still finds it
there (log 8). -/
def State.walkerWalk (s : State) (root va : Nat) : Except Nat Leaf × State :=
  let (d, s) := s.draw
  let cached (level : Nat) : Option Nat :=
    if d.testBit level then s.xlate.cachedEntry (root % 4096) va level else none
  let es := if va < 2 ^ 57 then s.mem.tablesAt cached 4 (bits root 12 40 * 4096) va else []
  (s.mem.walkVia cached root va, { s with xlate := s.xlate.cacheTables (root % 4096) va es })

/-! Page heat (03 R62, R63). -/

/-- The threshold, 0 treated as 1 (03 R64). -/
def Xlate.heatThr (x : Xlate) : Nat := let t := bits x.heatCfg.toNat 0 16; if t = 0 then 1 else t

/-- A size code of a heat notification (03 R63). -/
def sizeCode (size : Nat) : Nat := if size = 12 then 0 else if size = 16 then 1 else if size = 21 then 2 else 3

/-- A heat notification (03 R63). -/
def heatNote (chip count loc size ctx va : Nat) : RingEntry :=
  BitVec.ofNat 128 (chip % 2 ^ 32 * 2 ^ 96 + count * 2 ^ 80 + loc * 2 ^ 78 + sizeCode size * 2 ^ 76 + ctx * 2 ^ 64 + va)

/-- Saturating 16-bit count. -/
def sat16 (n : Nat) : Nat := min n 0xFFFF

/-- The entry that a full heat table replaces: lowest count, then oldest (03 R62). -/
def heatVictim (hs : List HeatEntry) : Option HeatEntry :=
  hs.foldl (fun b h => match b with
    | none => some h
    | some v => if h.count < v.count || (h.count = v.count && h.age < v.age) then some h else some v) none

/-- A notification joins the ring of 1024 entries, or is dropped (03 R63). -/
def Xlate.notify (x : Xlate) (e : RingEntry) : Xlate :=
  if x.heatRing.length < 1024 then { x with heatRing := x.heatRing ++ [e] } else { x with drop := sat16 (x.drop + 1) }

/-- Counts lines touched on a page (03 R62): allocation, replacement, saturation, one notification at the crossing. -/
def Xlate.touch (x : Xlate) (chip ctx base size loc lines : Nat) : Xlate :=
  let key (h : HeatEntry) : Bool := h.ctx == ctx && h.base == base && h.size == size
  let old := match x.heat.find? key with
    | some h => h.count
    | none => 0
  let known := x.heat.any key
  let x := if known then x
    else
      let fresh : HeatEntry := ⟨ctx, base, size, loc, 0, false, x.heatAge⟩
      if x.heat.length < 65536 then { x with heat := x.heat ++ [fresh], heatAge := x.heatAge + 1 }
      else match heatVictim x.heat with
        | some v => { x with
            heat := x.heat.filter (· != v) ++ [fresh], heatAge := x.heatAge + 1, evict := sat16 (x.evict + 1) }
        | none => x
  let count := sat16 (old + lines)
  let told := x.heat.any fun h => key h && h.notified
  let cross := !told && old < x.thr && x.thr ≤ count
  let bump (h : HeatEntry) : HeatEntry :=
    if key h then { h with count := count, loc := loc, notified := h.notified || cross } else h
  let x := { x with heat := x.heat.map bump }
  if cross then x.notify (heatNote chip count loc size ctx base) else x

/-- Lines of n bytes at an address. -/
def linesOf (a n : Nat) : Nat := (a + n + 63) / 64 - a / 64

/-- Counts an access to a page whose PTE has HEAT (03 R62): its lines are added at the end of the chip cycle with all others. -/
def State.heatTouch (s : State) (ctx va size pte n : Nat) : State :=
  if pteHeat pte then
    { s with xlate := { s.xlate with
      touches := s.xlate.touches ++ [⟨ctx, va / 2 ^ size * 2 ^ size, size, pteLoc pte, linesOf va n⟩] } }
  else s

/-- The increments of a chip cycle that reach one counter are one (03 R62). -/
def joinTouch (ts : List Touch) (t : Touch) : List Touch :=
  let same (u : Touch) : Bool := u.ctx = t.ctx && u.base = t.base && u.size = t.size
  if ts.any same then ts.map fun u => if same u then { t with lines := u.lines + t.lines } else u else ts ++ [t]

/-- The order of the crossings of one chip cycle: page base, CTXID, page size (03 R63). -/
def Touch.before (a b : Touch) : Bool :=
  a.base < b.base || (a.base = b.base && (a.ctx < b.ctx || (a.ctx = b.ctx && a.size ≤ b.size)))

/-- The heat of a chip cycle is counted at its end, and a new threshold counts from the next one on (03 R62 to R64). A ring that
was empty raises a page-heat event (05 R87). -/
def State.flushHeat (s : State) : State :=
  let x := s.xlate
  let before := x.heatRing.length
  let ts := sortBy Touch.before (x.touches.foldl joinTouch [])
  let x := ts.foldl (fun (x : Xlate) t => x.touch s.chip t.ctx t.base t.size t.loc t.lines) x
  let s := { s with xlate := { x with touches := [], thr := x.heatThr } }
  if before = 0 && s.xlate.heatRing.length ≠ 0 then s.post .pageHeat else s

end Sys2Proof.Machine
end

