-- ==== Sys2Proof/Machine/Sketch.lean ====
section
/-! DEFINITION. The sketch counters (08 R139, R140). -/

namespace Sys2Proof.Machine

/-- The modulus 2^61 - 1 (08 R139). -/
def sketchP : Nat := 2 ^ 61 - 1

/-- The row hash h_j(x) (08 R139). -/
def sketchHash (seed j x : Nat) : Nat :=
  let s := seed % 2 ^ 61
  let a := 1 + (s + 2 * j) % (sketchP - 1)
  let b := (s + 2 * j + 1) % sketchP
  (a * x + b) % sketchP % 4096

/-- The key of a counter in the store: die, class, row, index. -/
def sketchKey (die cls row idx : Nat) : Nat := ((die * 8 + cls) * 4 + row) * 4096 + idx

/-- The key x of an event of core n (08 R139). -/
def State.sketchX (s : State) (n pc : Nat) : Nat :=
  if s.dbg.skctl.getLsbD 0 then
    match s.launchOf n with
    | some l => l.queue * 2 ^ 16 + l.head.tag
    | none => 0
  else n * 2 ^ 16 + pc

/-- Adds an event of weight w to its class on the core's die; nothing while SKCTL.FRZ is 1 (08 R139, R140). -/
def State.sketchAt (s : State) (n cls pc w : Nat) : State :=
  if s.dbg.skctl.getLsbD 15 then s
  else
    let x := s.sketchX n pc
    let add (m : Store 32) (j : Nat) : Store 32 :=
      let k := sketchKey (dieOf n) cls j (sketchHash s.dbg.seed.toNat j x)
      Store.write m k (BitVec.ofNat 32 (min ((Store.read m k).toNat + w) (2 ^ 32 - 1)))
    { s with dbg := { s.dbg with sketch := (List.range 4).foldl add s.dbg.sketch } }

/-- An event of the bundle at the core's PC. -/
def State.sketch (s : State) (n cls w : Nat) : State := s.sketchAt n cls (s.core n).pc w

/-- The estimate of a query (08 R140). -/
def State.sketchEst (s : State) (die cls x : Nat) : Nat :=
  let c (j : Nat) : Nat := (Store.read s.dbg.sketch (sketchKey die cls j (sketchHash s.dbg.seed.toNat j x))).toNat
  min (min (c 0) (c 1)) (min (c 2) (c 3))

end Sys2Proof.Machine
end

