-- ==== Sys2Proof/Machine/MSlot.lean ====
section
/-! DEFINITION. The M slots (16 R286 to R297) and the global accesses they start (11 R195 to R204, 03 R58, R66). -/

namespace Sys2Proof.Machine

/-! Commands of the engines (19 R330). -/

/-- A command of the acknowledged class. -/
def ackOp (op : Nat) : Bool := 6 ≤ op

/-- COUNT. -/
def EngCmd.n (e : EngCmd) : Nat := e.vc.toNat % 2 ^ 32

/-- What a command adds to ACKC at issue (19 R340, R345 to R348). -/
def ackCount (op n : Nat) : Nat :=
  if op = 9 || op = 0x0A then (n + 3839) / 3840 else if ackOp op then 1 else 0

/-- What a command still counts in ACKC: its packets less those acknowledged (19 R346). -/
def EngCmd.ackLeft (e : EngCmd) : Nat := ackCount e.op e.n - e.acked.length

/-- Changes an engine command of a core. -/
def Core.updEng (c : Core) (id : Nat) (f : EngCmd → EngCmd) : Core :=
  { c with engines := c.engines.map fun e => if e.id = id then f e else e }

/-- An engine command of a core. -/
def Core.eng? (c : Core) (id : Nat) : Option EngCmd := c.engines.find? fun e => e.id == id

/-! Faults of an access (09 R162, 16 R286). -/

/-- The class of a translation cause; cause 0 is a range or alignment fault (03 R57). -/
def faultClass (cause : Nat) : Trap := if 1 ≤ cause && cause ≤ 4 then .translation else .protection

/-- The completion mask of a bundle whose M slot faulted (09 R162). -/
def mDone (src : Nat) : Nat := if src = 2 then 0xDF else 0xEF

/-- A fault of the M slot src of core n, taken at issue+1. -/
def Core.mFault (c : Core) (src issued pc cause va : Nat) : Core :=
  { c with causes := c.causes ++ [⟨issued + 1, issued, faultClass cause, pc, mDone src, cause, va % 2 ^ 64⟩] }

/-- An address-table entry becomes invalid (11 R203). -/
def Core.killSpec (c : Core) (id : Nat) : Core :=
  { c with addrTab := c.addrTab.map fun e => if e.id = id then { e with valid := false } else e }

/-- A fault of a load: an LDS raises nothing and only loses its entry (16 R293). -/
def Core.loadFault (c : Core) (spec : Option Nat) (src issued pc cause va : Nat) : Core :=
  match spec with
  | some id => c.killSpec id
  | none => c.mFault src issued pc cause va

/-- A write or an atomic. -/
def GlobalKind.writes (k : GlobalKind) : Bool := match k with | .load .. | .probe => false | _ => true

/-- A store of any kind. -/
def GlobalKind.isStore (k : GlobalKind) : Bool :=
  match k with | .store _ | .storePlies .. | .storeTile .. => true | _ => false

/-- An atomic. -/
def GlobalKind.isAtomic (k : GlobalKind) : Bool := match k with | .atomic .. => true | _ => false

/-- The LDS that a load serves. -/
def GlobalKind.spec (k : GlobalKind) : Option Nat := match k with | .load _ _ sp => sp | _ => none

/-- The class of an engine's fault code, and its FCAUSE (19 R334, R335). -/
def engFaultClass (code : Nat) : Trap := if 0x11 ≤ code && code ≤ 0x14 then .translation else .protection
def engFaultCause (code : Nat) : Nat := if 0x11 ≤ code && code ≤ 0x16 then code - 0x10 else 0

/-- A fault of an engine command at the access of schedule cycle at_: a timed command traps at the boundary one cycle later and
stops at the unit (19 R335); an acknowledged one only keeps the fault for its status word. -/
def Core.engFaultAt (c : Core) (cmd code va at_ : Nat) : Core :=
  let timed := c.engines.find? fun e => e.id = cmd && e.block < 4 && e.op ≠ 6
  let c := { c with engines := c.engines.map fun (e : EngCmd) =>
    if e.id = cmd && e.fault.isNone then { e with fault := some (code, va) } else e }
  match timed with
  | some e =>
    { c with causes := c.causes ++
      [⟨at_ + 1, e.issued, engFaultClass code, c.pc, 0, engFaultCause code, va % 2 ^ 64⟩] }
  | none => c

/-- A fault of an engine command at an access of the present schedule cycle. -/
def Core.engFault (c : Core) (cmd code va : Nat) : Core := c.engFaultAt cmd code va c.sched

/-- The engine command as it stands when the access of a kind turns out to fault: a unit counts as read, and a store as issued, only
if it translates, so that it is issued again after the return (19 R335); an acknowledged command whose translation fails ends. -/
def EngCmd.turnAway (e : EngCmd) (a : GlobalAcc) (cause : Nat) : EngCmd :=
  match a.kind with
  | .load _ (.engine _ u _) _ =>
    if u + 1 = e.reads then
      { e with reads := u, streamDone := false, units := e.units.filter (fun x => x.idx ≠ u), places := e.places.filter fun p => p.1 ≠ u }
    else
      { e with redo := (0, u) :: e.redo, units := e.units.map fun x => if x.idx = u then { x with there := false } else x }
  | .store _ | .storePlies .. | .storeTile .. => { e with again := e.again ++ [(a.va, a.len, a.kind)] }
  | .probe => { e with failed := some (0x10 + cause, e.count, e.ackLeft) }
  | _ => e

/-- A fault of a global access: an engine's, or that of an M slot. -/
def Core.accessFault (c : Core) (a : GlobalAcc) (cause : Nat) : Core :=
  match a.cmd with
  | some cmd => (c.updEng cmd fun e => e.turnAway a cause).engFaultAt cmd (0x10 + cause) a.va a.issued
  | none => c.loadFault a.kind.spec a.src a.issued a.pc cause a.va

/-- Adds an item that is due at a given schedule cycle. -/
def Core.pushAt (c : Core) (due src issued : Nat) (a : Act) : Core :=
  { c with items := c.items ++ [⟨due, src, issued, c.seq, a⟩], seq := c.seq + 1 }

/-! Landing a load (16 R287, R290 to R292). -/

/-- What a loaded little-endian number writes; an engine's read writes no register. -/
def LoadTo.dest (into : LoadTo) (v : Nat) : Option Dest :=
  match into with
  | .plies start w => some (.plies start w (BitVec.allOnes 128) (splitLanes w v))
  | .nibbles start w off => some (.plies start w (BitVec.allOnes 128) (splitLanes w (v >>> (4 * off))))
  | .scalar r size sgn =>
    some (.scalar r (if sgn then sextNat (8 * size) v else BitVec.ofNat 64 (v % 2 ^ (8 * size))))
  | .codebook => some (.codebook ((List.range 256).map fun i => BitVec.ofNat 32 (v >>> (32 * i))))
  | .engine .. | .record .. => none

/-- The pending poison error keeps its first address (07 R125). -/
def Core.setPoison (c : Core) (pa : Nat) : Core := if c.poison.isSome then c else { c with poison := some pa }

/-! Global accesses. -/

/-- Changes a global access of a core. -/
def Core.updGlobal (c : Core) (id : Nat) (f : GlobalAcc → GlobalAcc) : Core :=
  { c with globals := c.globals.map fun a => if a.id = id then f a else a }

/-- A global access of a core. -/
def Core.global? (c : Core) (id : Nat) : Option GlobalAcc := c.globals.find? fun a => a.id == id

/-- The root of the context of a launch (03 R56). -/
def State.rootIn (s : State) (c : Core) : Nat :=
  match c.launch with
  | some id => ((s.launch? id).map fun l => l.root).getD 0
  | none => 0

/-- The root of the context that a core runs in. -/
def State.rootOf (s : State) (n : Nat) : Nat := s.rootIn (s.core n)

/-- An acknowledged operation of core n has ended: ACKC falls by k, and a REL that waited for it alone performs (11 R198,
R199); what it held leaves from the next chip cycle on. -/
def State.ackEnd (s : State) (n id k : Nat) : State :=
  let drop (r : Rel) : Rel := { r with waits := r.waits.filter (· != id) }
  let waits := (s.owner n id).rels.any fun r => r.waits == [id]
  let s := s.updOwner n id fun c => { c with ackc := c.ackc - k, rels := c.rels.map drop }
  if waits then s.plan (s.chip + 1) (.relPerform n) else s

/-- An acknowledged operation that counts one has performed or ended. -/
def State.ackDone (s : State) (n id : Nat) : State := s.ackEnd n id 1

/-- The migration whose page holds a virtual address of a context. -/
def Xlate.migOf (x : Xlate) (ctx va : Nat) : Option Migration :=
  x.migs.find? fun m => m.ctx == ctx && m.va == va / 2 ^ m.size * 2 ^ m.size

/-- The HDM lines of a range that the host holds (03 R48). -/
def Mem.heldLines (m : Mem) (a n : Nat) : List Nat := m.hostLines.filter fun l => a / 64 ≤ l && 64 * l < a + n

/-- Back-invalidate snoops for an access that meets lines the host holds; the access waits for the answers (03 R48). -/
def State.snoopFor (s : State) (n id pa len : Nat) : State :=
  (s.mem.heldLines pa len).foldl (fun s l =>
    let s := if s.mem.snoops.any fun h => h.line == l then s
      else (s.emit (.snoop l)).plan (s.chip + 10 * Config.msec) (.backInvalidateTimeout l)
    let since := ((s.mem.snoops.find? fun h => h.line == l).map fun h => h.since).getD s.chip
    { s with mem := { s.mem with snoops := s.mem.snoops ++ [⟨l, n, id, since⟩] } }) s

/-- The number under which an access of the Spindle or of a peer stands among the held accesses; it looks again by itself. -/
def noCore : Nat := 256

/-- Accesses of the Spindle or of a peer to ranges (LOC, address, length): the lines of them that the host holds are snooped, and they
wait (03 R48). -/
def State.snoopRanges (s : State) (rs : List (Nat × Nat × Nat)) : Option State :=
  let held (r : Nat × Nat × Nat) : List Nat := if r.1 = 0 then s.mem.heldLines r.2.1 r.2.2 else []
  let out (l : Nat) : Bool := s.mem.snoops.any fun h => h.line = l && h.core = noCore
  if rs.all fun r => (held r).isEmpty then none
  else some (rs.foldl (fun s r => if (held r).all out then s else s.snoopFor noCore 0 r.2.1 r.2.2) s)

/-- The event with which a translated access reaches its home slice. -/
def globalEvent (n : Nat) (a : GlobalAcc) : Instr :=
  match a.kind with
  | .load .. | .atomic .. => .globalResultArrive n a.id
  | _ => if a.acked then .remoteWritePerform n a.id else .globalStorePerform n a.id

/-- n plies from a nibble of a little-endian number are replaced. -/
def mergePlies (old nib n v : Nat) : Nat :=
  let lo := old % 2 ^ (4 * nib)
  lo + (v % 2 ^ (4 * n)) * 2 ^ (4 * nib) + old / 2 ^ (4 * (nib + n)) * 2 ^ (4 * (nib + n))

/-- The bytes that a store leaves where old stood: merged plies, or the tile with its sums regenerated (19 R344). -/
def GlobalKind.over (k : GlobalKind) (len old : Nat) : List Byte :=
  match k with
  | .store d => d
  | .storePlies nib n v => numBytes len (mergePlies old nib n v)
  | .storeTile fmt geom es =>
    numBytes len (regenTile [] fmt geom (es.foldl (fun t e => mergePlies t e.1 e.2.1 e.2.2) old))
  | _ => []

/-- The bytes that a store writes at an address of a space. -/
def Mem.storeBytes (m : Mem) (loc pa len : Nat) (k : GlobalKind) : List Byte := k.over len (Store.num (m.space loc) pa len)

/-- The memory as a load of a core sees it through the write-hold buffer (03 R66): the parked writes of the core that were issued
before access id, and those of its acknowledged commands, over their page at base. -/
def Mem.withParked (m : Mem) (ps : List Parked) (core id slot base : Nat) : Mem :=
  (ps.filter fun p => p.core = core && p.slot = slot && (p.engine || p.acc < id)).foldl (fun m p =>
    m.write 0 (base + p.off) (m.storeBytes 0 (base + p.off) p.len p.kind)) m

/-- Adds a hold of a core. -/
def Core.hold (c : Core) (cause detail issued id : Nat) : Core :=
  { c with holds := c.holds ++ [(⟨cause, detail, issued, id⟩ : Hold)] }

/-- A global access that counts in ACKC (11 R198). -/
def Core.acknowledge (c : Core) (id : Nat) : Core :=
  let c := c.updGlobal id fun a => { a with acked := true }
  { c with ackc := c.ackc + 1 }

/-- A global access that counts in ACKC from now on, if it does not already. -/
def Core.acknowledgeOnce (c : Core) (id : Nat) : Core :=
  if c.globals.any fun a => a.id == id && a.acked then c else c.acknowledge id

/-- Puts an operation behind the RELs of the core, in its place in the order of issue (11 R199). -/
def Core.holdAt (c : Core) (seq notBefore : Nat) (sys : Bool) (what : HeldWhat) : Core :=
  { c with held := (c.held.filter fun h => h.seq ≤ seq) ++ (⟨seq, notBefore, sys, what⟩ : HeldOp) ::
      c.held.filter fun h => seq < h.seq }

/-- Puts an operation that issues now behind the RELs of the core (11 R199). -/
def Core.holdBack (c : Core) (notBefore : Nat) (sys : Bool) (what : HeldWhat) : Core :=
  { c.holdAt c.seq notBefore sys what with seq := c.seq + 1 }

/-- The physical address of an LDS is known (11 R203). -/
def Core.specPa (c : Core) (spec : Option Nat) (pa : Nat) : Core :=
  match spec with
  | some sp => { c with addrTab := c.addrTab.map fun (e : AddrEntry) => if e.id = sp then { e with pa := some pa } else e }
  | none => c

/-- PARKED of a MIGSTAT word rises by k lines (03 R64). -/
def migstatParked (w : Word) (k : Nat) : Word :=
  BitVec.ofNat 64 (w.toNat % 2 ^ 48 + sat16 (w.toNat / 2 ^ 48 + k) * 2 ^ 48)

/-- The lines that the write-hold buffer of a die holds (03 R66). -/
def Xlate.parkedLines (x : Xlate) (die : Nat) : Nat :=
  (x.parked.filter fun p => p.die == die).foldl (fun k p => k + linesOf p.off p.len) 0

/-- Data joins the write-hold buffer of a die (03 R66). DESIGN CHOICE (log 35): PARKED rises by the 64-byte entries that it fills; the
manual does not say whether it counts them or whole writes. -/
def Xlate.park (x : Xlate) (p : Parked) : Xlate :=
  let k := linesOf p.off p.len
  { x with parked := x.parked ++ [p], migstat := x.migstat.mapIdx fun i (w : Word) => if i = p.slot then migstatParked w k else w }

/-- A write to a page under write-block joins its die's buffer of 256 lines at its place (03 R66), or freezes the core when it is
full. -/
def State.park (s : State) (n id : Nat) (a : GlobalAcc) (place : Nat × Nat) : State :=
  let die := dieOf n
  if 256 < s.xlate.parkedLines die + linesOf place.2 a.len then s.updOwner n id fun c => c.hold 6 die a.issued id
  else
    let s := { s with xlate := s.xlate.park ⟨die, n, id, false, place.1, place.2, a.len, a.kind, s.chip⟩ }
    s.updOwner n id fun c => (c.updGlobal id fun a => { a with parked := some place.1 }).acknowledgeOnce id

/-- Removes a global access of a core. -/
def Core.dropGlobal (c : Core) (id : Nat) : Core := { c with globals := c.globals.filter fun b => b.id != id }

/-- The slot under which a write to a page under write-block parks, and its offset there: the slot of the page's migration and the
offset in the page, or, for a page whose migration a reset has abandoned, slot 4, which nothing replays, and the physical address
(03 R66, R67). -/
def State.wbPlace (s : State) (ctx va pa size : Nat) : Nat × Nat :=
  match s.xlate.migOf ctx va with
  | some m => (m.slot, va % 2 ^ size)
  | none => (4, pa)

/-- A translated and permitted access of core n takes its course (11 R195 to R199, 03 R66): an atomic under write-block waits for
its end, a write is held after a REL, a store under write-block parks, a write homed off the die is acknowledged, and every
other access is timed. An LDS that reads by a stale entry of a page under write-block stands for the page's present place, where the
core's own stores go (11 R203, 03 R66). -/
def State.placeGlobal (s : State) (n id pte size : Nat) : State :=
  match (s.owner n id).global? id with
  | none => s
  | some a =>
      let c := s.owner n id
      let ctx := s.rootIn c % 4096
      let pa := ptePa pte + a.va % 2 ^ size
      let wb := pteWb pte
      let acked := a.kind.writes && (homeDie pa ≠ dieOf n || (wb && a.kind.isStore))
      let held := a.kind.writes && c.rels.any fun r => r.seq ≤ a.seq
      let chip := s.chip
      let now := match wb, s.mem.walk (s.rootIn c) a.va with
        | true, .ok l => l.pa a.va
        | _, _ => pa
      let s := s.updOwner n id fun c => (c.updGlobal id fun a => { a with pa := some pa, wb := wb, psize := size }).specPa a.kind.spec now
      if wb && a.kind.isAtomic then s.updOwner n id fun c => c.hold 8 (homeDie pa) a.issued id
      else if held then
        s.updOwner n id fun c =>
          let c := if acked then c.acknowledgeOnce id else c
          let c := if a.kind.isStore then c else c.pushAt a.landAt a.src a.issued (.globalLand id)
          (c.updGlobal id fun a => { a with held := true }).holdAt a.seq (chip + 4) false (.global id)
      else if wb && a.kind.isStore then s.park n id { a with pa := some pa } (s.wbPlace ctx a.va pa size)
      else
        s.updOwner n id fun c =>
          let c := if acked then c.acknowledgeOnce id else c
          let c := if a.kind.isStore && acked then c else c.pushAt a.landAt a.src a.issued (.globalLand id)
          c.pushAt (a.issued + 3) a.src a.issued (.openGlobal id)

/-- A translated access of core n goes on if its page permits it, and else takes the fault of 03 R57. -/
def State.permitGlobal (s : State) (n id pte : Nat) (go : GlobalAcc → State) : State :=
  match (s.owner n id).global? id with
  | none => s
  | some a =>
    let cause := permCause pte a.kind.writes true
    if cause ≠ 0 then
      (if a.acked then s.ackDone n id else s).updOwner n id fun c => (c.dropGlobal id).accessFault a cause
    else go a

/-- A translated access of core n goes on: its permission fault (03 R57), or its heat (03 R62) and its course. -/
def State.beginGlobal (s : State) (n id pte size : Nat) : State :=
  s.permitGlobal n id pte fun a =>
    (s.heatTouch (s.rootOf n % 4096) a.va size pte a.len).placeGlobal n id pte size

/-- An access that stood under a write-block takes its course again under the present entry of its page, whose permissions are
checked anew (03 R57, R66, R67). -/
def State.replaceGlobal (s : State) (n id : Nat) : State :=
  let c := s.owner n id
  match c.global? id with
  | none => s
  | some a =>
    match s.mem.walk (s.rootIn c) a.va with
    | .ok l => s.permitGlobal n id l.pte fun _ => s.placeGlobal n id l.pte l.size
    | .error k =>
      (if a.acked then s.ackDone n id else s).updOwner n id fun c => (c.dropGlobal id).accessFault a k

/-- The page that a walk of va under a root is for, as far as the tables tell: its root, number and log2 of its size. -/
def State.walkPage (s : State) (root va : Nat) : Nat × Nat × Nat :=
  match s.mem.walk root va with
  | .ok l => (root, va / 2 ^ l.size, l.size)
  | .error _ => (root, va / 4096, 12)

/-- The accesses of a die that walk, with their cores (03 R58). -/
def State.walkers (s : State) (die : Nat) : List (Nat × GlobalAcc) :=
  (s.cores.filter fun p => dieOf p.1 = die).flatMap fun p =>
    (p.2.holds.filter fun h => h.cause = 2).filterMap fun h =>
      ((p.2.global? h.id).filter fun a => !a.dieHit).map fun a => (p.1, a)

/-- The page walks in progress on a die: misses to one page share a walk (03 R58). -/
def State.walksOn (s : State) (die : Nat) : List (Nat × Nat × Nat) :=
  ((s.walkers die).map fun p => s.walkPage (s.rootOf p.1) p.2.va).eraseDups

/-- A miss of core n is served by its die's TLB, or takes one of the 32 walkers of its die, or waits for one in order of arrival
(03 R58). -/
def State.startWalk (s : State) (n id va : Nat) : State :=
  let die := dieOf n
  let root := s.rootOf n
  match s.xlate.dieFind die (root % 4096) va with
  | some e =>
    (s.updCore n fun c =>
      (c.updGlobal id fun a => { a with leaf := some (e.leaf, e.size), dieHit := true }).hold 2 0 c.sched id).planFree
      (.tlbWalkDone n id)
  | none =>
    let walks := s.walksOn die
    if walks.length < 32 || walks.contains (s.walkPage root va) then
      (s.updCore n fun c => c.hold 2 0 c.sched id).planFree (.tlbWalkDone n id)
    else s.updCore n fun c => c.hold 3 0 c.sched id

/-- The misses of a die that wait for a walker start in order of arrival while one of the 32 is free, and with them those to a page
whose walk is in flight (03 R58). -/
def State.nextWalk (s : State) (die : Nat) : State :=
  let waits := (s.cores.filter fun p => dieOf p.1 = die).flatMap fun p =>
    (p.2.holds.filter fun h => h.cause = 3).map fun h => (h.id, p.1)
  (sortBy (fun a b => decide (a.1 ≤ b.1)) waits).foldl (fun s w =>
    let walks := s.walksOn die
    let shares := ((s.core w.2).global? w.1).any fun a => walks.contains (s.walkPage (s.rootOf w.2) a.va)
    if walks.length < 32 || shares then
      (s.updCore w.2 fun c => { c with
        holds := c.holds.map fun (h : Hold) => if h.id = w.1 && h.cause = 3 then { h with cause := 2 } else h }).planFree
        (.tlbWalkDone w.2 w.1)
    else s) s

/-- The formats of a page agree with those of the side of the engine command that an access belongs to (19 R338). -/
def Core.sideAgrees (c : Core) (a : GlobalAcc) (pte : Nat) : Bool :=
  match a.cmd.bind fun id => c.engines.find? fun e => e.id == id with
  | none => true
  | some e =>
    match e.layout, a.kind with
    | some l, .load _ (.engine ..) _ => pteFmt pte = l.sfmt && pteGeom pte = l.sgeom
    | some _, .load .. | some _, .probe => true
    | some l, _ => pteFmt pte = l.dfmt && pteGeom pte = l.dgeom
    | none, _ => true

/-- A translated access of core n goes on; an engine's access whose page has other formats than its unit was cut for faults with FMT
(03 R59, 19 R338). -/
def State.translated (s : State) (n id pte size : Nat) : State :=
  match (s.core n).global? id with
  | none => s
  | some a =>
    if (s.core n).sideAgrees a pte then s.beginGlobal n id pte size
    else s.updCore n fun c => (c.dropGlobal id).accessFault a 0x0A

/-- A new access of core n, issued on its present schedule cycle. -/
def Core.access (c : Core) (id src va len landAt : Nat) (kind : GlobalKind) (cmd : Option Nat) : GlobalAcc :=
  ⟨id, src, c.sched, landAt, va, len, none, kind, none, [], none, false, false, false, none, false, cmd, c.pc, false, false, 12,
    none, false, c.seq⟩

/-- An access of the M slot src of the current core issues: translation through the core TLB, where a miss freezes the core
from issue+1 (03 R58). -/
def State.issueGlobal (s : State) (src va len landAt : Nat) (kind : GlobalKind) (cmd : Option Nat) : State :=
  let n := s.cur
  let (id, s) := s.newId
  let c := s.core n
  let a := c.access id src va len landAt kind cmd
  let s := s.sketch n 2 1
  if 2 ^ 57 ≤ va then s.updCore n fun c => c.accessFault a 2
  else
    let s := s.updCore n fun c => { c with globals := c.globals ++ [a], seq := c.seq + 1 }
    match c.tlbFind (s.rootOf n % 4096) va with
    | some e => s.translated n id e.leaf e.size
    | none =>
      let seen := match cmd, s.mem.walk (s.rootOf n) va with
        | some _, .ok l => some (l.pte, l.size)
        | _, _ => none
      ((s.sketch n 3 1).updCore n fun c => c.updGlobal id fun a => { a with leaf := seen }).startWalk n id va

/-- The walk of an access has given a leaf: the TLBs take it and the access goes on, or the command that asked for it does. -/
def State.walked (s : State) (n id : Nat) (l : Leaf) : State :=
  match (s.core n).global? id with
  | none => s
  | some a =>
    let ctx := s.rootOf n % 4096
    let s := s.updCore n fun c =>
      { c.tlbFill ctx a.va l with holds := c.holds.filter fun h => h.id != id || h.cause != 2 }
    match a.kind, a.cmd with
    | .probe, some cmd => (s.updCore n fun c => c.dropGlobal id).planFree (.engineComplete n cmd)
    | _, _ => s.translated n id l.pte l.size

/-- The walk of an access has met a fault, which the access takes (03 R57). -/
def State.walkFault (s : State) (n : Nat) (a : GlobalAcc) (cause : Nat) : State :=
  let s := s.updCore n fun c =>
    { (c.dropGlobal a.id).accessFault a cause with holds := c.holds.filter fun h => h.id != a.id || h.cause != 2 }
  match a.kind, a.cmd with
  | .probe, some cmd => s.planFree (.engineComplete n cmd)
  | _, _ => s

/-- A walk ends (03 R51, R58): every access of the die that shares it goes on with its leaf, or takes its fault, and the next walk
starts. -/
def execTlbWalkDone (n id : Nat) (s : State) : Out :=
  match (s.core n).global? id, (s.core n).holds.any fun h => h.id = id && h.cause = 2 with
  | some a, true =>
    let root := s.rootOf n
    match a.leaf with
    | some x =>
      let s := { s with xlate := if a.dieHit then s.xlate else s.xlate.dieFill (dieOf n) (root % 4096) a.va x.1 x.2 }
      .next ((s.walked n id ⟨x.1, 0, x.2⟩).nextWalk (dieOf n))
    | none =>
      let page := s.walkPage root a.va
      let r := s.walkerWalk root a.va
      let all := (r.2.walkers (dieOf n)).filter fun p =>
        p.2.leaf.isNone && r.2.walkPage (r.2.rootOf p.1) p.2.va = page
      match r.1 with
      | .error cause => .next ((all.foldl (fun s p => s.walkFault p.1 p.2 cause) r.2).nextWalk (dieOf n))
      | .ok l =>
        let s := { r.2 with xlate := r.2.xlate.dieFill (dieOf n) (root % 4096) a.va l.pte l.size }
        .next ((all.foldl (fun s p => s.walked p.1 p.2.id l) s).nextWalk (dieOf n))
  | _, _ => .next s

/-! The home slice. -/

/-- The new value of an atomic, or none when a cas writes nothing (16 R296). -/
def atomicNew (op size : Nat) (old v c : Nat) : Option Nat :=
  let n := 8 * size
  let m := 2 ^ n
  let v := v % m
  let sx (x : Nat) : Int := intVal true n x
  match op with
  | 0 => some ((old + v) % m)
  | 1 => some v
  | 2 => some (Nat.land old v)
  | 3 => some (Nat.lor old v)
  | 4 => some (Nat.xor old v)
  | 5 => some (if sx old < sx v then v else old)
  | 6 => some (if sx v < sx old then v else old)
  | _ => if old = c % m then some v else none

/-- A physical byte with its space, as one number: the HBM4 bytes keep their addresses, which have 52 bits (03 R51). -/
def placeKey (loc pa : Nat) : Nat := loc * 2 ^ 52 + pa

/-- A store or atomic of core n that performs on physical bytes on a chip cycle invalidates the core's own entries that cover them
(11 R203). -/
def Core.killGlobalSpecs (c : Core) (chip pa len : Nat) : Core :=
  { c with
    addrTab := c.addrTab.map fun (e : AddrEntry) =>
      match e.pa with
      | some p =>
        if e.form = 1 && e.valid && e.sampled && p < pa + len && pa < p + e.len then { e with valid := false, deadAt := chip }
        else e
      | none => e }

/-- A write of the core has performed: it ends the core's own address-table entries for its bytes, and a load that sampled them
before keeps its sample (09 R166). -/
def Core.ownWrite (c : Core) (id chip pa len : Nat) : Core :=
  let c := c.killGlobalSpecs chip pa len
  let older (b : GlobalAcc) : GlobalAcc :=
    match b.pa with
    | some q => if b.id < id && b.performed && !b.kind.writes && pa < q + b.len && q < pa + len then { b with keep := true } else b
    | none => b
  { c with globals := c.globals.map older }

/-- An earlier access of the core to overlapping bytes has not yet sampled or performed (11 R196). -/
def Core.olderOverlap (c : Core) (a : GlobalAcc) : Bool :=
  c.globals.any fun b =>
    b.id < a.id && !b.performed && b.parked.isNone &&
      match a.pa, b.pa with
      | some p, some q => p < q + b.len && q < p + a.len
      | _, _ => false

/-- A held operation may leave: no REL that holds it is pending and no operation held before it is left (11 R199). -/
def Core.mayLeave (c : Core) (what : HeldWhat) : Bool :=
  match c.held.head? with
  | some h => h.what = what && !(c.rels.any fun r => r.seq < h.seq && (r.sys || !h.sys))
  | none => true

/-- What keeps an access at its home slice: a held operation before it, or an older overlapping access (11 R196, R199). -/
def State.mustWait (s : State) (n : Nat) (a : GlobalAcc) : Bool :=
  (a.held && !(s.owner n a.id).mayLeave (.global a.id)) || (s.owner n a.id).olderOverlap a

/-- The access samples or performs on this chip cycle at its home slice. -/
def State.performGlobal (s : State) (n : Nat) (a : GlobalAcc) : State :=
  match a.pa with
  | none => s
  | some pa =>
    let free (c : Core) : Core := { c with held := c.held.filter fun h => h.what != .global a.id }
    let store (d : List Byte) : State :=
      (s.writeFor (s.owner n a.id).launch 0 pa d).updOwner n a.id fun c =>
        (free (c.updGlobal a.id fun a => { a with performed := true, data := some 0 })).ownWrite a.id s.chip pa d.length
    match a.kind with
    | .load len _ spec =>
      let ctx := s.rootIn (s.owner n a.id) % 4096
      let seen : Mem := match a.cmd, s.xlate.migOf ctx a.va with
        | none, some m => s.mem.withParked s.xlate.parked n a.id m.slot (pa - a.va % 2 ^ m.size)
        | none, none => s.mem.withParked s.xlate.parked n a.id 4 0
        | _, _ => s.mem
      let (v, bad) := seen.readNum 0 pa len
      s.updOwner n a.id fun c =>
        let c := c.updGlobal a.id fun a => { a with data := some v, poison := bad, performed := true }
        match spec with
        | some sp =>
          { c with addrTab := c.addrTab.map fun (e : AddrEntry) => if e.id = sp then { e with sampled := true } else e }
        | none => c
    | .atomic size op v cm _ =>
      let (old, bad) := s.mem.readNum 0 pa size
      if bad.isEmpty then
        let s := match atomicNew op size old v.toNat cm.toNat with
          | some x =>
            (s.writeFor (s.owner n a.id).launch 0 pa (numBytes size x)).updOwner n a.id fun c => c.ownWrite a.id s.chip pa size
          | none => s
        s.updOwner n a.id fun c => free (c.updGlobal a.id fun a => { a with performed := true, data := some old })
      else s.updOwner n a.id fun c =>
        free (c.updGlobal a.id fun a => { a with performed := true, data := some 0, poison := bad })
    | k => store (s.mem.storeBytes 0 pa a.len k)

/-- An access waits for the answer to a snoop (03 R48). -/
def State.snooping (s : State) (n id : Nat) : Bool := s.mem.snoops.any fun h => h.core == n && h.acc == id

/-- What becomes of an access that has reached its home slice: it waits for a snoop that is out, is tried again on the next chip
cycle, snoops the lines that the host holds now (03 R48), or acts. -/
def State.atSlice (s : State) (n : Nat) (a : GlobalAcc) (ev : Instr) (act : State) : State :=
  let pa := a.pa.getD 0
  if s.snooping n a.id then s
  else if s.mustWait n a then s.plan (s.chip + 1) ev
  else if !(s.mem.heldLines pa a.len).isEmpty then s.snoopFor n a.id pa a.len
  else act

/-- An operation of a saved context that a REL held has left: its core may be free now (06 R100). -/
def State.heldLeft (s : State) (n : Nat) (a : GlobalAcc) : State :=
  if a.held && !(s.core n).owns a.id then s.plan s.chip .launchClaim else s

/-- GLOBAL_RESULT_ARRIVE (11 R195, 09 R155): the load or atomic samples at its home slice at a moment of its window; later,
or at once, its data arrives. -/
def execGlobalResultArrive (n id : Nat) (s : State) : Out :=
  match (s.owner n id).global? id with
  | none => .next s
  | some a =>
    let arrive (s : State) : State := s.updOwner n id fun c => c.updGlobal id fun a => { a with arrived := some s.chip }
    if a.performed then .next (arrive s)
    else
      .next (s.atSlice n a (.globalResultArrive n id) (
        let s := (s.heldLeft n a).performGlobal n a
        let s := if a.acked then s.ackDone n id else s
        let (d, s) := s.draw
        if d = 0 then arrive s else s.plan (s.chip + d) (.globalResultArrive n id)))

/-- A held store that leaves the core for a page under write-block parks there, or goes on to the page's present place when the
block has ended (11 R199, 03 R66). -/
def State.leaveForWb (s : State) (n : Nat) (a : GlobalAcc) : State :=
  let root := s.rootIn (s.owner n a.id)
  match s.mem.walk root a.va with
  | .error _ => s.replaceGlobal n a.id
  | .ok l =>
    s.permitGlobal n a.id l.pte fun a =>
      if pteWb l.pte then
        (s.updOwner n a.id fun c =>
          { c.updGlobal a.id fun a => { a with held := false } with held := c.held.filter fun h => h.what != .global a.id }).park
          n a.id a (s.wbPlace (root % 4096) a.va (l.pa a.va) l.size)
      else (s.updOwner n a.id fun c =>
          c.updGlobal a.id fun a => { a with wb := false, pa := some (l.pa a.va), psize := l.size }).plan s.chip
        (globalEvent n a)

/-- GLOBAL_STORE_PERFORM (11 R195): a timed global store performs at its home slice. -/
def execGlobalStorePerform (n id : Nat) (s : State) : Out :=
  match (s.owner n id).global? id with
  | none => .next s
  | some a =>
    if a.performed || a.parked.isSome then .next s
    else
      .next (s.atSlice n a (.globalStorePerform n id) (
        let s := s.heldLeft n a
        if a.held && a.wb then s.leaveForWb n a
        else (s.performGlobal n a).updOwner n id fun c =>
          if a.held then c.dropGlobal id else c.updGlobal id fun a => { a with arrived := some s.chip }))

/-- REMOTE_WRITE_PERFORM (11 R198): an acknowledged global store performs, and ACKC falls. -/
def execRemoteWritePerform (n id : Nat) (s : State) : Out :=
  match (s.owner n id).global? id with
  | none => .next s
  | some a =>
    if a.parked.isSome then .next s
    else
      .next (s.atSlice n a (.remoteWritePerform n id) (
        let s := s.heldLeft n a
        if a.held && a.wb then s.leaveForWb n a
        else ((s.performGlobal n a).ackDone n id).updOwner n id fun c => c.dropGlobal id))

/-- The RELs of a context that wait for nothing perform, and what they alone held is let go. -/
def Core.dropRels (c : Core) : Core × List HeldOp :=
  let c := { c with rels := c.rels.filter fun r => !r.waits.isEmpty }
  let free (h : HeldOp) : Bool := !(c.rels.any fun r => r.seq < h.seq && (r.sys || !h.sys))
  (c, c.held.filter free)

/-- The events of what has been let go on core n; flag writes and engine commands leave in their place in the order of issue. -/
def State.releaseHeld (s : State) (n : Nat) (freed : List HeldOp) : State :=
  freed.foldl (fun s h =>
    match h.what with
    | .flag .. | .engine _ => s
    | .global id =>
      match (s.owner n id).global? id with
      | some a =>
        let (d, s) := s.draw
        s.plan (max h.notBefore s.chip + d) (globalEvent n a)
      | none => s) s

/-- REL_PERFORM (11 R199): RELs of the core, or of a context saved from it, perform, and what they held leaves the core. -/
def execRelPerform (n : Nat) (s : State) : Out :=
  let own := (s.core n).dropRels
  let kept : List (SavedCtx × List HeldOp) := s.saved.map fun x =>
    if x.core = n then ({ x with ctx := x.ctx.dropRels.1 }, x.ctx.dropRels.2) else (x, [])
  let s := (s.setCore n own.1)
  let s := { s with saved := kept.map Prod.fst }
  .next (s.releaseHeld n (own.2 ++ (kept.map Prod.snd).flatten))

/-! Vault accesses. -/

/-- Offsets of a vault access (11 R192): perform of a store, sample of a load or perform of an atomic, landing. A die access
samples or performs at a free moment of its window. -/
def State.vaultTimes (s : State) (l : Level) : (Nat × Nat × Nat) × State :=
  match l with
  | .own => ((2, 3, 6), s)
  | .cluster => ((9, 9, 14), s)
  | .die => let (d, s) := s.drawBelow 21; ((12 + d, 12 + d, 40), s)

/-- The fault of a vault access: PROTECTION with FCAUSE 0 (11 R191). -/
def State.vaultBad (s : State) (l : Level) (v n : Nat) : Bool :=
  !vaultRangeOk v n || !s.holdsCore s.cur (vaultTarget s.cur l v)

/-- A vault load of n bytes at v (16 R289, R290, R292). -/
def State.vaultLoad (s : State) (src : Nat) (l : Level) (v n : Nat) (into : LoadTo) (spec : Option Nat) : State :=
  if s.vaultBad l v n then s.onCur fun c => c.loadFault spec src c.sched c.pc 0 v
  else
    let (t, s) := s.vaultTimes l
    s.onCur fun c => c.push t.2.1 src
      (.sample (vaultTarget s.cur l v) (vaultOffset v) n (c.sched + t.2.2) into (l == .own) spec)

/-- A vault store (16 R289, R290). -/
def State.vaultStore (s : State) (src : Nat) (l : Level) (v : Nat) (data : List Byte) : State :=
  if s.vaultBad l v data.length then s.onCur fun c => c.mFault src c.sched c.pc 0 v
  else
    let (t, s) := s.vaultTimes l
    s.onCur fun c => c.push t.1 src (.perform (vaultTarget s.cur l v) (vaultOffset v) data (l == .own))

/-! Issue. -/

/-- The address of an M form and the core after the read of BASE (16 R286). -/
def baseAddr (base : Nat) (off : Word) (c : Core) : Nat × Core :=
  let r := c.readScalars [base]
  ((r.1.getD 0 0 + off).toNat, r.2)

/-- Bytes of a vector access (16 R287). -/
def vecBytes (w : Nat) : Nat := 64 * widthOf w

/-- PLY_RANGE of a vector form (16 R286). -/
def plyChecks (ply w : Nat) : List Trap := check (2048 < ply + widthOf w) .plyRange

/-- A global store or atomic that counts in ACKC: homed off the issuing die, or a store that is to park (11 R198). -/
def State.countsAck (s : State) (va : Nat) (atomic : Bool) : Bool :=
  match s.mem.walk (s.rootOf s.cur) va with
  | .ok l => homeDie (l.pa va) ≠ dieOf s.cur || (pteWb l.pte && !atomic)
  | .error _ => false

/-- The writes of the bundle that still wait for a translation: they will count in ACKC or stand behind a REL with the others
(11 R198, R199). -/
def Core.unplaced (c : Core) : List GlobalAcc := c.globals.filter fun a => a.kind.writes && a.pa.isNone

/-- ACKC of the current core with the writes that wait for a translation. -/
def State.acksNow (s : State) : Nat :=
  s.curCore.ackc + (s.curCore.unplaced.filter fun a => s.countsAck a.va a.kind.isAtomic).length

/-- The operations that a core holds after its RELs, with its writes that wait for a translation. -/
def Core.heldNow (c : Core) : Nat := c.held.length + if c.rels.isEmpty then 0 else c.unplaced.length

/-- TIMING of a global store or atomic: 64 operations held after a REL (11 R199), or ACKC at its limit (11 R198). -/
def State.globalChecks (s : State) (va : Nat) (atomic : Bool) : List Trap :=
  let c := s.curCore
  check ((!c.rels.isEmpty && 64 ≤ c.heldNow) || (65535 ≤ s.acksNow && s.countsAck va atomic)) .timing

/-- The source plies of a store as bytes (16 R287). -/
def Core.plyBytes (c : Core) (ply w : Nat) : List Byte :=
  numBytes (64 * w) (joinLanes w (c.plyVals ply w))

/-- A vector load from a vault. -/
def loadVault (l : Level) (m : MArgs) (s : State) : Out :=
  slotRun m.guard (fun _ => plyChecks m.ply m.w)
    (fun s =>
      let (v, c) := baseAddr m.base (mOffset m) s.curCore
      (s.onCur fun _ => c).vaultLoad (srcM m.port) l v (vecBytes m.w) (.plies m.ply (widthOf m.w)) none) s

/-- A vector store to a vault. -/
def storeVault (l : Level) (m : MArgs) (s : State) : Out :=
  slotRun m.guard (fun _ => plyChecks m.ply m.w)
    (fun s =>
      let (v, c) := baseAddr m.base (mOffset m) s.curCore
      (s.onCur fun _ => c).vaultStore (srcM m.port) l v (c.plyBytes m.ply (widthOf m.w))) s

/-- A global access lies in one 4 KiB block (16 R288). -/
def inBlock (va n : Nat) : Bool := va / 4096 = (va + n - 1) / 4096

/-- A global load of n bytes. -/
def State.globalLoad (s : State) (src va n : Nat) (into : LoadTo) (spec : Option Nat) : State :=
  if inBlock va n then s.issueGlobal src va n (s.curCore.sched + Config.glat) (.load n into spec) none
  else s.onCur fun c => c.loadFault spec src c.sched c.pc 0 va

/-- A vector load from global memory. -/
def loadGlobal (m : MArgs) (s : State) : Out :=
  slotRun m.guard (fun _ => plyChecks m.ply m.w)
    (fun s =>
      let (v, c) := baseAddr m.base (mOffset m) s.curCore
      (s.onCur fun _ => c).globalLoad (srcM m.port) v (vecBytes m.w) (.plies m.ply (widthOf m.w)) none) s

/-- A vector store to global memory. -/
def storeGlobal (m : MArgs) (s : State) : Out :=
  slotRun m.guard (fun s => plyChecks m.ply m.w ++ s.globalChecks (baseAddr m.base (mOffset m) s.curCore).1 false)
    (fun s =>
      let (v, c) := baseAddr m.base (mOffset m) s.curCore
      let s := s.onCur fun _ => c
      if inBlock v (vecBytes m.w) then
        s.issueGlobal (srcM m.port) v (vecBytes m.w) (c.sched + Config.glat)
          (.store (c.plyBytes m.ply (widthOf m.w))) none
      else s.onCur fun c => c.mFault (srcM m.port) c.sched c.pc 0 v) s

def execLdV (m : MArgs) (s : State) : Out := loadVault .own m s
def execLdC (m : MArgs) (s : State) : Out := loadVault .cluster m s
def execLdD (m : MArgs) (s : State) : Out := loadVault .die m s
def execLdG (m : MArgs) (s : State) : Out := loadGlobal m s
def execStV (m : MArgs) (s : State) : Out := storeVault .own m s
def execStC (m : MArgs) (s : State) : Out := storeVault .cluster m s
def execStD (m : MArgs) (s : State) : Out := storeVault .die m s
def execStG (m : MArgs) (s : State) : Out := storeGlobal m s

/-! Speculative loads (11 R203, R204, 16 R293, R294). -/

/-- Allocates an address-table entry; the oldest of 32 gives way. -/
def Core.allocSpec (c : Core) (id form ply w addr len chip : Nat) : Core :=
  { c with
    addrTab := (⟨id, form, ply, w, addr, if form = 0 then some (vaultOffset addr) else none, len, true, false, chip, chip⟩
      :: c.addrTab).take 32 }

/-- The most recent entry of an LDS of an earlier bundle than the present one (16 R294). -/
def Core.specFind (c : Core) (form ply w addr chip : Nat) : Option AddrEntry :=
  c.addrTab.find? fun e => e.form == form && e.ply == ply && e.w == w && e.addr == addr && e.issuedAt != chip

/-- An LDS: form 0 reads the own vault, form 1 global memory. -/
def specLoad (form : Nat) (m : MArgs) (s : State) : Out :=
  slotRun m.guard (fun _ => plyChecks m.ply m.w)
    (fun s =>
      let (v, c) := baseAddr m.base (mOffset m) s.curCore
      let (id, s) := s.newId
      let s := s.onCur fun _ => c.allocSpec id form m.ply (widthOf m.w) v (vecBytes m.w) s.chip
      let into : LoadTo := .plies m.ply (widthOf m.w)
      if form = 0 then s.vaultLoad (srcM m.port) .own v (vecBytes m.w) into (some id)
      else s.globalLoad (srcM m.port) v (vecBytes m.w) into (some id)) s

/-- The load of an LDS that has not landed meets poison: in what it has sampled, or in its bytes as they stand (16 R293; log 13). -/
def State.specPoisoned (s : State) (c : Core) (id : Nat) : Bool :=
  c.globals.any fun a => a.kind.spec = some id &&
    (!a.poison.isEmpty || (!a.performed && a.pa.any fun pa => !(s.mem.readNum 0 pa a.len).2.isEmpty))

/-- An entry of the address table counts as valid on this chip cycle: the writes of earlier chip cycles have not ended it (16 R294),
and its load consumes no poison (16 R293). -/
def State.specValid (s : State) (c : Core) (e : AddrEntry) : Bool :=
  (e.valid || e.deadAt = s.chip) && !s.specPoisoned c e.id

/-- A CHKS: nothing if the LDS's entry is valid, else the same load. -/
def specCheck (form : Nat) (m : MArgs) (s : State) : Out :=
  slotRun m.guard (fun _ => plyChecks m.ply m.w)
    (fun s =>
      let (v, c) := baseAddr m.base (mOffset m) s.curCore
      let s := s.onCur fun _ => c
      let valid := match c.specFind form m.ply (widthOf m.w) v s.chip with
        | some e => s.specValid c e
        | none => false
      let into : LoadTo := .plies m.ply (widthOf m.w)
      if valid then s
      else if form = 0 then s.vaultLoad (srcM m.port) .own v (vecBytes m.w) into none
      else s.globalLoad (srcM m.port) v (vecBytes m.w) into none) s

def execLdsV (m : MArgs) (s : State) : Out := specLoad 0 m s
def execLdsG (m : MArgs) (s : State) : Out := specLoad 1 m s
def execChksV (m : MArgs) (s : State) : Out := specCheck 0 m s
def execChksG (m : MArgs) (s : State) : Out := specCheck 1 m s

/-! Ply-addressed forms and the codebook (16 R291, R292). -/

/-- A ply address is legal: bits [63:22] are 0 and P + 128·W stays within the vault. -/
def plyAddrOk (p w : Nat) : Bool := p < 2 ^ 22 && p + 128 * w ≤ 2 * Config.vaultBytes

/-- ldply (16 R291). -/
def execLdply (m : MArgs) (s : State) : Out :=
  slotRun m.guard (fun _ => plyChecks m.ply m.w)
    (fun s =>
      let w := widthOf m.w
      let (p, c) := baseAddr m.base (mOffset m) s.curCore
      let s := s.onCur fun _ => c
      if plyAddrOk p w then
        s.onCur fun c => c.push 3 (srcM m.port)
          (.sample s.cur (p / 2) ((p + 128 * w + 1) / 2 - p / 2) (c.sched + 6) (.nibbles m.ply w (p % 2)) true none)
      else s.onCur fun c => c.mFault (srcM m.port) c.sched c.pc 0 p) s

/-- stply (16 R291): partial bytes are merged when it performs. -/
def execStply (m : MArgs) (s : State) : Out :=
  slotRun m.guard (fun _ => plyChecks m.ply m.w)
    (fun s =>
      let w := widthOf m.w
      let (p, c) := baseAddr m.base (mOffset m) s.curCore
      let s := s.onCur fun _ => c
      if plyAddrOk p w then
        s.onCur fun c => c.push 2 (srcM m.port) (.performPlies p (128 * w) (joinLanes w (c.plyVals m.ply w)))
      else s.onCur fun c => c.mFault (srcM m.port) c.sched c.pc 0 p) s

/-- ldcb (16 R292). -/
def execLdcb (m : MArgs) (s : State) : Out :=
  slotRun m.guard noChecks
    (fun s =>
      let (v, c) := baseAddr m.base (mOffset m) s.curCore
      let s := s.onCur fun _ => c
      if v % 64 = 0 then s.vaultLoad (srcM m.port) .own v 1024 .codebook none
      else s.onCur fun c => c.mFault (srcM m.port) c.sched c.pc 0 v) s

/-! Scalar loads and stores (16 R290). -/

/-- ldx from the own vault or from global memory; the type's code is size·2 + sign in [23:21]. -/
def loadScalar (global : Bool) (m : ScalarMemArgs) (s : State) : Out :=
  slotRun m.guard noChecks
    (fun s =>
      let n := 2 ^ m.size
      let (v, c) := baseAddr m.base (smOffset m) s.curCore
      let s := s.onCur fun _ => c
      let into : LoadTo := .scalar m.reg n m.sgn
      if v % n ≠ 0 then s.onCur fun c => c.mFault (srcM m.port) c.sched c.pc 0 v
      else if global then s.globalLoad (srcM m.port) v n into none
      else s.vaultLoad (srcM m.port) .own v n into none) s

/-- stx to the own vault or to global memory. -/
def storeScalar (global : Bool) (m : ScalarMemArgs) (s : State) : Out :=
  slotRun m.guard
    (fun s => if global then s.globalChecks (baseAddr m.base (smOffset m) s.curCore).1 false else [])
    (fun s =>
      let n := 2 ^ m.size
      let r := s.curCore.readScalars [m.base, m.reg]
      let v := (r.1.getD 0 0 + smOffset m).toNat
      let data := numBytes n (r.1.getD 1 0).toNat
      let s := s.onCur fun _ => r.2
      if v % n ≠ 0 then s.onCur fun c => c.mFault (srcM m.port) c.sched c.pc 0 v
      else if global then s.issueGlobal (srcM m.port) v n (s.curCore.sched + Config.glat) (.store data) none
      else s.vaultStore (srcM m.port) .own v data) s

def execLdxV (m : ScalarMemArgs) (s : State) : Out := loadScalar false m s
def execLdxG (m : ScalarMemArgs) (s : State) : Out := loadScalar true m s
def execStxV (m : ScalarMemArgs) (s : State) : Out := storeScalar false m s
def execStxG (m : ScalarMemArgs) (s : State) : Out := storeScalar true m s

/-! Atomics (16 R295 to R297). -/

/-- The vault level of an atomic's level field; none for global. -/
def atomLevel (l : Nat) : Option Level :=
  match l with
  | 0 => some .own
  | 1 => some .cluster
  | 2 => some .die
  | _ => none

/-- An atomic: BASE and S are read at issue, and by a cas D (16 R295, R296). -/
def atomic (op : Nat) (a : AtomArgs) (s : State) : Out :=
  let size := 2 ^ a.size
  slotRun a.guard
    (fun s => if (atomLevel a.level).isNone then s.globalChecks (baseAddr a.base (atomOffset a) s.curCore).1 true else [])
    (fun s =>
      let r := s.curCore.readScalars [a.base, a.src, if op = 7 then a.dst else 0]
      let v := (r.1.getD 0 0 + atomOffset a).toNat
      let val := r.1.getD 1 0
      let cmp := r.1.getD 2 0
      let s := s.onCur fun _ => r.2
      if v % size ≠ 0 then s.onCur fun c => c.mFault (srcM a.port) c.sched c.pc 0 v
      else
        match atomLevel a.level with
        | none => s.issueGlobal (srcM a.port) v size (s.curCore.sched + Config.glat)
            (.atomic size op val cmp a.dst) none
        | some l =>
          if s.vaultBad l v size then s.onCur fun c => c.mFault (srcM a.port) c.sched c.pc 0 v
          else
            let (t, s) := s.vaultTimes l
            s.onCur fun c => c.push t.2.1 (srcM a.port)
              (.atomic (vaultTarget s.cur l v) (vaultOffset v) size op val cmp a.dst (c.sched + t.2.2) (l == .own))) s

def execAtomAdd (a : AtomArgs) (s : State) : Out := atomic 0 a s
def execAtomSwap (a : AtomArgs) (s : State) : Out := atomic 1 a s
def execAtomAnd (a : AtomArgs) (s : State) : Out := atomic 2 a s
def execAtomOr (a : AtomArgs) (s : State) : Out := atomic 3 a s
def execAtomXor (a : AtomArgs) (s : State) : Out := atomic 4 a s
def execAtomMax (a : AtomArgs) (s : State) : Out := atomic 5 a s
def execAtomMin (a : AtomArgs) (s : State) : Out := atomic 6 a s
def execAtomCas (a : AtomArgs) (s : State) : Out := atomic 7 a s

end Sys2Proof.Machine
end

