-- ==== Sys2Proof/Machine/Send.lean ====
section
/-! DEFINITION. Sending fabric packets (02 R27 to R35). -/

namespace Sys2Proof.Machine

/-- An entry of the routing table (02 R29). -/
def Fabric.route (f : Fabric) (p : Nat) : Nat := (Store.read f.routes p).toNat

/-- A port that is UP. -/
def Fabric.up (f : Fabric) (port : Nat) : Bool :=
  match f.ports[port]? with
  | some p => p.state = 2
  | none => false

/-- The port by which a packet for package p leaves (02 R30); alt asks for the alternate route first (02 R33). DESIGN CHOICE (log 21): a
PRIMARY port in TRAINING counts as one that is DOWN, and a packet sent again whose entry has no ALT port that is UP leaves by PRIMARY;
the manual names neither case. -/
def Fabric.portFor (f : Fabric) (p : Nat) (alt : Bool) : Option Nat :=
  let e := f.route p
  let a := bits e 21 5
  let b := bits e 26 5
  if !bit e 31 then none
  else
    let (x, y) := if alt then (a, b) else (b, a)
    if x ≠ 31 && f.up x then some x else if y ≠ 31 && f.up y then some y else none

/-- An entry of the group table (02 R36). -/
def Fabric.entry (f : Fabric) (g : Nat) : GroupEntry :=
  ((f.groups.find? fun p => p.1 = g).map fun p => p.2).getD GroupEntry.reset

/-- Changes an entry of the group table. -/
def Fabric.setEntry (f : Fabric) (g : Nat) (e : GroupEntry) : Fabric := { f with groups := setAt f.groups g e }

/-- Changes a port. -/
def Fabric.updPort (f : Fabric) (i : Nat) (g : Port → Port) : Fabric :=
  { f with ports := f.ports.mapIdx fun j p => if j = i then g p else p }

/-! The packet on the wire (02 R27). -/

/-- TYPE is listed. -/
def typeListed (kind : Nat) : Bool := 1 ≤ kind && kind ≤ 11

/-- The virtual channel of a TYPE: 0 request, 1 response, 2 reduce, 3 control. -/
def vcOf (kind : Nat) : Nat :=
  match kind with
  | 1 | 2 | 4 => 0
  | 3 | 5 => 1
  | 6 | 7 => 2
  | _ => 3

/-- Data flits of a payload: none up to the 192 bytes that travel inline (02 R27, 19 R346). -/
def flitsFor (len : Nat) : Nat := if len ≤ 192 then 0 else (len + 255) / 256

/-- The 64-byte header of a packet: the layout of 02 R27. -/
def packetHeader (p : Packet) : Nat :=
  p.kind + p.vc * 2 ^ 8 + p.hops * 2 ^ 10 + p.dst * 2 ^ 16 + p.src * 2 ^ 27 + b2n p.mcast * 2 ^ 38 + p.tag * 2 ^ 40
    + p.fmt * 2 ^ 52 + p.nflits * 2 ^ 57 + p.addr * 2 ^ 64 + p.seq * 2 ^ 128 + p.key * 2 ^ 144 + p.nr * 2 ^ 155
    + p.count * 2 ^ 192 + p.resv

/-- A header with an unlisted TYPE or a reserved bit set (02 R27). -/
def headerBad (h : Nat) : Bool := !typeListed (bits h 0 8) || Nat.land h headerResv ≠ 0

/-- The port discards the packet. -/
def packetBad (p : Packet) : Bool := headerBad (packetHeader p)

/-- The packet taken as one of a TYPE, unless its own is unlisted. -/
def packetAs (p : Packet) (kind : Nat) : Packet := if typeListed p.kind then { p with kind := kind } else p

/-- The largest payload of one packet: fifteen data flits (02 R27). -/
def packetMax : Nat := 3840

/-- The payload of a contribution or result in pieces of at most one packet, each at its offset (log 26). -/
def piecesOf (data : List Byte) : List (Nat × List Byte) :=
  (List.range (max 1 ((data.length + packetMax - 1) / packetMax))).map fun i =>
    (packetMax * i, (data.drop (packetMax * i)).take packetMax)

/-- A packet leaves by a port, on the virtual channel of its TYPE and with its count of data flits. -/
def State.sendFlit (s : State) (port : Nat) (p : Packet) : State :=
  let chip := s.chip
  ({ s with fabric := s.fabric.updPort port fun x => { x with lastTx := chip } }).emit
    (.flit port { p with vc := vcOf p.kind, nflits := flitsFor p.data.length })

/-- A packet leaves for its destination; false when there is no route. -/
def State.sendTo (s : State) (p : Packet) (alt : Bool) : Bool × State :=
  match s.fabric.portFor p.dst alt with
  | some port => (true, s.sendFlit port p)
  | none => (false, s)

/-- An empty packet of a kind from this package. -/
def State.packet (s : State) (kind dst : Nat) : Packet :=
  { kind := kind, port := 0, vc := vcOf kind, hops := 7, dst := dst, src := s.fabric.fabid, mcast := false, tag := 0, fmt := 0,
    nflits := 0, addr := 0, seq := 0, key := 0, nr := 0, count := 0, resv := 0, err := 0, op := 0, data := [] }

/-- The first tag from t on that no outstanding packet has. -/
def freeTag (used : List Nat) (t fuel : Nat) : Nat :=
  match fuel with
  | 0 => t % 4096
  | k + 1 => if used.contains (t % 4096) then freeTag used (t + 1) k else t % 4096

/-- A packet of this package that has no route is answered with UNREACHABLE (02 R30). DESIGN CHOICE (log 21): within 1,250 cycles; the
manual gives no bound. -/
def State.unreachable (s : State) (p : Packet) : State :=
  s.planWithin 1250 (.ack { p with kind := 5, port := 24, dst := s.fabric.fabid, src := p.dst, err := 5, data := [] })

/-- A tagged packet of an engine command of core n (02 R31 to R33): it is outstanding until its acknowledgement, and without a
route it is answered with UNREACHABLE. -/
def State.sendTagged (s : State) (n cmd : Nat) (p : Packet) : State :=
  let tag := freeTag (s.fabric.outstanding.map fun o => o.tag) s.fabric.tagNext 4096
  let p := { p with tag := tag }
  let o : OutPkt := ⟨tag, n, cmd, p, s.chip, false⟩
  let s := { s with fabric := { s.fabric with tagNext := (tag + 1) % 4096, outstanding := s.fabric.outstanding ++ [o] } }
  let r := s.sendTo p false
  if r.1 then r.2.plan (s.chip + Config.ackTmo) (.ackTimeout tag) else r.2.unreachable p

end Sys2Proof.Machine
end

