-- ==== Sys2Proof/Machine/Engine.lean ====
section
/-! DEFINITION. The E slot and the engines' timed work (19 R330 to R344, 12 R213 to R216, 07 R115, R116). -/

namespace Sys2Proof.Machine

/-! Commands (19 R330). -/

/-- The flight-log block of an opcode. -/
def engBlock (op : Nat) : Nat :=
  match op with
  | 2 => 1
  | 3 => 2
  | 4 | 5 => 3
  | 7 | 8 => 5
  | 1 | 6 => 0
  | _ => 4

/-- STW (19 R332). -/
def EngCmd.stw (e : EngCmd) : Nat := bits e.vc.toNat 32 21

/-- The source side is the own vault. -/
def EngCmd.srcVault (e : EngCmd) : Bool :=
  match e.op with
  | 1 | 2 | 4 | 8 | 9 => e.cf % 2 = 1
  | 0x0B => true
  | _ => false

/-- The destination side is the own vault. -/
def EngCmd.dstVault (e : EngCmd) : Bool :=
  match e.op with
  | 1 | 2 | 7 | 0x0A => e.cf / 2 % 2 = 1
  | 5 => e.cf % 2 = 1
  | _ => false

/-- The tile descriptor number of a gather or scatter. -/
def EngCmd.tdn (e : EngCmd) : Nat := e.cf / 2 % 16

/-- The tile descriptor that a gather or scatter uses: the one that its start cycle read (10 R182, 19 R349). -/
def EngCmd.td (e : EngCmd) : TileDesc := tileDesc e.view.toNat

/-- A command whose read stream is one cycle without a local unit, or with the compare word of a fatom (19 R340, R345 to
R347). -/
def EngCmd.oneCycle (e : EngCmd) : Bool := e.op = 7 || e.op = 0x0A || e.op = 0x0B || (e.op = 6 && e.cf % 2 = 0)

/-- Lines of a source tile. -/
def EngLayout.srcLines (l : EngLayout) : Nat := tileBytes l.sfmt l.sgeom / 64

/-- A side that verifies or regenerates. -/
def EngLayout.tiled (l : EngLayout) : Bool := l.sgeom ≠ 0 || l.dgeom ≠ 0

/-- T of 19 R338: the lines of the larger of the two tiles. -/
def EngLayout.t (l : EngLayout) : Nat := max (tileBytes l.sfmt l.sgeom) (tileBytes l.dfmt l.dgeom) / 64

/-- Δ of 19 R338. -/
def EngCmd.delta (e : EngCmd) : Nat :=
  match e.layout with
  | some l => if l.tiled then l.t + 4 else 0
  | none => 0

/-- Units of a command, once they are known. -/
def EngCmd.total (e : EngCmd) : Option Nat :=
  if e.oneCycle then some 1
  else
    match e.op with
    | 2 => e.layout.map fun l => bits e.n 16 16 * bits e.n 0 16 * l.srcLines
    | 3 => some ((e.n + 31) / 32)
    | 4 | 5 => some ((e.n + 15) / 16)
    | 0x0C => e.layout.map fun l => e.n / (tileEdge l.sgeom * tileEdge l.sgeom) * l.srcLines
    | _ => some (e.n / 64)

/-- The read cycle of unit u (19 R339, R341, R342, R344). -/
def EngCmd.readAt (e : EngCmd) (u : Nat) : Nat := e.start + (if e.op = 4 || e.op = 5 then Config.glat else 0) + u

/-- The cycle on which the data of unit u is held. -/
def EngCmd.dataAt (e : EngCmd) (u : Nat) : Nat :=
  e.readAt u + (if e.op = 5 then 0 else if e.srcVault then 1 else Config.glat)

/-- The write cycle of unit u. -/
def EngCmd.writeAt (e : EngCmd) (u : Nat) : Nat :=
  match e.op with
  | 1 => e.dataAt u + e.delta + (if e.dstVault then 2 else 0)
  | 2 =>
    match e.layout with
    | some l => let t := l.srcLines; e.dataAt (u / t * t + t - 1) + t + 4 + u % t
    | none => e.dataAt u
  | 3 => e.dataAt u + 6 + e.delta
  | 4 => if e.srcVault then e.readAt u + 4 + e.delta else e.dataAt u + 3 + e.delta
  | _ => if e.dstVault then e.readAt u + 3 else e.readAt u + 1 + (if e.delta = 0 then 0 else Config.glat + e.delta)

/-- The last cycle of the read stream. -/
def EngCmd.lastRead (e : EngCmd) : Nat :=
  match e.total with
  | some t => e.readAt (t - 1)
  | none => e.start

/-! Starting (19 R331, R344). -/

/-- The missed engine operand: the read stream of another command of the engine still includes the present cycle, or begins on it for a
command issued before (19 R331). -/
def Core.streamBusy (c : Core) (block id : Nat) : Bool :=
  c.engines.any fun e => e.block = block &&
    if e.started then decide (e.id ≠ id) && !e.streamDone && decide (c.sched ≤ e.lastRead)
    else decide (e.id < id) && decide (e.start ≤ c.sched)

/-- The view checks of a gather or scatter on its start cycle (19 R344, 10 R182). -/
def Core.engViewTraps (c : Core) (op cf count : Nat) : List Trap :=
  if op = 4 || op = 5 then
    let d := c.td (cf / 2 % 16)
    check (!viewFmtOk d.fmt || d.rows * d.cols < count) .illegal ++ check (2048 < d.base + d.span) .plyRange
  else []

/-- The causes that a command raises on its start cycle. -/
def Core.startTraps (c : Core) (e : EngCmd) : List Trap :=
  c.engViewTraps e.op e.cf e.n ++ check (c.streamBusy e.block e.id) .timing

/-! Pages (19 R338). -/

/-- A page seen by an engine: FMT, GEOM, log2 of its size, the leaf. -/
structure PageInfo where
  fmt : Nat
  geom : Nat
  size : Nat
  pte : Nat
  deriving DecidableEq, Repr

/-- The page of a virtual address in a context of core n, or the engine code of its fault: the core TLB first, then the die TLB,
then the tables (03 R58). -/
def State.pageOf (s : State) (n : Nat) (c : Core) (va : Nat) : Except Nat PageInfo :=
  let info (pte size : Nat) : PageInfo := ⟨pteFmt pte, pteGeom pte, size, pte⟩
  let root := s.rootIn c
  match c.tlbFind (root % 4096) va with
  | some e => .ok (info e.leaf e.size)
  | none =>
    match s.xlate.dieFind (dieOf n) (root % 4096) va with
    | some e => .ok (info e.leaf e.size)
    | none =>
      match s.mem.walk root va with
      | .ok l => .ok (info l.pte l.size)
      | .error cause => .error (0x10 + cause)

/-- The physical address of va in its page. -/
def PageInfo.pa (p : PageInfo) (va : Nat) : Nat := ptePa p.pte + va % 2 ^ p.size

/-! Issue (19 R330 to R332). -/

/-- A vault side is legal: the range lies in the vault, its bits [63:21] 0. -/
def vaultSideOk (v n : Nat) : Bool := v < 2 ^ 21 && v + n ≤ Config.vaultBytes

/-- The bytes of a tile of a transposition: those of the page on its global side, 64 where it shows no tile. -/
def State.transpTile (s : State) (n : Nat) (c : Core) (cf : Nat) (va vb : Nat) : Nat :=
  match s.pageOf n c (if cf % 2 = 1 then vb else va) with
  | .ok p => if p.geom = 0 then 64 else tileBytes p.fmt p.geom
  | .error _ => 64

/-- The operand that fails a check of 19 R332, or none; tile is the length of a tile of a transposition. -/
def operandFault (op cf tile : Nat) (va vb vc : Nat) : Option Nat :=
  let n := vc % 2 ^ 32
  let srcV := (op = 1 || op = 2 || op = 8 || op = 9) && cf % 2 = 1
  let dstV := (op = 1 || op = 2 || op = 7 || op = 0x0A) && cf / 2 % 2 = 1
  let line := op = 1 || 6 ≤ op && op ≤ 0x0A
  let units := if op = 2 then bits n 0 16 * bits n 16 16 else if op = 3 then (n + 31) / 32
    else if op = 4 || op = 5 then (n + 15) / 16 else if op = 0x0C then n else n / 64
  let stw := bits vc 32 21
  let len := if op = 2 then units * tile else n
  if (!ackOp op && op ≠ 2 && 2 ^ 32 ≤ vc) || (op = 2 && 2 ^ 32 ≤ vc) then some vc
  else if op = 0x0B then
    (if n ≠ 0 then some vc else if va % (if bit cf 3 then 8 else 4) ≠ 0 then some va
     else if stw % 8 ≠ 0 || Config.vaultBytes ≤ stw + 8 then some vc else none)
  else if units = 0 || 2 ^ 24 ≤ units || n = 0 then some vc
  else if op = 2 && (bits n 0 16 = 0 || bits n 16 16 = 0) then some vc
  else if line && n % 64 ≠ 0 then some vc
  else if (line || op = 2) && va % 64 ≠ 0 then some va
  else if (line || op = 2) && vb % 64 ≠ 0 then some vb
  else if srcV && !vaultSideOk va len then some va
  else if dstV && !vaultSideOk vb len then some vb
  else if (op = 4 || op = 5) && cf % 2 = 1 && !vaultSideOk va 1 then some va
  else if ackOp op && (stw % 8 ≠ 0 || Config.vaultBytes ≤ stw) then some vc
  else none

/-- Open acknowledged commands of an engine. -/
def Core.openCmds (c : Core) (block : Nat) : Nat := (c.engines.filter fun e => e.block = block && ackOp e.op).length

/-- The scalar values of an E form (19 R330), and the core after the reads. -/
def engOperands (e : EArgs) (c : Core) : (Word × Word × Word) × Core :=
  let r := c.readScalars ([e.sa, e.sb] ++ (if e.lit.isSome then [] else [e.sc]))
  ((r.1.getD 0 0, r.1.getD 1 0, eValueC e (r.1.getD 2 0)), r.2)

/-- Traps of an E form before its bundle: an engine that was not idle, in a handler (19 R336); a 17th command, ACKC at its
limit, or a 65th held operation (19 R331, 11 R198, R199); and with offset 0 those of its start cycle. -/
def engTraps (op : Nat) (e : EArgs) (s : State) : List Trap :=
  let c := s.curCore
  let vc := (engOperands e c).1.2.2.toNat
  let busy := match c.handler, c.record with
    | true, some r => !r.enginesIdle.contains (engBlock op)
    | _, _ => false
  let held := c.rels.any fun r => r.sys
  check busy .illegal ++ (if e.ofs = 0 then c.engViewTraps op e.cf (vc % 2 ^ 32) else [])
    ++ check (ackOp op && (16 ≤ c.openCmds (engBlock op) || 65535 < s.acksNow + ackCount op (vc % 2 ^ 32)
        || (held && 64 ≤ c.heldNow))) .timing
    ++ (if e.ofs = 0 then check (c.streamBusy (engBlock op) s.nextId) .timing else [])

/-- The status word of a command (11 R200). -/
def statusWord (done fault : Bool) (code count : Nat) : Nat :=
  (if done then 2 ^ 63 else 0) + (if fault then 2 ^ 62 else 0) + code % 256 * 2 ^ 48 + count % 2 ^ 32

/-- Runs an E form: it counts for the sketches (08 R139); an operand fault is PROTECTION at issue+1, and otherwise the command
waits for its start cycle. DEDUCED (log 31): the fault names the bundle of the E form and leaves its other slots done, as 09 R162 says for
an M slot. -/
def engRun (op : Nat) (e : EArgs) (s : State) : Out :=
  slotRun e.guard (engTraps op e)
    (fun s =>
      let n := s.cur
      let ((va, vb, vc), c) := engOperands e (s.core n)
      let s := (s.setCore n c).sketch n 7 1
      match operandFault op e.cf (s.transpTile n c e.cf va.toNat vb.toNat) va.toNat vb.toNat vc.toNat with
      | some x => s.updCore n fun c =>
          { c with causes := c.causes ++ [⟨c.sched + 1, c.sched, .protection, c.pc, 0xFE, 0, x⟩] }
      | none =>
        let (id, s) := s.newId
        let held := ackOp op && c.rels.any fun r => r.sys
        let cmd : EngCmd :=
          { id := id, block := engBlock op, op := op, cf := e.cf, post := e.post, issued := c.sched,
            start := c.sched + e.ofs, pc := c.pc, va := va, vb := vb, vc := vc, rm := c.ctl 3 % 8, seed := c.ctl 4,
            schedCyc := c.schedcyc, started := false, view := 0, streamDone := false, reads := 0, writes := 0, units := [],
            layout := none, places := [], record := [], pend := [], fault := none, ended := false, retries := [], cvtDone := [],
            retried := false, satur := 0, count := 0, redo := [], again := [], chunk := none, failed := none, held := held,
            handler := c.handler, acked := [] }
        s.updCore n fun c =>
          let c := { c with engines := c.engines ++ [cmd], ackc := c.ackc + ackCount op cmd.n }
          let c := if held then c.holdBack 0 true (.engine id) else c
          if ackOp op then c.push 2 srcE (.perform n cmd.stw (numBytes 8 (statusWord false false 0 0)) false) else c) s

def execCopy (e : EArgs) (s : State) : Out := engRun 1 e s
def execTransp (e : EArgs) (s : State) : Out := engRun 2 e s
/-- A destination for which a conversion may round stochastically (12 R217). -/
def rsFmts : List Nat := [3, 4, 5, 6, 8, 9]

/-- A conversion that encodes RS for a destination that does not allow it (12 R217). -/
def State.convRs (s : State) (e : EArgs) : Bool :=
  e.cf % 8 = 4 &&
    match s.pageOf s.cur s.curCore (engOperands e s.curCore).1.2.1.toNat with
    | .ok p => !rsFmts.contains p.fmt
    | .error _ => false

/-- conv; one that encodes RS for another destination is ILLEGAL, whatever its guard (12 R217). DEDUCED (log 31): the destination is the
page of VB as it stands at issue. -/
def execConvE (e : EArgs) (s : State) : Out :=
  if (s.curCore.guard e.guard).isSome && s.convRs e then .next (s.trapHere .illegal) else engRun 3 e s
def execGather (e : EArgs) (s : State) : Out := engRun 4 e s
def execScatter (e : EArgs) (s : State) : Out := engRun 5 e s
def execTcopy (e : EArgs) (s : State) : Out := engRun 6 e s
def execHget (e : EArgs) (s : State) : Out := engRun 7 e s
def execHput (e : EArgs) (s : State) : Out := engRun 8 e s
def execFput (e : EArgs) (s : State) : Out := engRun 9 e s
def execFget (e : EArgs) (s : State) : Out := engRun 0x0A e s
def execFatom (e : EArgs) (s : State) : Out := engRun 0x0B e s
def execMcred (e : EArgs) (s : State) : Out := engRun 0x0C e s

/-! Pages of the sides (19 R338). -/

/-- A tile that starts at an address lies whole in its page and starts a tile of it. -/
def PageInfo.tileFits (p : PageInfo) (va : Nat) : Bool :=
  let o := va % 2 ^ p.size
  o % tileBytes p.fmt p.geom = 0 && o + tileBytes p.fmt p.geom ≤ 2 ^ p.size

/-- Two sides agree for a copy: equal FMT or one RAW, equal GEOM (19 R339). -/
def copyAgree (a b : PageInfo) : Bool := (a.fmt = b.fmt || a.fmt = 0 || b.fmt = 0) && a.geom = b.geom

/-- An error of a unit: engine code and address. -/
abbrev UnitErr := Nat × Nat

/-- The page of a side, or its fault. -/
def State.sidePage (s : State) (n : Nat) (c : Core) (va : Nat) : Except UnitErr PageInfo :=
  match s.pageOf n c va with
  | .ok p => .ok p
  | .error code => .error (code, va)

/-- The page of a side that an access of the command is to read or write, or the fault of its translation or of its permissions
(03 R57, 19 R335, R338). -/
def State.accessPage (s : State) (n : Nat) (c : Core) (va : Nat) (write : Bool) : Except UnitErr PageInfo :=
  match s.sidePage n c va with
  | .error x => .error x
  | .ok p =>
    let cause := permCause p.pte write true
    if cause = 0 then .ok p else .error (0x10 + cause, va)

/-- The rules of a command's formats (19 R339, R341, R342, R345, R348). -/
def layoutOk (op : Nat) (l : EngLayout) : Bool :=
  match op with
  | 2 => l.sgeom ≠ 0 && l.sfmt ≠ 0 && !pageBlocked l.sfmt
  | 3 =>
    l.sfmt ≠ 0 && l.dfmt ≠ 0 && l.dfmt ≠ 0x0B && l.sfmt ≠ l.dfmt && l.sgeom = l.dgeom
  | 0x0C =>
    l.sgeom ≠ 0 && l.sgeom = l.dgeom
      && (if l.sfmt = 1 then l.dfmt = 1
          else if 2 ≤ l.sfmt && l.sfmt ≤ 4 then 2 ≤ l.dfmt && l.dfmt ≤ 4
          else (l.sfmt = 0x0F || l.sfmt = 0x14) && (l.dfmt = 0x0F || l.dfmt = 0x14))
  | _ => true

/-- The layout of a command that streams (all but gather and scatter): the pages of its two sides. -/
def State.engLayout (s : State) (n : Nat) (c : Core) (e : EngCmd) : Except UnitErr EngLayout :=
  let va := e.va.toNat
  let vb := e.vb.toNat
  let fit (l : EngLayout) : Except UnitErr EngLayout := if layoutOk e.op l then .ok l else .error (0x1A, va)
  let remote : Bool := e.op = 9 || e.op = 0x0A
  if e.op = 0x0B then .ok ⟨0, 0, 0, 0⟩
  else if (e.srcVault || e.op = 0x0A) && (e.dstVault || e.op = 9) then
    (if e.op = 2 then .error (0x1A, va) else .ok ⟨0, 0, 0, 0⟩)
  else if e.srcVault || e.op = 0x0A then
    match s.sidePage n c vb with
    | .error x => .error x
    | .ok p => fit ⟨p.fmt, if remote then 0 else p.geom, p.fmt, p.geom⟩
  else if e.dstVault || e.op = 9 then
    match s.sidePage n c va with
    | .error x => .error x
    | .ok p => fit ⟨p.fmt, p.geom, p.fmt, if remote then 0 else p.geom⟩
  else
    match s.sidePage n c va, s.sidePage n c vb with
    | .error x, _ => .error x
    | _, .error x => .error x
    | .ok p, .ok q =>
      let l : EngLayout := ⟨p.fmt, p.geom, q.fmt, q.geom⟩
      let el := tileEdge l.sgeom * tileEdge l.sgeom
      if e.op = 0x0C && (2 ^ 61 ≤ e.vc.toNat || e.n % el ≠ 0 || 65536 < e.n) then .error (0x1A, va)
      else if e.op = 3 || e.op = 0x0C then fit l
      else if !copyAgree p q || (e.op = 2 && p.fmt ≠ q.fmt) then .error (0x1A, va)
      else fit l

/-- Source and destination sides are both tiles only when a page says so: a vault side has no tile of its own to verify when
it is the source of a command whose destination is regenerated (19 R339). -/
def EngCmd.verifies (e : EngCmd) : Bool :=
  match e.layout with
  | some l => l.sgeom ≠ 0 && (!e.srcVault || e.op = 2)
  | none => false

/-- A command whose units are checked before they are written: tiles verified, conversions under 07 R116. -/
def EngCmd.checks (e : EngCmd) : Bool := e.verifies || e.op = 3

/-! Reading a unit. -/

/-- Units whose data one verification covers, from the first one on: a tile's lines, or the units of a conversion's tiles. -/
def EngCmd.group (e : EngCmd) : Nat :=
  match e.layout with
  | none => 1
  | some l =>
    if !l.tiled then 1
    else if e.op = 3 then max 1 (tileEdge l.sgeom * tileEdge l.sgeom / 32)
    else if e.op = 4 || e.op = 5 then 1
    else l.srcLines

/-- Tiles of a conversion's group. -/
def convTiles (geom : Nat) : Nat := max 1 (32 / (tileEdge geom * tileEdge geom))

/-- Elements that a blocked page segment holds in blocks, and the places of a block's elements and scale in it (12 R213,
R216). -/
def segPieces (fmt g : Nat) : List (Nat × Nat) :=
  if fmt = 8 || fmt = 9 then [(1024 * (g / 31) + 32 * (g % 31), 32), (1024 * (g / 31) + 992 + g % 31, 1)]
  else if fmt = 0x0A then [(1024 * (g / 60) + 16 * (g % 60), 16), (1024 * (g / 60) + 960 + g % 60, 1)]
  else [(1024 * (g / 108) + 8 * (g % 108), 8), (1024 * (g / 108) + 864 + 10 * (g % 108) / 8, 2)]

/-- Bits of an element in a block or plain page. -/
def elemBits (fmt : Nat) : Nat := if fmt = 8 || fmt = 9 then 8 else if fmt = 0x0A then 4 else pageBits fmt

/-- The bytes of 32 elements in a tile's data block: an LC2 tile holds codes of eight weights (12 R213, R215). -/
def unitBytes (fmt : Nat) : Nat := if fmt = 0x0B then 8 else 4 * elemBits fmt

/-- The part of its tile that unit j of a group of g has: its elements, and the last unit all that follows the elements. -/
def unitSpan (fmt geom g j : Nat) : Nat × Nat :=
  let w := unitBytes fmt
  (j * w, if j = g - 1 then tileBytes fmt geom - j * w else w)

/-- Pieces of a range cut at 4 KiB boundaries. -/
def cutBlocks (fuel va len : Nat) : List (Nat × Nat) :=
  match fuel with
  | 0 => []
  | k + 1 =>
    let room := 4096 - va % 4096
    if len = 0 then [] else if len ≤ room then [(va, len)] else (va, room) :: cutBlocks k (va + room) (len - room)

/-- Pieces of unit u of a conversion at an address of a side: its elements, their scale, or its share of its tiles (19 R342). -/
def convPieces (fmt geom base u : Nat) : List (Nat × Nat) :=
  let whole : List (Nat × Nat) :=
    if geom = 0 then
      if pageBlocked fmt then (segPieces fmt u).map fun p => (base + p.1, p.2)
      else [(base + u * 4 * pageBits fmt, 4 * pageBits fmt)]
    else
      let tb := tileBytes fmt geom
      let g := max 1 (tileEdge geom * tileEdge geom / 32)
      let k := convTiles geom
      if g = 1 then (List.range k).map fun i => (base + (u * k + i) * tb, tb)
      else [(base + u / g * tb + (unitSpan fmt geom g (u % g)).1, (unitSpan fmt geom g (u % g)).2)]
  whole.flatMap fun p => cutBlocks 3 p.1 p.2

/-- The extents and strides of a shape record, or none if it is malformed (19 R343). -/
def shapeOf (r : List Word) : Option (Bool × List Nat × List Int) :=
  let w (i : Nat) : Nat := (r.getD i 0).toNat
  let rank := w 0 % 8
  let dims := (List.range 6).map fun i => w (1 + i)
  let strides := (List.range 6).map fun i => (r.getD (7 + i) 0).toInt
  let low := List.range rank
  let high := (List.range 6).drop rank
  if w 0 / 256 = 0 && bits (w 0) 3 4 = 0 && 1 ≤ rank && rank ≤ 6
      && dims.all (fun d => d < 2 ^ 32) && low.all (fun i => dims.getD i 0 ≠ 0)
      && high.all (fun i => dims.getD i 0 = 0 && strides.getD i 0 = 0)
      && (List.range 11).all (fun i => w (13 + i) = 0) then
    some (bit (w 0) 7, dims.take rank, strides.take rank)
  else none

/-- The ply displacement of element e: indices with the last dimension fastest (19 R344). -/
def shapeOffset (dims : List Nat) (strides : List Int) (e : Nat) (w : Int) : Int :=
  let rec go (ds : List (Nat × Int)) (e : Nat) : Int :=
    match ds with
    | [] => 0
    | (d, st) :: r => ((e % d : Nat) : Int) * st * w + go r (e / d)
  go (dims.zip strides).reverse e

/-- The ply address of element i of a gather or scatter; none for a malformed record. -/
def EngCmd.plyAddr (e : EngCmd) (fmt i : Nat) : Option Int :=
  (shapeOf e.record).map fun r =>
    2 * (e.va.toNat : Int) + shapeOffset r.2.1 r.2.2 i (if r.1 then 1 else (fmtWidth fmt : Nat))

/-- Elements of unit u of a gather or scatter. -/
def EngCmd.elems (e : EngCmd) (u : Nat) : List Nat := (List.range (min 16 (e.n - 16 * u))).map fun k => 16 * u + k

/-- Where an element of a tiled page lies: the tile's address and the ply offset in its data block (19 R344); none past the
last whole tile. -/
def PageInfo.tileAt (p : PageInfo) (ply : Nat) : Option (Nat × Nat) :=
  let base := ply / 2 / 2 ^ p.size * 2 ^ p.size
  let data := 2 * tileData p.fmt p.geom
  let pos := ply - 2 * base
  let t := pos / data
  if (t + 1) * tileBytes p.fmt p.geom ≤ 2 ^ p.size then some (base + t * tileBytes p.fmt p.geom, pos % data) else none

/-- The memory places of unit u of a gather or scatter: per element its ply address, and for a tiled page its tile. -/
def State.gatherPlaces (s : State) (n : Nat) (c : Core) (e : EngCmd) (u : Nat) :
    Except UnitErr (EngLayout × List (Nat × Option (Nat × Nat))) :=
  let d := e.td
  let bad (code : Nat) (x : Int) : Except UnitErr (EngLayout × List (Nat × Option (Nat × Nat))) :=
    .error (code, (x / 2 % (2 ^ 64 : Int)).toNat)
  let vault : Bool := e.cf % 2 = 1
  let rec go (is : List Nat) (lay : Option EngLayout) (acc : List (Nat × Option (Nat × Nat))) :
      Except UnitErr (EngLayout × List (Nat × Option (Nat × Nat))) :=
    match is with
    | [] => .ok (lay.getD ⟨d.fmt, 0, d.fmt, 0⟩, acc)
    | i :: r =>
      match e.plyAddr d.fmt i with
      | none => bad 0x1C 0
      | some x =>
        if x < 0 then bad (if vault then 0x1B else 0x12) x
        else
          let p := x.toNat
          if vault then
            (if pageBlocked d.fmt then bad 0x1A x
             else if 2 * Config.vaultBytes < p + fmtWidth d.fmt then bad 0x1B x
             else go r (some (lay.getD ⟨d.fmt, 0, d.fmt, 0⟩)) (acc ++ [(p, none)]))
          else
            let write : Bool := e.op = 5
            let last := (p + fmtWidth d.fmt - 1) / 2
            match s.accessPage n c (p / 2) write, s.accessPage n c last write with
            | .error y, _ => .error y
            | .ok q, tail =>
              let l : EngLayout := ⟨q.fmt, q.geom, q.fmt, q.geom⟩
              let ends : Option UnitErr :=
                if q.geom ≠ 0 || inBlock (p / 2) (last + 1 - p / 2) then none
                else match tail with
                  | .error y => some y
                  | .ok r => if r.fmt ≠ q.fmt || r.geom ≠ q.geom then some (0x1A, last) else none
              if let some y := ends then .error y
              else if q.fmt ≠ d.fmt || pageBlocked q.fmt || q.fmt = 0 || (lay.getD l) ≠ l then bad 0x1A x
              else if q.geom = 0 then go r (some l) (acc ++ [(p, none)])
              else
                match q.tileAt p with
                | none => bad 0x1B x
                | some t => if 2 * tileData q.fmt q.geom < t.2 + fmtWidth d.fmt then bad 0x1B x
                            else go r (some l) (acc ++ [(p, some t)])
  let dims := match shapeOf e.record with
    | some r => r.2.1.foldl (· * ·) 1
    | none => 0
  if dims < e.n then .error (0x1C, e.vb.toNat) else go (e.elems u) e.layout []

/-- A unit's page checks on one side of a streaming command (19 R335, R338). -/
def State.sideCheck (s : State) (n : Nat) (c : Core) (e : EngCmd) (va fmt geom u : Nat) (write : Bool) : Except UnitErr Unit :=
  match s.accessPage n c va write with
  | .error x => .error x
  | .ok p =>
    if p.fmt ≠ fmt || p.geom ≠ geom then .error (0x1A, va)
    else if geom ≠ 0 && u % e.group = 0 && !p.tileFits va then .error (0x1B, va)
    else .ok ()

/-- Counts that must cover whole tiles, and a conversion's alignments (19 R338, R342). -/
def EngCmd.aligned (e : EngCmd) (l : EngLayout) : Bool :=
  if e.op = 3 then
    let el := tileEdge l.sgeom * tileEdge l.sgeom
    e.n % 32 = 0 && e.va.toNat % 64 = 0 && e.vb.toNat % 64 = 0 && (l.sgeom = 0 || e.n % el = 0)
      && (l.sgeom ≠ 0 || !pageBlocked l.sfmt || e.va.toNat % 1024 = 0)
      && (l.dgeom ≠ 0 || !pageBlocked l.dfmt || e.vb.toNat % 1024 = 0)
  else if e.op = 0x0C then true
  else if e.op = 2 || !l.tiled then true
  else e.n / 64 % max l.srcLines 1 = 0 && e.n / 64 % max (tileBytes l.dfmt l.dgeom / 64) 1 = 0

/-- The vault range of a transposition that its tiles overrun, where the page has changed since the check at issue: the vault address
(19 R332, R341). -/
def EngCmd.overrun (e : EngCmd) (l : EngLayout) : Option Nat :=
  let len := bits e.n 16 16 * bits e.n 0 16 * tileBytes l.sfmt l.sgeom
  if e.op = 2 && e.srcVault && !vaultSideOk e.va.toNat len then some e.va.toNat
  else if e.op = 2 && e.dstVault && !vaultSideOk e.vb.toNat len then some e.vb.toNat
  else none

/-- The line of its destination that line u of a copy or transposition becomes: tile (i, j) of a transposition goes to (j, i)
(19 R339, R341). -/
def EngCmd.lineAt (e : EngCmd) (l : EngLayout) (u : Nat) : Nat :=
  if e.op = 2 then
    let t := max l.srcLines 1
    let nc := bits e.n 0 16
    let nr := bits e.n 16 16
    let k := u / t
    (k % nc * nr + k / nc) * t + u % t
  else u

/-- The layout and the pieces (addresses and lengths) that unit u reads, or the unit's fault. -/
def State.unitPieces (s : State) (n : Nat) (c : Core) (e : EngCmd) (u : Nat) : Except UnitErr (EngLayout × List (Nat × Nat)) :=
  if e.op = 4 || e.op = 5 then
    match s.gatherPlaces n c e u with
    | .error x => .error x
    | .ok (l, ps) =>
      let w := fmtWidth (e.td).fmt
      let tiles := (ps.filterMap fun p => p.2.map fun t => t.1).eraseDups
      if l.sgeom ≠ 0 then .ok (l, tiles.map fun a => (a, tileBytes l.sfmt l.sgeom))
      else .ok (l, ps.flatMap fun p =>
        let len := (p.1 % 2 + w + 1) / 2
        if e.cf % 2 = 1 then [(p.1 / 2, len)] else cutBlocks 3 (p.1 / 2) len)
  else
    let lay : Except UnitErr EngLayout := match e.layout with
      | some l => .ok l
      | none => s.engLayout n c e
    match lay with
    | .error x => .error x
    | .ok l =>
      let e := { e with layout := some l }
      if !e.aligned l then .error (0x1B, e.va.toNat)
      else if let some x := e.overrun l then .error (0x1B, x)
      else
        let src := if e.op = 3 then convPieces l.sfmt l.sgeom e.va.toNat u else [(e.va.toNat + 64 * u, 64)]
        let dst := if e.op = 3 then convPieces l.dfmt l.dgeom e.vb.toNat u else [(e.vb.toNat + 64 * e.lineAt l u, 64)]
        let srcErr := if e.srcVault then [] else src.filterMap fun p =>
          match s.sideCheck n c e p.1 l.sfmt l.sgeom u false with | .error x => some x | .ok _ => none
        let dstErr := if e.dstVault || ackOp e.op then [] else dst.filterMap fun p =>
          match s.sideCheck n c e p.1 l.dfmt l.dgeom u true with | .error x => some x | .ok _ => none
        match srcErr ++ dstErr with
        | x :: _ => .error x
        | [] => .ok (l, src)

/-- Adds a piece that is not yet there. -/
def EngCmd.addUnit (e : EngCmd) (u : Nat) (ps : List (Nat × Nat)) : EngCmd :=
  { e with units := (e.units.filter fun x => x.idx ≠ u) ++ ps.mapIdx fun i p => ⟨u, i, p.2, 0, none, false⟩ }

/-- A piece's data arrives. -/
def EngCmd.fill (e : EngCmd) (u piece data : Nat) (poison : Option Nat) : EngCmd :=
  { e with units := e.units.map fun x =>
      if x.idx = u && x.piece = piece then { x with data := data, poison := poison, there := true } else x }

/-- The data of a unit, its pieces joined in order. -/
def EngCmd.unitData (e : EngCmd) (u : Nat) : Nat :=
  ((e.units.filter fun x => x.idx = u).foldr (fun x acc => x.data % 2 ^ (8 * x.len) + acc * 2 ^ (8 * x.len)) 0)

/-- Bytes of a unit. -/
def EngCmd.unitLen (e : EngCmd) (u : Nat) : Nat := ((e.units.filter fun x => x.idx = u).map fun x => x.len).foldl (· + ·) 0

/-- The data of the group of unit u, its units joined in order. -/
def EngCmd.groupData (e : EngCmd) (u : Nat) : Nat :=
  let g := e.group
  (List.range g).foldr (fun i acc => e.unitData (u / g * g + i) + acc * 2 ^ (8 * e.unitLen (u / g * g + i))) 0

/-- Every piece of a unit is there. -/
def EngCmd.unitThere (e : EngCmd) (u : Nat) : Bool := (e.units.filter fun x => x.idx = u).all fun x => x.there

/-- The first poisoned line of a unit. -/
def EngCmd.unitPoison (e : EngCmd) (u : Nat) : Option Nat :=
  (e.units.find? fun x => x.idx = u && x.poison.isSome).bind fun x => x.poison

/-- Issues the reads of the pieces of unit u of core n, numbered from the first: own-vault bytes are sampled, global ones are
accesses whose data is due at landAt (19 R339). -/
def State.readPieces (s : State) (n id u first landAt : Nat) (vault : Bool) (ps : List (Nat × Nat)) : State :=
  (ps.zipIdx first).foldl (fun s p =>
    if vault then
      let c := s.core n
      let v := Store.num c.vault p.1.1 p.1.2
      s.updCore n fun c =>
        let c := c.updEng id fun e => e.fill u p.2 v none
        { c with engBanks := c.engBanks ++ [(((c.eng? id).map fun e => e.block).getD 0, p.1.1, p.1.2)] }
    else s.issueGlobal srcE p.1.1 p.1.2 landAt (.load p.1.2 (.engine id u p.2) none) (some id)) s

/-- The register plies that unit u of a scatter reads: one piece for each element (19 R344). -/
def Core.scatterUnit (c : Core) (e : EngCmd) (u : Nat) : EngCmd :=
  let d := e.td
  let w := fmtWidth d.fmt
  let val (i : Nat) : Nat := (c.plyVals (d.ply 0 (i / d.cols) (i % d.cols)) w).getD (i % d.cols % 128) 0
  { e with units := e.units ++ (e.elems u).mapIdx fun k i => ⟨u, k, (w + 1) / 2, val i, none, true⟩ }

/-- The first piece of a scatter's unit that is a tile of its destination: its elements come before (19 R344). -/
def tilePiece : Nat := 16

/-- The tiles of the destination that unit u of a scatter touches are read whole, to be verified before they are written (19 R344):
their data is due GLAT after the register read's next cycle. -/
def State.readTiles (s : State) (n : Nat) (e : EngCmd) (u : Nat) (l : EngLayout) (ps : List (Nat × Nat)) : State :=
  if l.dgeom = 0 then s
  else
    let tiles := ps.mapIdx fun i p => (⟨u, tilePiece + i, p.2, 0, none, false⟩ : EngUnit)
    let s := s.updCore n fun c => c.updEng e.id fun e => { e with units := e.units ++ tiles }
    s.readPieces n e.id u tilePiece (e.readAt u + 1 + Config.glat) false ps

/-- The read of unit u of a command on its read cycle. -/
def State.readUnit (s : State) (n : Nat) (e : EngCmd) (u : Nat) : State :=
  let c := s.core n
  if e.oneCycle then
    if e.op = 0x0B then
      let s := s.updCore n fun c => c.updEng e.id fun e => { e.addUnit 0 [(e.stw + 8, 8)] with reads := 1 }
      s.readPieces n e.id 0 0 0 true [(e.stw + 8, 8)]
    else s.updCore n fun c => c.updEng e.id fun e => { e with reads := 1 }
  else
    match s.unitPieces n c e u with
    | .error x => s.updCore n fun c => c.engFault e.id x.1 x.2
    | .ok (l, ps) =>
      if e.op = 5 then
        (s.updCore n fun c => c.updEng e.id fun e => { c.scatterUnit e u with layout := some l, reads := u + 1 }).readTiles n e u l ps
      else
        let at_ := if e.op = 4 then (match s.gatherPlaces n c e u with | .ok x => [(u, x.2)] | .error _ => []) else []
        let s := s.updCore n fun c => c.updEng e.id fun e =>
          { e.addUnit u ps with layout := some l, reads := u + 1, places := e.places ++ at_ }
        let e := { e with layout := some l }
        s.readPieces n e.id u 0 (e.dataAt u) e.srcVault ps

/-! What a unit writes. -/

/-- The lines of a tile of a streaming command from its first line's unit, as a number. -/
def EngCmd.tileNum (e : EngCmd) (first lines : Nat) : Nat :=
  (List.range lines).foldr (fun i acc => e.unitData (first + i) % 2 ^ 512 + acc * 2 ^ 512) 0

/-- A tile transposed (19 R341): elements, sums exchanged, total formed again. -/
def transpose (fmt geom tile : Nat) : Nat :=
  let r := tileEdge geom
  let b := pageBits fmt
  let el (k : Nat) : Nat := tile >>> (b * k) % 2 ^ b
  let data := (List.range (r * r)).foldr (fun k acc => el (k % r * r + k / r) + acc <<< b) 0
  let sums := storedSums fmt geom tile
  let total := (canonicalSums fmt r (blockVals [] fmt (r * r) data)).getLastD 0
  let out := (sums.drop r).take r ++ sums.take r ++ [total]
  data + (out.foldr (fun x acc => x + acc <<< (8 * sumBytes fmt)) 0) <<< (8 * tileSums fmt geom)

/-- The values of unit u of a conversion (12 R213, R216). -/
def EngCmd.convVals (e : EngCmd) (book : Store 32) (l : EngLayout) (u : Nat) : List EV :=
  if l.sgeom = 0 then
    let d := e.unitData u
    if l.sfmt = 0x0B then
      let sc := s10 (d >>> (64 + 10 * (u % 108) % 8) % 1024)
      ((List.range 4).flatMap fun q => lc2Weights book (d >>> (16 * q) % 65536)).map fun v => scaled v sc
    else blockVals book l.sfmt 32 d
  else
    let el := tileEdge l.sgeom * tileEdge l.sgeom
    let g := e.group
    let d := e.groupData u
    let vs := (List.range (convTiles l.sgeom)).flatMap fun i =>
      blockVals book l.sfmt el (d >>> (8 * tileBytes l.sfmt l.sgeom * i) % 2 ^ (8 * tileBytes l.sfmt l.sgeom))
    (vs.drop (u % g * 32)).take 32

/-- The element format of a destination page: a float, or none for an integer. -/
def elemFmt (fmt : Nat) : Option FpFmt :=
  if pageFloat fmt then some (fpFmt (fmt - 1))
  else if fmt = 8 then some fE4m3 else if fmt = 9 then some fE5m2 else if fmt = 0x0A then some fE2m1 else none

/-- The E8M0 scale of an MX block (19 R342). -/
def mxScale (fmt : Nat) (vs : List EV) : Nat :=
  if vs.any EV.isNan then 255
  else
    let emax : Int := if fmt = 8 then 8 else if fmt = 9 then 15 else 2
    let m := (vs.filter fun v => v.isFin && !v.isZero).foldl (fun (b : Option EV) v =>
      match b with
      | none => some v.abs
      | some x => if evLt x v.abs then some v.abs else some x) none
    match m with
    | none => 127
    | some v => (max 0 (min 254 (ilog2 v.num.toNat v.den - emax + 127))).toNat

/-- The conversion of elements from index i on, and the block scale of an MX destination. -/
def EngCmd.convert (e : EngCmd) (fmt i : Nat) (vs : List EV) : List Conv × Nat :=
  let pol := e.cf / 8 % 4
  let mode := effMode (e.cf % 8) e.rm (rsFmts.contains fmt)
  let draw (k : Nat) : Nat := if mode = 4 then rsDraw e.seed e.schedCyc 2 0 0 k else 0
  let sc := if 8 ≤ fmt && fmt ≤ 0x0A then mxScale fmt vs else 127
  let inv : EV := if sc = 255 then .nan false else EV.pow2 false 1 (127 - (sc : Int))
  (vs.mapIdx fun k v =>
    match elemFmt fmt with
    | some f => convFloat f mode pol (draw (i + k)) (if sc = 127 then v else (evMul v inv).1)
    | none => convInt (pageSigned fmt) (pageBits fmt) mode pol v, sc)

/-- An element that the conversion check leaves out (07 R116). -/
def leftOut (fmt : Nat) (x : Conv) : Bool :=
  match elemFmt fmt with
  | some f => x.flags.overflow || !(decodeFp f x.code).isFin || x.flags.invalid
  | none => x.flags.invalid

/-- The converted elements of unit u, and their block scale. -/
def EngCmd.convUnit (e : EngCmd) (book : Store 32) (l : EngLayout) (u : Nat) : List Conv × Nat :=
  e.convert l.dfmt (32 * u) (e.convVals book l u)

/-- The blocks of unit u that convert with one scale each, with the index of their first element: a tile of 4 × 4 is a block of its own
(12 R213, 19 R342). -/
def EngCmd.unitBlocks (e : EngCmd) (book : Store 32) (l : EngLayout) (u : Nat) : List (Nat × List EV) :=
  let vs := e.convVals book l u
  if l.dgeom = 1 then [(32 * u, vs.take 16), (32 * u + 16, vs.drop 16)] else [(32 * u, vs)]

/-- The conversions of the elements of unit u, each in its block. -/
def EngCmd.unitConvs (e : EngCmd) (book : Store 32) (l : EngLayout) (u : Nat) : List Conv :=
  (e.unitBlocks book l u).flatMap fun b => (e.convert l.dfmt b.1 b.2).1

/-- Codes packed as a little-endian number. -/
def packCodes (b : Nat) (cs : List Nat) : Nat := cs.foldr (fun x acc => x % 2 ^ b + acc <<< b) 0

/-- A destination tile of a conversion, from its group's first unit (12 R225). -/
def EngCmd.convTile (e : EngCmd) (book : Store 32) (l : EngLayout) (first i : Nat) : Nat :=
  let el := tileEdge l.dgeom * tileEdge l.dgeom
  let vs := ((List.range e.group).flatMap fun k => e.convVals book l (first + k))
  let mine := (vs.drop (i * el)).take el
  let base := 32 * first + i * el
  let blocks := (el + 31) / 32
  let cv := (List.range blocks).map fun b => e.convert l.dfmt (base + 32 * b) ((mine.drop (32 * b)).take 32)
  let b := elemBits l.dfmt
  let data := packCodes (32 * b) (cv.map fun x => packCodes b (x.1.map fun y => y.code))
  let data := if 8 ≤ l.dfmt && l.dfmt ≤ 0x0A then
      data + packCodes 8 (cv.map fun x => x.2) <<< (32 * b * blocks)
    else data
  regenTile [] l.dfmt l.dgeom data

/-- What unit u of a conversion writes: addresses and bytes (19 R342, 12 R213). -/
def EngCmd.convOut (e : EngCmd) (book : Store 32) (l : EngLayout) (u : Nat) : List (Nat × List Byte) :=
  let vb := e.vb.toNat
  if l.dgeom = 0 then
    let (cs, sc) := e.convUnit book l u
    let data := packCodes (elemBits l.dfmt) (cs.map fun x => x.code)
    if pageBlocked l.dfmt then
      let per := if l.dfmt = 0x0A then 60 else 31
      let ps := segPieces l.dfmt u
      let pad := if u % per = per - 1 then
          (if l.dfmt = 0x0A then [(vb + u / per * 1024 + 1020, numBytes 4 0)] else [(vb + u / per * 1024 + 1023, numBytes 1 0)])
        else []
      match ps with
      | [a, b] => [(vb + a.1, numBytes a.2 data), (vb + b.1, numBytes 1 sc)] ++ pad
      | _ => []
    else [(vb + u * 4 * pageBits l.dfmt, numBytes (4 * pageBits l.dfmt) data)]
  else
    let g := e.group
    let tb := tileBytes l.dfmt l.dgeom
    let first := u / g * g
    if g = 1 then (List.range (convTiles l.dgeom)).map fun i =>
      (vb + (u * convTiles l.dgeom + i) * tb, numBytes tb (e.convTile book l first i))
    else
      let t := e.convTile book l first 0
      let p := unitSpan l.dfmt l.dgeom g (u % g)
      [(vb + u / g * tb + p.1, numBytes p.2 (t >>> (8 * p.1)))]

/-- What line u of a copy or transposition writes. -/
def EngCmd.lineOut (e : EngCmd) (book : Store 32) (l : EngLayout) (u : Nat) : Nat × List Byte :=
  let vb := e.vb.toNat
  if !l.tiled then (vb + 64 * u, numBytes 64 (e.unitData u))
  else
    let t := max l.srcLines 1
    let tile := e.tileNum (u / t * t) t
    if e.op = 2 then (vb + 64 * e.lineAt l u, numBytes 64 (transpose l.sfmt l.sgeom tile >>> (512 * (u % t))))
    else
      let out := if l.dgeom ≠ 0 && !e.dstVault then regenTile book l.dfmt l.dgeom tile else tile
      (vb + 64 * u, numBytes 64 (out >>> (512 * (u % t))))

/-- The conversion check of 07 R116 on the elements of a unit: their sources, scaled as the output is, and the values that they have
become. Elements left out count in neither sum. -/
def convHolds (fmt : Nat) (inv : EV) (vs : List EV) (cs : List Conv) : Bool :=
  let kept := (vs.zip cs).filter fun p => !leftOut fmt p.2
  let y (c : Conv) : EV :=
    match elemFmt fmt with
    | some f => decodeFp f c.code
    | none => let b := pageBits fmt
              EV.ofInt (if pageSigned fmt && c.code.testBit (b - 1) then (c.code % 2 ^ b : Int) - 2 ^ b else (c.code % 2 ^ b : Nat))
  let diff := (evSum 0 (EV.zero :: kept.flatMap fun p => [y p.2, (scaled p.1 inv).negate])).1
  let mags := (evSum 0 (EV.zero :: kept.map fun p => (scaled p.1 inv).abs)).1
  let n := vs.length
  let bound : EV := match elemFmt fmt with
    | some f => (evSum 0 [scaled mags (EV.pow2 false 1 (-(f.fb : Int))), EV.pow2 false n (1 - (f.bias : Int) - f.fb)]).1
    | none => EV.ofInt n
  !evLt bound diff.abs

/-- The conversion check of unit u (07 R116). -/
def EngCmd.convOk (e : EngCmd) (book : Store 32) (l : EngLayout) (u : Nat) : Bool :=
  (e.unitBlocks book l u).all fun b =>
    let r := e.convert l.dfmt b.1 b.2
    r.2 = 255 || convHolds l.dfmt (EV.pow2 false 1 (127 - (r.2 : Int))) b.2 r.1

/-- The tiles that a group's first unit holds verify (07 R115), and a conversion's units pass their check (07 R116). -/
def EngCmd.groupOk (e : EngCmd) (book : Store 32) (l : EngLayout) (first : Nat) : Bool :=
  if e.op = 3 then
    let tb := tileBytes l.sfmt l.sgeom
    (l.sgeom = 0 || (List.range (convTiles l.sgeom)).all fun i =>
      tileVerifies book l.sfmt l.sgeom (e.groupData first >>> (8 * tb * i) % 2 ^ (8 * tb)))
      && (List.range e.group).all fun k => e.convOk book l (first + k)
  else if e.op = 4 then
    (e.units.filter fun x => x.idx = first).all fun x => tileVerifies book l.sfmt l.sgeom x.data
  else if e.op = 5 then
    (e.units.filter fun x => x.idx = first && tilePiece ≤ x.piece).all fun x => tileVerifies book l.dfmt l.dgeom x.data
  else tileVerifies book l.sfmt l.sgeom (e.tileNum first (max l.srcLines 1))

/-- The command ends with POISON or ASSAY: the pending error is set (19 R335). -/
def Core.engEnd (c : Core) (id code addr : Nat) : Core :=
  (c.updEng id fun e => { e with fault := some (code, addr), ended := true }).setPoison addr

/-- The units of the verification group of unit u. -/
def EngCmd.groupUnits (e : EngCmd) (u : Nat) : List Nat :=
  let g := e.group
  (List.range g).map fun i => u / g * g + i

/-- The pieces of a unit are to be read again: those of a scatter's tiles, or all. -/
def EngCmd.renew (e : EngCmd) (u : Nat) (ps : List (Nat × Nat)) : EngCmd :=
  if e.op = 5 then
    { e with units := e.units.map fun x => if x.idx = u && tilePiece ≤ x.piece then { x with there := false } else x }
  else e.addUnit u ps

/-- A group that has failed is to be read again on the cycles that follow (19 R338). DESIGN CHOICE (log 31): its units are read one a
cycle, and what is left of them on the last cycle before the group's first write, since the write waits for the whole group. -/
def State.retryGroup (s : State) (n : Nat) (e : EngCmd) (first : Nat) : State :=
  s.updCore n fun c => c.updEng e.id fun e =>
    { e with
      retries := first :: e.retries, retried := true,
      redo := e.redo ++ (e.groupUnits first).mapIdx fun i u => (min (c.sched + 1 + i) (e.writeAt first - 1), u) }

/-- The reads of unit u of a failed group again, due at the write cycle of its group's first unit (19 R338). -/
def State.rereadUnit (s : State) (n : Nat) (e : EngCmd) (u : Nat) : State :=
  match s.unitPieces n (s.core n) e u with
  | .error x => s.updCore n fun c => c.engFault e.id x.1 x.2
  | .ok (_, ps) =>
    let s := s.updCore n fun c => c.updEng e.id fun e => { e.renew u ps with redo := e.redo.filter fun r => r.2 ≠ u }
    s.readPieces n e.id u (if e.op = 5 then tilePiece else 0) (e.writeAt (u / e.group * e.group)) e.srcVault ps

/-- The data that unit u's group was to read again has come, or none was. -/
def EngCmd.groupIn (e : EngCmd) (u : Nat) : Bool :=
  (e.groupUnits u).all fun k => !e.redo.any (fun r => r.2 = k) && e.unitThere k

/-- The cycle on which the data that is checked of unit u has come: a scatter's tiles are due GLAT after its registers. -/
def EngCmd.checkAt (e : EngCmd) (u : Nat) : Nat := e.dataAt u + if e.op = 5 then 1 + Config.glat else 0

/-- A group whose last data has come on this cycle is verified; a failure is retried once. -/
def State.verifyNow (s : State) (n : Nat) (e : EngCmd) : State :=
  let c := s.core n
  match e.layout with
  | none => s
  | some l =>
    if !e.checks || c.sched < e.checkAt 0 then s
    else
      let u := c.sched - e.checkAt 0
      let first := u / e.group * e.group
      if u < e.reads && u % e.group = e.group - 1 && !e.retries.contains first
          && (e.groupUnits first).all (fun k => e.unitThere k && (e.unitPoison k).isNone)
          && !e.groupOk c.codebook l first then s.retryGroup n e first
      else s

/-- A store of an engine would take ACKC past its limit, or be the 65th operation held after a REL (11 R198, R199). -/
def State.storeChecks (s : State) (va : Nat) : Bool := !(s.globalChecks va false).isEmpty

/-- A write of a timed command to a global address is a store issued now (19 R339). DEDUCED (log 31): one that a limit of ACKC or of the
held operations turns away raises TIMING at the next boundary, and is issued again after the return. -/
def State.engStore (s : State) (n id va len : Nat) (k : GlobalKind) : State :=
  if s.storeChecks va then
    s.updCore n fun c =>
      { c.updEng id fun e => { e with again := e.again ++ [(va, len, k)] } with
        causes := c.causes ++ [⟨c.sched + 1, c.sched, .timing, c.pc, 0, 0, 0⟩] }
  else
    let acc := s.nextId
    let landAt := (s.core n).sched + Config.glat
    let s := s.issueGlobal srcE va len landAt k (some id)
    s.updCore n fun c => c.updEng id fun e => { e with pend := acc :: e.pend }

/-- The stores of a command that were turned away issue again (19 R335). -/
def State.engAgain (s : State) (n : Nat) (e : EngCmd) : State :=
  e.again.foldl (fun s x => s.engStore n e.id x.1 x.2.1 x.2.2)
    (s.updCore n fun c => c.updEng e.id fun e => { e with again := [] })

/-- Bytes written by a timed command: to the vault on this cycle, or as global stores. -/
def State.engWrite (s : State) (n : Nat) (e : EngCmd) (outs : List (Nat × List Byte)) : State :=
  outs.foldl (fun s o =>
    if e.dstVault then s.updCore n fun c => c.pushAt c.sched (8 + e.block) c.sched (.perform n o.1 o.2 true)
    else (cutBlocks 3 o.1 o.2.length).foldl (fun s p =>
      s.engStore n e.id p.1 p.2 (.store ((o.2.drop (p.1 - o.1)).take p.2))) s) s

/-- An element of w plies at a ply address is stored, cut where it crosses into another page (19 R344). -/
def State.elemStore (s : State) (n id ply w v : Nat) : State :=
  let a := ply / 2
  let nib := ply % 2
  let room := 2 * (4096 - a % 4096) - nib
  if w ≤ room then s.engStore n id a ((nib + w + 1) / 2) (.storePlies nib w v)
  else
    let s := s.engStore n id a ((nib + room + 1) / 2) (.storePlies nib room (v % 2 ^ (4 * room)))
    s.engStore n id ((ply + room) / 2) ((w - room + 1) / 2) (.storePlies 0 (w - room) (v >>> (4 * room)))

/-- Unit u of a scatter is written (19 R344). -/
def State.scatterWrite (s : State) (n : Nat) (e : EngCmd) (l : EngLayout) (u : Nat) : State :=
  let c := s.core n
  let w := fmtWidth (e.td).fmt
  match s.gatherPlaces n c e u with
  | .error x => s.updCore n fun c => c.engFault e.id x.1 x.2
  | .ok (_, ps) =>
    let vals := (e.units.filter fun x => x.idx = u && x.piece < tilePiece).map fun x => x.data
    let items := ps.zip vals
    if e.dstVault then
      items.foldl (fun s p => s.updCore n fun c =>
        c.pushAt c.sched (8 + e.block) c.sched (.performPlies p.1.1 w p.2)) s
    else if l.dgeom = 0 then
      items.foldl (fun s p => s.elemStore n e.id p.1.1 w p.2) s
    else
      let tiles := (ps.filterMap fun p => p.2.map fun t => t.1).eraseDups
      tiles.foldl (fun s a =>
        let es := items.filterMap fun p => p.1.2.bind fun t => if t.1 = a then some (t.2, w, p.2) else none
        s.engStore n e.id a (tileBytes l.dfmt l.dgeom) (.storeTile l.dfmt l.dgeom es)) s

/-- The completion count of a command after k units. -/
def EngCmd.countOf (e : EngCmd) (k : Nat) : Nat :=
  match e.op with
  | 3 => min e.n (32 * k)
  | 4 | 5 => min e.n (16 * k)
  | 2 => match e.layout with | some l => k / max l.srcLines 1 | none => 0
  | _ => 64 * k

/-- The physical address of the first line of unit u's group that fails its check (19 R335): that of the first tile that does not
verify, or of the unit's data. -/
def State.failingLine (s : State) (n : Nat) (e : EngCmd) (l : EngLayout) (u : Nat) : Nat :=
  let c := s.core n
  let bad (fmt geom : Nat) (ts : List (Nat × Nat)) (d : Nat) : Nat :=
    ((ts.find? fun t => !tileVerifies c.codebook fmt geom t.2).map fun t => t.1).getD d
  let pieces (k : Nat) : List Nat := (e.units.filter fun x => x.idx = u && k ≤ x.piece).map fun x => x.data
  let va :=
    if e.op = 3 then
      let d := ((convPieces l.sfmt l.sgeom e.va.toNat u).map fun p => p.1).headD e.va.toNat
      let tb := tileBytes l.sfmt l.sgeom
      if l.sgeom = 0 then d
      else bad l.sfmt l.sgeom ((List.range (convTiles l.sgeom)).map fun i =>
        (e.va.toNat + (u / e.group * convTiles l.sgeom + i) * tb, e.groupData u >>> (8 * tb * i) % 2 ^ (8 * tb))) d
    else if e.op = 4 || e.op = 5 then
      match s.unitPieces n c e u with
      | .ok (_, ps) => bad l.sfmt l.sgeom ((ps.map fun p => p.1).zip (pieces (if e.op = 5 then tilePiece else 0))) e.va.toNat
      | .error _ => e.va.toNat
    else e.va.toNat + 64 * u
  match s.pageOf n c va with
  | .ok p => p.pa va
  | .error _ => va

/-- The first unit of a group finds its data poisoned or failing (19 R335): code and address. -/
def State.groupFault (s : State) (n : Nat) (e : EngCmd) (l : EngLayout) (u : Nat) : Option UnitErr :=
  let c := s.core n
  let units := if u % e.group = 0 && (l.tiled || e.op = 2) then e.groupUnits u else [u]
  match units.findSome? e.unitPoison with
  | some pa => some (0x18, pa)
  | none =>
    if e.checks && u % e.group = 0 && !e.groupOk c.codebook l u then
      some (0x19, s.failingLine n e l u)
    else none

/-- The write of unit u of a timed command on its write cycle, gather apart. -/
def State.writeUnit (s : State) (n : Nat) (e : EngCmd) (u : Nat) : State :=
  let c := s.core n
  match e.layout with
  | none => s
  | some l =>
    match s.groupFault n e l u with
    | some x => s.updCore n fun c => c.engEnd e.id x.1 x.2
    | none =>
      let left := if e.op = 3 then ((e.unitConvs c.codebook l u).filter (leftOut l.dfmt)).length else 0
      let s := s.updCore n fun c => c.updEng e.id fun e =>
        { e with writes := u + 1, count := e.countOf (u + 1), satur := e.satur + left }
      match e.op with
      | 3 => s.engWrite n e (e.convOut c.codebook l u)
      | 5 => s.scatterWrite n e l u
      | _ => s.engWrite n e [e.lineOut c.codebook l u]

/-- Unit u of a gather lands its plies (19 R344): the weakest of the cycle's landings (10 R175). -/
def State.gatherLand (s : State) (n : Nat) (e : EngCmd) (u : Nat) : State :=
  match e.layout, e.places.find? fun p => p.1 = u with
  | some l, some (_, ps) =>
    match s.groupFault n e l u with
    | some x => s.updCore n fun c => c.engEnd e.id x.1 x.2
    | none =>
      let d := e.td
      let w := fmtWidth d.fmt
      let tiles := (ps.filterMap fun p => p.2.map fun t => t.1).eraseDups
      let pieces := e.units.filter fun x => x.idx = u
      let start (k : Nat) : Nat := (ps.take k).foldl (fun a p => a + (p.1 % 2 + w + 1) / 2) 0
      let val (k : Nat) (p : Nat × Option (Nat × Nat)) : Nat :=
        match p.2 with
        | some t => ((pieces.getD (tiles.idxOf t.1) ⟨u, 0, 0, 0, none, true⟩).data >>> (4 * t.2)) % 2 ^ (4 * w)
        | none => (e.unitData u >>> (8 * start k + 4 * (p.1 % 2))) % 2 ^ (4 * w)
      let elems := (e.elems u).zip (ps.mapIdx val)
      s.updCore n fun c =>
        let c := c.updEng e.id fun e =>
          { e with writes := u + 1, count := e.countOf (u + 1), places := e.places.filter fun p => p.1 ≠ u }
        elems.foldl (fun c p =>
          let lane := p.1 % d.cols % 128
          c.landPlies (d.ply 0 (p.1 / d.cols) (p.1 % d.cols)) w (BitVec.ofNat 128 (2 ^ lane))
            (lanes.map fun x => if x = lane then p.2 else 0)) c
  | _, _ => s

/-! One schedule cycle of the engines of a core. -/

/-- The engines' commands that move in this cycle: in a handler, those that it started (19 R336). -/
def Core.movingCmds (c : Core) : List EngCmd :=
  c.engines.filter fun e => (!c.handler || e.handler) && e.fault.isNone && !e.ended

/-- Units of gathers land before the bundle issues. -/
def State.engLand (s : State) (n : Nat) : State :=
  ((s.core n).movingCmds.filter fun e => e.op = 4).foldl (fun s e =>
    let u := e.writes
    if (e.total.any fun t => u < t) && e.started && e.writeAt u ≤ (s.core n).sched && u < e.reads then s.gatherLand n e u
    else s) s

/-- A conversion's unit that writes on this cycle meets a trap case of policy 11 (19 R342). -/
def Core.engCvt (c : Core) : Option EngCmd :=
  c.movingCmds.find? fun e =>
    e.op = 3 && e.cf / 8 % 4 = 3 && e.started && e.writes < e.reads && e.writeAt e.writes ≤ c.sched
      && !e.cvtDone.contains e.writes
      && match e.layout with
        | some l => (e.unitConvs c.codebook l e.writes).any fun x => x.trap
        | none => false

/-- The index under which the pieces of a command's shape record stand among its units. -/
def recordUnit : Nat := 2 ^ 32

/-- A piece of a command's shape record has come; once all are there the command has its record, and it enters the record cache if
no RFENCE has come between (11 R205). -/
def Core.takeRecord (c : Core) (cmd piece v : Nat) (fill : Bool) : Core :=
  let c := c.updEng cmd fun e => e.fill recordUnit piece v none
  match c.eng? cmd with
  | none => c
  | some e =>
    if e.unitThere recordUnit then
      let words := (List.range 24).map fun k => BitVec.ofNat 64 (e.unitData recordUnit >>> (64 * k))
      let c := c.updEng cmd fun e => { e with record := words, units := e.units.filter fun x => x.idx ≠ recordUnit }
      if fill then { c with recs := (⟨e.vb.toNat, words⟩ :: c.recs.filter fun r => r.addr != e.vb.toNat).take 16 } else c
    else c

/-- The shape record is asked for on the start cycle, page by page, and serves GLAT cycles later (19 R344, 11 R205). -/
def State.fetchRecord (s : State) (n : Nat) (e : EngCmd) : State :=
  let c := s.core n
  let a := e.vb.toNat
  match c.recs.find? fun r => r.addr = a with
  | some r => s.updCore n fun c =>
      { c.updEng e.id fun e => { e with record := r.words } with recs := r :: c.recs.filter fun x => x.addr ≠ a }
  | none =>
    let ps := cutBlocks 2 a 192
    let s := s.updCore n fun c => c.updEng e.id fun e => e.addUnit recordUnit ps
    ps.zipIdx.foldl (fun s p =>
      s.issueGlobal srcE p.1.1 p.1.2 (c.sched + Config.glat) (.load p.1.2 (.record e.id p.2 true) none) (some e.id)) s

/-- A command starts on its start cycle. -/
def State.startCmd (s : State) (n : Nat) (e : EngCmd) : State :=
  let s := s.updCore n fun c => c.updEng e.id fun x =>
    { x with started := true, view := BitVec.ofNat 64 (c.ctl (32 + e.tdn)) }
  if e.op = 4 || e.op = 5 then s.fetchRecord n e
  else
    let absent : Bool := e.op = 0x0C && !(s.fabric.entry (bits e.vc.toNat 53 8)).valid
    let s := if absent then s.updCore n fun c => (c.engFault e.id 3 0).updEng e.id fun e => { e with streamDone := true }
      else s
    if absent then s.plan (s.chip + 1) (.engineComplete n e.id)
    else if ackOp e.op && !e.held then s.planFree (.engineComplete n e.id) else s

/-- The shape record of a gather or scatter is malformed on the cycle on which it serves (19 R344). -/
def EngCmd.recordBad (e : EngCmd) (sched : Nat) : Bool :=
  (e.op = 4 || e.op = 5) && e.started && e.fault.isNone && !e.ended && e.readAt 0 = sched &&
    match shapeOf e.record with
    | some r => decide (r.2.1.foldl (· * ·) 1 < e.n)
    | none => true

/-- The reads and writes of one command that are due (19 R339 to R344). A fault stops its later reads, and the units before it keep
their cycles (19 R335). -/
def State.moveCmd (s : State) (n id : Nat) : State :=
  let sched := (s.core n).sched
  let going (s : State) (f : EngCmd → State) : State :=
    match (s.core n).eng? id with
    | some e => if !e.ended then f e else s
    | none => s
  let step (s : State) (f : EngCmd → State) : State := going s fun e => if e.fault.isNone then f e else s
  let s := step s fun e => if e.again.isEmpty then s else s.engAgain n e
  let s := step s fun e => if !e.started && e.start ≤ sched then s.startCmd n e else s
  let s := step s fun e =>
    let more := match e.total with
      | some t => e.reads < t
      | none => e.reads = 0
    if e.started && more && e.readAt e.reads ≤ sched then s.readUnit n e e.reads else s
  let s := step s fun e =>
    if e.started && !e.streamDone && (e.total.any fun t => t ≤ e.reads) then
      s.updCore n fun c => c.updEng id fun e => { e with streamDone := true }
    else s
  let s := (((s.core n).eng? id).map fun e => (e.redo.filter fun r => r.1 ≤ sched).map fun r => r.2).getD [] |>.foldl
    (fun s u => step s fun e => s.rereadUnit n e u) s
  let s := going s fun e => if ackOp e.op then s else s.verifyNow n e
  going s fun e =>
    if !ackOp e.op && e.op ≠ 4 && e.writes < e.reads && e.writeAt e.writes ≤ sched && e.groupIn e.writes then s.writeUnit n e e.writes
    else s

/-- The engines' work of this cycle, after the bundle has issued. -/
def State.engGo (s : State) (n : Nat) : State :=
  let ids := (s.core n).movingCmds.map fun e => e.id
  ids.foldl (fun s id => s.moveCmd n id) s

/-- The completion value of a command (19 R333). -/
def EngCmd.completion (e : EngCmd) : Word :=
  let code := match e.fault with
    | some f => f.1
    | none => if e.retried then 0x21 else if e.op = 3 && e.satur ≠ 0 then 0x20 else 0
  BitVec.ofNat 64 (statusWord true e.fault.isSome code e.count + (if e.op = 3 then sat16 e.satur * 2 ^ 32 else 0))

/-- The queue entry of a completion value (10 R185). -/
def EngCmd.entry (e : EngCmd) (v : Word) : Word :=
  BitVec.ofNat 64 (bits v.toNat 62 2 * 2 ^ 62 + bits v.toNat 48 8 * 2 ^ 48 + e.pc % 2 ^ 16 * 2 ^ 32 + v.toNat % 2 ^ 32)

/-- A store of a command has not performed. -/
def Core.stillPending (c : Core) (ids : List Nat) : Bool :=
  c.globals.any fun a => ids.contains a.id && !a.performed

/-- Timed commands whose last write has performed end (19 R333). The entry of one that poison or a failed verification ended does not
wait for its earlier writes. -/
def Core.engFinish (c : Core) : Core :=
  let cut := c.engines.filter fun e => !ackOp e.op && e.ended && e.post
  let c := { c with engines := c.engines.map fun (e : EngCmd) => if !ackOp e.op && e.ended then { e with post := false } else e }
  let c := cut.foldl (fun c e => c.pushEng (e.entry e.completion)) c
  let done := c.engines.filter fun e =>
    !ackOp e.op && (e.ended || (e.fault.isNone && e.again.isEmpty && e.total.any fun t => t ≤ e.writes)) && !c.stillPending e.pend
  let c := { c with engines := c.engines.filter fun e => !done.any fun d => d.id = e.id }
  done.foldl (fun c e => if e.post then c.pushEng (e.entry e.completion) else c) c

end Sys2Proof.Machine
end

