-- ==== Sys2Proof/Machine/Ring.lean ====
section
/-! DEFINITION. The rings in HBM4 that the device writes (05 R89, R90, 08 R137, R138) and the MSI-X vectors. -/

namespace Sys2Proof.Machine

/-- The ring holds 2^LOG entries. -/
def Ring.size (r : Ring) : Nat := 2 ^ (r.cfg.toNat % 32)

/-- EN. -/
def Ring.on (r : Ring) : Bool := r.cfg.getLsbD 8

/-- A 16-byte entry joins a ring, or is counted as lost; nothing happens while the ring is off (05 R90). -/
def Ring.put (r : Ring) (m : Mem) (e : RingEntry) : Ring × Mem :=
  if !r.on then (r, m)
  else if r.size ≤ r.prod - r.cons then ({ r with lost := min (r.lost + 1) (2 ^ 64 - 1) }, m)
  else
    ({ r with prod := r.prod + 1 }, m.write 0 (r.base.toNat + 16 * (r.prod % r.size)) (numBytes 16 e.toNat))

/-- A write of a ring's configuration whose LOG lies in 8 to top (05 R89): EN going to 1 asks for no reserved bit and an
aligned ring, and clears the counts; while EN is 1 LOG stays; reserved bits are not kept (00 R9). -/
def Ring.configure (r : Ring) (reserved : Word) (top : Nat) (v : Word) : Ring :=
  let w := v &&& ~~~reserved
  if r.on then { r with cfg := (w &&& ~~~(0x1F#64)) ||| (r.cfg &&& 0x1F#64) }
  else if v.getLsbD 8 then
    let log := v.toNat % 32
    if v &&& reserved ≠ 0 || log < 8 || top < log || r.base.toNat % (16 * 2 ^ log) ≠ 0 then r
    else { r with cfg := v, prod := 0, cons := 0, lost := 0 }
  else { r with cfg := w }

/-- A write of a ring's base, ignored while EN is 1 (05 R89); reserved bits are not kept (00 R9). -/
def Ring.setBase (r : Ring) (v : Word) : Ring :=
  if r.on then r else { r with base := v &&& 0x7FFFFFF000#64 }

/-- A write of a ring's consumer count, applied between its old value and the producer count (05 R89). -/
def Ring.consume (r : Ring) (v : Word) : Ring :=
  if r.cons ≤ v.toNat && v.toNat ≤ r.prod then { r with cons := v.toNat } else r

/-- An MSI-X message leaves, or waits for the host link (03 R45, 01 R25). -/
def State.msix (s : State) (v : Nat) : State :=
  if s.power.hostLink then s.emit (.msix v)
  else { s with power := { s.power with msixWait := s.power.msixWait ++ [v] } }

/-- An entry of the host notification queue (05 R90, R91). -/
def State.notifyRaw (s : State) (e : RingEntry) : State :=
  let r := s.nq.put s.mem e
  let wrote := s.nq.prod < r.1.prod
  let s := { s with nq := r.1, mem := r.2 }
  if wrote && s.nq.cfg.getLsbD 9 then s.msix 48 else s

/-- An entry of a kind other than 0 for an event of a chip cycle (05 R91). -/
def State.notifyAt (s : State) (cyc kind data0 data1 : Nat) : State :=
  s.notifyRaw (BitVec.ofNat 128
    (cyc % 2 ^ 32 * 2 ^ 96 + data0 % 2 ^ 32 * 2 ^ 64 + kind * 2 ^ 57 + data1 % 2 ^ 48))

/-- An entry of a kind other than 0 for an event of the present chip cycle (05 R91). -/
def State.notifyHost (s : State) (kind data0 data1 : Nat) : State := s.notifyAt s.chip kind data0 data1

/-! The deviation trace (08 R137, R138). -/

/-- MINLOST, 0 treated as 1. -/
def Ring.minLost (r : Ring) : Nat := let m := r.cfg.toNat / 2 ^ 32; if m = 0 then 1 else m

/-- The record of an episode of lost frozen cycles. -/
def traceEntry (core lost : Nat) (e : Episode) : RingEntry :=
  BitVec.ofNat 128 (lost % 2 ^ 32 * 2 ^ 96 + e.sched % 2 ^ 40 * 2 ^ 56 + e.pc % 2 ^ 16 * 2 ^ 40 + core % 256 * 2 ^ 32
    + e.cause % 16 * 2 ^ 28 + e.detail % 2 ^ 28)

/-- Writes a record of each 2^32 - 1 cycles of an episode and one of the rest. -/
def State.traceRecords (s : State) (core full rest : Nat) (e : Episode) : State :=
  let one (s : State) (lost : Nat) : State :=
    let r := s.dbg.trc.put s.mem (traceEntry core lost e)
    { s with dbg := { s.dbg with trc := r.1 }, mem := r.2 }
  let s := (List.range full).foldl (fun s _ => one s (2 ^ 32 - 1)) s
  if rest = 0 then s else one s rest

/-- An episode that has ended on this chip cycle: its record is written with the others of the cycle. -/
def State.trace (s : State) (core : Nat) (e : Episode) : State :=
  { s with dbg := { s.dbg with ended := s.dbg.ended ++ [(core, e)] } }

/-- The records of the episodes that ended on a chip cycle, by ascending logical core; nothing below MINLOST (08 R138). -/
def State.flushTrace (s : State) : State :=
  let es := sortBy (fun a b => decide (a.1 ≤ b.1)) s.dbg.ended
  es.foldl (fun s p =>
    if p.2.lost < s.dbg.trc.minLost then s
    else s.traceRecords p.1 (p.2.lost / (2 ^ 32 - 1)) (p.2.lost % (2 ^ 32 - 1)) p.2)
    { s with dbg := { s.dbg with ended := [] } }

end Sys2Proof.Machine
end

