-- ==== Sys2Proof/Machine/Cycle.lean ====
section
/-! DEFINITION. One chip cycle of the package (09 R148 to R169): landings, freezes, traps at a boundary, the issue of a bundle,
samples and performs (log 1). -/

namespace Sys2Proof.Machine

/-! Freezes (09 R155, 08 R137). -/

/-- The episode of the trace goes on or starts (08 R137). -/
def Core.countFreeze (c : Core) (h : Hold) : Core :=
  { c with
    lag := c.lag + 1, lagCheck := true, late := h.cause = 1 || c.late,
    episode := match c.episode with
      | some e => some { e with lost := e.lost + 1 }
      | none => some ⟨h.cause, h.detail, c.schedcyc, c.pc, 1⟩ }

/-- The episode of core n has ended: its record and its sketch event (08 R137, R139). -/
def State.endEpisode (s : State) (n : Nat) : State :=
  match (s.core n).episode with
  | none => s
  | some e => ((s.trace n e).sketchAt n 1 e.pc e.lost).updCore n fun c => { c with episode := none }

/-- One frozen cycle of core n. -/
def State.freezeTick (s : State) (n : Nat) (h : Hold) : State :=
  let other := match (s.core n).episode with
    | some e => e.cause != h.cause
    | none => false
  (if other then s.endEpisode n else s).updCore n fun c => c.countFreeze h

/-- A satisfied flag wait ends on chip cycle t (09 R159). -/
def Core.endFlagWait (c : Core) (t : Nat) : Core :=
  match c.flagWait with
  | some ⟨_, _, some r⟩ =>
    if r ≤ t then { c with flagWait := none, holds := c.holds.filter fun h => h.cause != 4 } else c
  | _ => c

/-! Landings (10 R174, R175, 13 R241). -/

/-- Items whose event falls on the present schedule cycle, the weakest landing first (10 R175). -/
def Core.dueItems (c : Core) : List Item :=
  sortBy (fun a b => decide (landRank a < landRank b) || (landRank a == landRank b && decide (a.seq ≤ b.seq)))
    (c.items.filter fun i => i.due ≤ c.sched)

/-- An item that takes effect after the bundle and the samples of its chip cycle: a perform, a sync flag, a push into the
correction queue. -/
def Act.performs (a : Act) : Bool :=
  match a with
  | .perform .. | .performPlies .. | .atomic .. | .land (.flag ..) | .pushCor _ => true
  | _ => false

/-- A global result lands (11 R195, 16 R293, 07 R125). -/
def State.landGlobal (s : State) (n : Nat) (a : GlobalAcc) : State :=
  let v := a.data.getD 0
  let bad : Option Nat := a.poison.head?.map fun l => 64 * l
  s.updCore n fun c =>
    let c := c.dropGlobal a.id
    let taint (c : Core) : Core := match bad with | some p => c.setPoison p | none => c
    match a.kind with
    | .load _ (.engine cmd unit piece) _ => c.updEng cmd fun e => e.fill unit piece v bad
    | .load _ (.record cmd piece fill) _ =>
      match bad with
      | some p => c.engEnd cmd 0x18 p
      | none => c.takeRecord cmd piece v fill
    | .load _ into (some sp) =>
      if bad.isSome then c.killSpec sp else match into.dest v with | some d => c.land d | none => c
    | .load _ into none => match into.dest v with | some d => taint (c.land d) | none => taint c
    | .atomic _ _ _ _ d => taint (c.land (.scalar d (BitVec.ofNat 64 v)))
    | _ => c

/-- RFENCE: the records are dropped, and a fetch under way no longer fills the cache (11 R205). -/
def Core.dropRecords (c : Core) : Core :=
  let unfill (a : GlobalAcc) : GlobalAcc :=
    match a.kind with
    | .load k (.record cmd p _) sp => { a with kind := .load k (.record cmd p false) sp }
    | _ => a
  { c with recs := [], globals := c.globals.map unfill }

/-- The sample of a vault load of core n (16 R289): the value lands at its landing cycle. -/
def State.sampleVault (s : State) (n : Nat) (i : Item) : State :=
  match i.act with
  | .sample t addr k landAt into _ spec =>
    let v := Store.num (s.core t).vault addr k
    s.updCore n fun c =>
      let c := match spec with
        | some sp =>
          { c with addrTab := c.addrTab.map fun (e : AddrEntry) => if e.id = sp then { e with sampled := true } else e }
        | none => c
      match into.dest v with
      | some d => { c with items := c.items ++ [⟨landAt, i.src, i.issued, i.seq, .land d⟩] }
      | none => c
  | _ => s

/-- A correction lands (13 R241): CORRCNT, the sketches' class 4 (08 R139), the row charged, and the queue entry with its cycle,
which a slot can pop from the next cycle on (10 R184). -/
def State.landCorrection (s : State) (n entry row : Nat) : State :=
  let chip := s.chip
  let s := s.updCore n fun c =>
    { c with
      corrcnt := min (c.corrcnt + 1) (2 ^ 32 - 1),
      items := c.items ++ [⟨c.sched, srcT, c.sched, c.seq, .pushCor (entry + chip % 2 ^ 32)⟩], seq := c.seq + 1 }
  (s.sketch n 4 1).chargeRow n row

/-- The upset element of core n lands: ARM is cleared, and UPSETSTAT shows the chip cycle (08 R145, R146). -/
def State.fireUpset (s : State) (n ad row col : Nat) : State :=
  { s with dbg := { s.dbg with
    upsetCtl := s.dbg.upsetCtl &&& ~~~(BitVec.ofNat 64 (2 ^ 63)),
    upsetStat := BitVec.ofNat 64 (s.chip % 2 ^ 32 * 2 ^ 32 + s.dbg.upsetStat.toNat % 16) ||| 1#64,
    upsets := s.dbg.upsets ++ [⟨n, ad, row, col⟩] } }

/-- One due item that does not perform. -/
def State.landItem (s : State) (n : Nat) (i : Item) : State :=
  match i.act with
  | .land .dropRecs => s.updCore n Core.dropRecords
  | .land d | .landTrap d => s.updCore n fun c => c.land d
  | .sample .. => s.sampleVault n i
  | .openGlobal id =>
    match (s.core n).global? id with
    | some a =>
      let s := s.updCore n fun c => c.updGlobal id fun a => { a with opened := true }
      let (d, s) := s.draw
      s.plan (s.chip + 1 + d) (globalEvent n a)
    | none => s
  | .globalLand id =>
    match (s.core n).global? id with
    | some a => s.landGlobal n a
    | none => s
  | .correct entry row => s.landCorrection n entry row
  | .upsetFire ad row col => s.fireUpset n ad row col
  | .upsetVerdict b =>
    { s with dbg := { s.dbg with upsetStat := s.dbg.upsetStat ||| BitVec.ofNat 64 (2 ^ b) } }
  | _ => s

/-- Every event of the present schedule cycle of core n that comes before its bundle. -/
def State.landNow (s : State) (n : Nat) : State :=
  let due := (s.core n).dueItems.filter fun i => !i.act.performs
  let s := s.updCore n fun c =>
    { c with items := c.items.filter (fun i => c.sched < i.due || i.act.performs), engBanks := [], late := false }
  let s := due.foldl (fun s i => s.landItem n i) (s.engLand n)
  s.updCore n fun c => (if c.arrayHeld then c else c.arrayTick).passStart

/-! Bank conflicts (11 R194). -/

/-- A bank cycle: rank in the order of 11 R194, SRC code, engine block (7 for an M slot), issue cycle, the first byte and the number of
bytes, and whether it writes. -/
structure BankUse where
  rank : Nat
  src : Nat
  block : Nat
  issued : Nat
  first : Nat
  bytes : Nat
  write : Bool
  deriving DecidableEq, Repr

/-- The banks that n bytes from an offset touch (11 R191). -/
def banksOf (a n : Nat) : List Nat :=
  if n = 0 then []
  else if 32 ≤ linesOf a n then List.range 32 else (List.range (linesOf a n)).map fun i => (a / 64 + i) % 32

/-- The bank cycle of an item of the own port that samples or performs now. -/
def Item.bankUse (i : Item) : Option BankUse :=
  let use (a n : Nat) (w : Bool) : BankUse :=
    if 8 ≤ i.src then ⟨i.src - 8, 0, i.src - 8, i.issued, a, n, w⟩ else ⟨i.src + 4, i.src, 7, i.issued, a, n, w⟩
  match i.act with
  | .sample _ a n _ _ true _ => some (use a n false)
  | .perform _ a d true => some (use a d.length true)
  | .performPlies p n _ => some (use (p / 2) ((p + n + 1) / 2 - p / 2) true)
  | .atomic _ a n _ _ _ _ _ true => some (use a n true)
  | _ => none

/-- The lines of one bank that a bank cycle touches (11 R191). -/
def BankUse.linesIn (u : BankUse) (b : Nat) : List Nat :=
  if u.bytes = 0 then [] else ((List.range (linesOf u.first u.bytes)).map fun i => u.first / 64 + i).filter fun l => l % 32 = b

/-- An engine's write and a sample of the very line it writes, which no row of 19 R339 and R349 lets conflict: the sample returns the
old line (the rows give one case each; that they stand for every such pair is log 13's, DESIGN CHOICE). -/
def BankUse.mayShare (x y : BankUse) (b : Nat) : Bool :=
  x.linesIn b = y.linesIn b && ((x.write && x.block ≠ 7 && !y.write) || (y.write && y.block ≠ 7 && !x.write))

/-- Two requesters conflict on a bank (11 R194). -/
def BankUse.clash (x y : BankUse) (b : Nat) : Bool := x.rank ≠ y.rank && !x.mayShare y b

/-- The bank cycles of the present schedule cycle: the items due before it began, and the engines' reads and writes of it. -/
def bankUses (before after : Core) : List BankUse :=
  let items := (before.items.filter fun i => i.due ≤ before.sched)
    ++ after.items.filter fun i => 8 ≤ i.src && i.due ≤ after.sched
  items.filterMap Item.bankUse
    ++ after.engBanks.map fun b => ⟨b.1, 0, b.1, after.sched, b.2.1, b.2.2, false⟩

/-- The first pair that clashes on a bank, in the order of the list. -/
def firstClash (b : Nat) : List BankUse → Option (BankUse × BankUse)
  | [] => none
  | x :: r =>
    match r.find? fun y => x.clash y b with
    | some y => some (x, y)
    | none => firstClash b r

/-- The lowest bank on which requesters clash on this cycle, with its first two requesters. -/
def bankConflict (us : List BankUse) : Option (Nat × BankUse × BankUse) :=
  let us := sortBy (fun a b => decide (a.rank ≤ b.rank)) us
  (List.range 32).findSome? fun b => (firstClash b (us.filter fun u => (banksOf u.first u.bytes).contains b)).map fun p => (b, p)

/-- The BANK cause of a cycle (11 R194). -/
def Core.bankCause (c : Core) (us : List BankUse) : Option Cause :=
  (bankConflict us).map fun k =>
    let x := k.2.1
    let y := k.2.2
    ⟨c.sched, min x.issued y.issued, .bank, c.pc, c.done, 0,
      k.1 + x.src * 2 ^ 8 + y.src * 2 ^ 12 + x.block * 2 ^ 16 + y.block * 2 ^ 20⟩

/-! The bundle at the boundary. -/

/-- What may issue: nothing (the core has halted), an idle cycle of a fence.e, no legal bundle, or the slots in issue order
with their bits of the completion mask. -/
inductive Issue where
  | nothing
  | idle
  | illegal
  | slots (l : List (Nat × Instr)) (next : Nat)
  deriving DecidableEq, Repr

/-- Forms that a spool's body may not hold (15 R269). -/
def bodyForbidden (i : Instr) : Bool :=
  match i with
  | .loop .. | .spool .. | .rep .. | .rdv .. | .selv .. | .waitf .. | .fenceE _ | .eret _ | .halt _ => true
  | _ => false

/-- The bundle rules that need no slot: a repeated bundle with a C form (15 R272), a forbidden form in a spool's body
(15 R269), a delay bundle at a LAST (09 R151), a body bundle that spans LAST (15 R267), an eret that is not alone
(15 R279). -/
def Core.bundleIllegal (c : Core) (c0 : Instr) (others : List Instr) (next : Nat) : Bool :=
  let rep := match c.rep with
    | some (a, _) => a = c.pc && c0 ≠ .nop
    | none => false
  let body := match c.inner with
    | some l => l.spool.isSome && l.covers c.pc && bodyForbidden c0
    | none => false
  let delay := c.xfer.isSome && c.loops.any fun l => l.last = c.pc
  let span := c.loops.any fun l => l.first ≤ c.pc && c.pc < l.last && l.last < next
  let alone := match c0 with
    | .eret _ => others.any (· ≠ .nop)
    | _ => false
  rep || body || delay || span || alone

/-- The bundle that core c is to issue; a fence.e holds it until the loads before it have landed, but for a return that issues it
again with the fence done (15 R277, 09 R167). -/
def Core.issue (c : Core) : Issue :=
  if c.mode ≠ .running then .nothing
  else
    match c.fetch c.pc with
    | none => .illegal
    | some f =>
      match decodeBundle f.bundle f.lits with
      | .error _ => .illegal
      | .ok is =>
        let slots := (is.zipIdx).map fun p => (7 - p.2, p.1)
        let c0 := is.headD .nop
        let wait := match c0 with
          | .fenceE _ => c.loadsOpen && !c.done.testBit 7
          | _ => false
        if c.bundleIllegal c0 is.tail f.next then .illegal
        else if wait then .idle
        else .slots (slots.filter fun p => p.2 ≠ .nop && !c.done.testBit p.1) f.next

/-- The bundle at PC is replayed from the loop buffer, which a spool's pass 0 has filled (15 R269). -/
def Core.replays (c : Core) : Bool :=
  !c.handler && c.inner.any fun l => l.spool.isSome && l.index ≠ 0 && l.covers c.pc

/-- An uncorrectable error lies in the code or the dictionary entry of the bundle at PC, and the bundle is read from there
(07 R123, 15 R269). -/
def Core.codePoisoned (c : Core) : Bool :=
  if c.replays then false else
  match c.fetch c.pc with
  | none => false
  | some f =>
    c.codeBad.any (fun g => c.pc / 8 ≤ g && g ≤ (f.next - 1) / 8)
      || match f.entry with
        | some e => c.dictBad.contains e
        | none => false

/-- A claim of an output row by one of the slots. -/
def isClaim (i : Instr) : Bool :=
  match i with
  | .acc _ | .shiftAcc _ | .assayAcc _ => true
  | _ => false

/-- The trap that a slot's meaning has taken on core n. -/
def trapOf (n : Nat) (s t : State) : Option Trap :=
  let c := s.core n
  let d := t.core n
  if d.mode = .debug && c.mode ≠ .debug then some .break
  else if d.mode = .tellers && c.mode ≠ .tellers then d.record.map fun r => Trap.ofBit r.cls
  else if d.handler && !c.handler then some (Trap.ofBit d.trapcause)
  else none

/-- The slots of a bundle in the order in which they act: an rdi reads the loop levels as they stand before the C slot changes them
(16 R285, 15 R279). -/
def slotOrder (l : List (Nat × Instr)) : List (Nat × Instr) :=
  let early (p : Nat × Instr) : Bool := match p.2 with | .rdi _ => true | _ => false
  l.filter early ++ l.filter fun p => !early p

/-- Runs the slots in order over a state in which every earlier one has acted; a slot that traps acts on nothing. -/
def runSlots (ex : Instr → State → Out) (n : Nat) : List (Nat × Instr) → State → List Trap → State × List Trap
  | [], s, ts => (s, ts)
  | (_, i) :: r, s, ts =>
    match ex i s with
    | .next t =>
      match trapOf n s t with
      | some k => runSlots ex n r s (k :: ts)
      | none => runSlots ex n r t ts
    | _ => runSlots ex n r s ts

/-! Traps at a boundary (09 R162). -/

/-- What else belongs to a cause: nothing; it was in flight; the landings of the cycle have happened but for the
conversion (17 R316); the engine command whose unit traps, or whose record is malformed; the tile that closes, with the tolerance
that decided (13 R245); a breakpoint; an uncorrectable error in code. -/
inductive CauseKind where
  | plain
  | flight (k : Cause)
  | cvt
  | engCvt (id : Nat)
  | record (id : Nat)
  | assay (t : Tile) (tol : Nat)
  | breakpoint (k : Nat)
  | poison
  deriving DecidableEq, Repr

/-- A cause found at the present boundary. -/
structure Found where
  cause : Cause
  kind : CauseKind
  deriving DecidableEq, Repr

/-- The cause that is taken: of the earliest-issued bundle, then in the order of 09 R162. -/
def firstFound (fs : List Found) : Option Found :=
  fs.foldl (fun b f => match b with
    | none => some f
    | some g =>
      if f.cause.issued < g.cause.issued
          || (f.cause.issued = g.cause.issued && f.cause.cls.order < g.cause.cls.order) then some f else some g) none

/-- The breakpoint that fires at the boundary of core n (08 R135). -/
def State.breakpointAt (s : State) (n : Nat) : Option Nat :=
  let c := s.core n
  if c.brkSkip then none
  else
    ((s.dbg.bps.zipIdx).find? fun p =>
      let w := p.1.toNat
      bit w 63 && (bit w 62 || bit w 61) && bits w 48 8 = n && (!bit w 62 || bits w 0 16 = c.pc)
        && (!bit w 61 || bits w 16 32 = c.schedcyc % 2 ^ 32)).map fun p => p.2

/-- Causes of core n at this boundary that belong to what has issued before: in flight, CVT, engines, verdicts, an output row
that the bundle does not claim, and bank conflicts. A second fault of a bundle that a handler returns to leaves both of its slots
to issue (09 R162, R167). -/
def State.earlyCauses (s landed : State) (n : Nat) (slots : List (Nat × Instr)) : List Found :=
  let b := s.core n
  let c := landed.core n
  let mk (issued : Nat) (t : Trap) (k : CauseKind) : Found := ⟨⟨b.sched, issued, t, b.pc, b.done, 0, 0⟩, k⟩
  let flight := (b.causes.filter fun k => k.due ≤ b.sched).map fun k =>
    (⟨if k.done = 0 then { k with pc := b.pc, done := b.done }
      else if k.pc = b.pc && b.done ≠ 0 then { k with done := Nat.land k.done b.done } else k, .flight k⟩ : Found)
  let cvts := (b.items.filter fun i => i.due ≤ b.sched && match i.act with | .landTrap _ => true | _ => false).map
    fun i => mk i.issued .cvt .cvt
  let eng := match c.engCvt with
    | some e => [mk e.issued .cvt (.engCvt e.id)]
    | none => []
  let starts := (c.movingCmds.filter fun e => !e.started && e.start = c.sched).flatMap fun e =>
    (c.startTraps e).map fun t => mk e.issued t .plain
  let recs : List Found := (c.movingCmds.filter fun e => e.recordBad c.sched).map fun e =>
    ⟨⟨b.sched, e.issued, .protection, b.pc, b.done, 0, e.vb.toNat⟩, .record e.id⟩
  let verdicts := if c.arrayHeld then [] else
    (c.array.closing.filter fun t => t.cks.any fun k => k + 6 = c.sched).filterMap fun t =>
      if (landed.closeTile n (c.tolerance t) t (t.cks.getD 0)).1 then some (mk (t.cks.getD 0) .assay (.assay t (c.tolerance t))) else none
  let row := if c.arrayHeld || slots.any (fun p => isClaim p.2) then [] else
    match c.emerging with
    | some x => [mk x.issued .timing .plain]
    | none => []
  let banks := match c.bankCause (bankUses b ((landed.engGo n).core n)) with
    | some k => [(⟨k, .plain⟩ : Found)]
    | none => []
  flight ++ cvts ++ eng ++ starts ++ recs ++ verdicts ++ row ++ banks

/-- Causes that count as those of the bundle at the boundary and are no slot's: ALLOWANCE, TIMING on LAG, an uncorrectable error
in its code, and, unless the bundle waits in an idle cycle of its fence.e and issues later, a breakpoint (09 R156, R161, R162,
08 R135, 07 R123). -/
def State.bundleCauses (s : State) (n : Nat) (waits : Bool) : List Found :=
  let c := s.core n
  let mk (t : Trap) (k : CauseKind) : Found := ⟨c.cause t, k⟩
  if c.mode ≠ .running then []
  else
    (if c.allowDue then [mk .allowance .plain] else [])
      ++ (if c.lagCheck && c.slack < c.lag then [mk .timing .plain] else [])
      ++ (match waits, s.breakpointAt n with | false, some k => [mk .break (.breakpoint k)] | _, _ => [])
      ++ (if c.codePoisoned then [mk .fenceE .poison] else [])

/-- The global loads and atomics of the M slots that have issued and wait for their page, so that no item stands for them yet
(09 R165, 03 R58, R66). -/
def Core.pageWaits (c : Core) : List GlobalAcc :=
  c.globals.filter fun a => a.cmd.isNone && !a.kind.isStore && !c.items.any fun i => i.act == .globalLand a.id

/-- Pending items and payload within the limits of 09 R165. -/
def Core.withinLimits (c : Core) : Bool :=
  (c.items.filter fun i => c.counts i).length + c.pageWaits.length ≤ 248
    && ((c.items.filter fun i => i.src < 8).map fun i => i.act.payload).foldl (· + ·) 0 ≤ 192

/-- How a schedule cycle of a core goes: the trap taken, or the state after the bundle with whether the cycle is over (an
eret that is not guarded off ends none). -/
structure Turn where
  landed : State
  found : Option Found
  after : State
  isOver : Bool
  deriving DecidableEq, Repr

/-- A slot other than V0 and V1 that is still to issue has a guard whose lanes differ, or is a br whose condition does, in a
bundle that has no legal encoding, its literals past the image included (09 R153, R162, 14 R248, R263); the guard stands in a slot's
upper seven bits, and br names its predicate in bits 22 to 16 (14 R246, 15 R265). -/
def Core.guardsMixed (c : Core) : Bool :=
  match c.bundleAt c.pc with
  | none => false
  | some b =>
    let slots : List (Nat × Slot) := [(7, .c), (6, .x), (5, .m0), (4, .m1), (1, .t), (0, .e)]
    let mixed (p : Nat × Slot) : Bool :=
      !c.done.testBit p.1 && (c.guard (guardOf (bits (slotOf b p.2) (p.2.width - 7) 7))).isNone
    let w := slotOf b .c
    let condition : Bool := bits w 30 7 = 1 && !c.done.testBit 7 && c.guard (guardOf (bits w 41 7)) = some true
      && (c.uniform (bits w 16 7)).isNone
    slots.any mixed || condition

/-- The present schedule cycle of core n: its landings, the causes at its boundary, its bundle and its engines. -/
def State.turn (ex : Instr → State → Out) (s : State) (n : Nat) : Turn :=
  let landed := s.landNow n
  let issue := (landed.core n).issue
  let slots := match issue with
    | .slots l _ => l
    | _ => []
  let early := s.earlyCauses landed n slots
  let own := s.bundleCauses n (issue = .idle)
  let pre := landed.updCore n fun c => { c with atPoint := false, atScan := false }
  let b := s.core n
  let mk (t : Trap) : Found := ⟨b.cause t, .plain⟩
  match issue with
  | .nothing | .idle => ⟨landed, firstFound (early ++ own), pre.engGo n, true⟩
  | .illegal =>
    let mixed := if (landed.core n).guardsMixed then [mk .nonuniform] else []
    ⟨landed, firstFound (early ++ own ++ mixed ++ [mk .illegal]), pre, true⟩
  | .slots l next =>
    let start := (pre.sketch n 0 1).updCore n fun c => { c with npc := next, lagCheck := false }
    let r := runSlots ex n (slotOrder l) start []
    let back := l.any fun p => match p.2 with | .eret g => (landed.core n).guard g ≠ some false | _ => false
    let after := if back then r.1 else (r.1.updCore n Core.advance).engGo n
    let traps := r.2.map mk
    let limit := if (after.core n).withinLimits || back then [] else [mk .timing]
    let banks := match (after.core n).bankCause (bankUses b (after.core n)) with
      | some k => if back then [] else [(⟨{ k with pc := b.pc, done := b.done }, .plain⟩ : Found)]
      | none => []
    ⟨landed, firstFound (early ++ own ++ traps ++ limit ++ banks), after, !back⟩

/-- After a CVT boundary the conversion and its flags stay in flight, and everything else of the cycle has landed
(17 R316). -/
def Core.keepCvt (c : Core) (before : Core) : Core :=
  let cvts := before.items.filter fun i => i.due ≤ before.sched && match i.act with | .landTrap _ => true | _ => false
  let mine (i : Item) : Bool := cvts.any fun k => k.src = i.src && k.issued = i.issued
  let flags := before.items.filter fun i =>
    i.due ≤ before.sched && mine i && match i.act with | .land (.flags ..) => true | _ => false
  let landOf (i : Item) : Item := match i.act with | .landTrap d => { i with act := .land d } | _ => i
  { c with items := c.items ++ cvts.map landOf ++ flags }

/-- A landing of core n but for the conversions and flags of a CVT. -/
def State.landForCvt (s : State) (n : Nat) : State :=
  let b := s.core n
  let cvts := b.items.filter fun i => i.due ≤ b.sched && match i.act with | .landTrap _ => true | _ => false
  let away (i : Item) : Bool :=
    i.due ≤ b.sched && cvts.any (fun k => k.src = i.src && k.issued = i.issued)
      && match i.act with | .landTrap _ | .land (.flags ..) => true | _ => false
  let s := s.updCore n fun c => { c with items := c.items.filter fun i => !away i }
  (s.landNow n).updCore n fun c => c.keepCvt b

/-- The sketch event of a trap (08 R139). -/
def State.trapSketch (s : State) (n : Nat) (k : Cause) : State :=
  s.sketchAt n (if k.cls = .assay then 5 else 6) k.pc 1

/-! Global atomics at a boundary (09 R166). -/

/-- A global atomic of an M slot is in flight and has not performed; one held after a REL performs when that does
(11 R199). -/
def Core.atomicsOpen (c : Core) : Bool :=
  c.globals.any fun a => a.kind.isAtomic && a.cmd.isNone && !a.performed && !a.held

/-- Atomics in flight may perform from the next chip cycle on, so that they complete before the flight record is written
(09 R166); one under a write-block does when that ends (03 R66). -/
def State.openAtomics (s : State) (n : Nat) : State :=
  let ids := ((s.core n).globals.filter fun a =>
    a.kind.isAtomic && a.cmd.isNone && !a.opened && !a.held && !a.wb && a.pa.isSome).map fun a => a.id
  let s := s.updCore n fun c => { c with
    items := c.items.filter fun i => !(ids.any fun id => i.act == .openGlobal id) }
  ids.foldl (fun s id =>
    match (s.core n).global? id with
    | some a =>
      let s := s.updCore n fun c => c.updGlobal id fun a => { a with opened := true }
      let (d, s) := s.draw
      s.plan (s.chip + 1 + d) (globalEvent n a)
    | none => s) s

/-- A core that stands still, stopped, in a debug stop or at the tellers, with an atomic still to complete (09 R166). -/
def Core.standsOpen (c : Core) : Bool := (c.mode = .stopped || c.mode = .debug || c.mode = .tellers) && c.atomicsOpen

/-- The results of performed atomics enter the flight record as scalar writes (09 R166). -/
def Core.settleAtomics (c : Core) : Core :=
  let ended (a : GlobalAcc) : Bool := a.kind.isAtomic && a.cmd.isNone && a.performed
  let done := c.globals.filter ended
  let settle (i : Item) : Item :=
    match i.act with
    | .globalLand id =>
      match done.find? fun a => a.id == id with
      | some a =>
        match a.kind with
        | .atomic _ _ _ _ d => { i with act := .land (.scalar d (BitVec.ofNat 64 (a.data.getD 0))) }
        | _ => i
      | none => i
    | _ => i
  let taint (c : Core) (a : GlobalAcc) : Core :=
    match a.poison.head? with
    | some l => c.setPoison (64 * l)
    | none => c
  done.foldl taint { c with items := c.items.map settle, globals := c.globals.filter fun a => !ended a }

/-! Debug stops (08 R136). -/

/-- Core n and the cores of its launch. -/
def State.mates (s : State) (n : Nat) : List Nat :=
  let l := (s.core n).launch
  (s.cores.filter fun p => p.1 = n || (p.2.launch = l && l.isSome)).map fun p => p.1

/-- The launch of core n enters a debug stop: the episodes that ended at the boundary are recorded (08 R138), and the atomics in
flight complete (09 R166). -/
def State.enterDebug (s : State) (n reason bp : Nat) : State :=
  let stop (s : State) (m : Nat) : State :=
    let s := if ((s.core m).frozen s.chip).isNone then s.endEpisode m else s
    s.openAtomics m
  ((s.mates n).foldl stop s).debugStop n reason bp

/-- A break of core n stops its launch. The breaks of the cores of fired stand at the same boundary and have fired with it: each
counts as a trap, and its bundle issues once without it after RESUME (15 R279, 08 R139, R147). -/
def State.breakStop (s : State) (n bp : Nat) (fired : List Nat) : State :=
  let hit (s : State) (m : Nat) : State :=
    (s.sketchAt m 6 (s.core m).pc 1).updCore m fun c => { c with brkSkip := true }
  ((n :: fired.filter (· ≠ n)).foldl hit s).enterDebug n 2 bp

/-- The awaited global results of a core whose freeze ends land before the trap that waited for the end (09 R161, R169). -/
def State.landAwaited (s : State) (n : Nat) : State :=
  let awaited (i : Item) : Bool := match i.act with | .globalLand _ => true | _ => false
  let due := (s.core n).dueItems.filter awaited
  let s := s.updCore n fun c =>
    { c with items := c.items.filter (fun i => !(i.due ≤ c.sched && awaited i)), late := false }
  due.foldl (fun s i => s.landItem n i) s

/-- The trap at the boundary of core n is taken (09 R163); its cycle counts in LAG once, at the tellers by the tick. -/
def State.takeFound (s : State) (n : Nat) (f : Found) : State :=
  let s := if f.cause.cls = .break then s else s.trapSketch n f.cause
  let s := if f.cause.cls = .break then s else s.updCore n Core.settleAtomics
  let lag (s : State) : State := s.updCore n fun c => if c.mode = .tellers then c else { c with lag := c.lag + 1 }
  match f.kind with
  | .plain =>
    let s := if f.cause.cls = .allowance then
        (if (s.core n).late then s.landAwaited n else s).updCore n fun c => { c with allowDue := false }
      else s
    if f.cause.cls = .break then s.breakStop n 0 [] else lag (s.takeTrap n f.cause)
  | .flight k =>
    lag ((s.updCore n fun c => { c with causes := c.causes.filter (· != k) }).takeTrap n f.cause)
  | .cvt => lag ((s.landForCvt n).takeTrap n f.cause)
  | .engCvt id =>
    lag ((s.updCore n fun c => c.updEng id fun e => { e with cvtDone := e.writes :: e.cvtDone }).takeTrap n f.cause)
  | .record id =>
    lag ((s.updCore n fun c => c.updEng id fun e => { e with fault := some (0x1C, e.vb.toNat) }).takeTrap n f.cause)
  | .assay t tol => lag ((s.closeTile n tol t (t.cks.getD 0)).2.takeTrap n f.cause)
  | .breakpoint k => s.breakStop n k []
  | .poison => lag ((s.updCore n fun c => c.holdForTellers f.cause).post (.tellerTrapEvent n))

/-! Points and stops (06 R103, R105, R106, R111, R168, 19 R337). -/

/-- A point of the core counts: no beat in flight, no open tile, no engine running, no timed write unperformed, and no
handler (09 R168, 19 R337, 06 R114). -/
def Core.eligible (c : Core) : Bool :=
  !c.handler && !c.arrayBusy && !(c.engines.any fun e => !ackOp e.op)
    && !(c.items.any fun i => match i.act with | .perform .. | .performPlies .. => 8 ≤ i.src | _ => false)

/-- A core's point is clean: no open operation (06 R103, 11 R199). -/
def Core.cleanNow (c : Core) : Bool := c.ackc = 0 && c.engines.isEmpty && c.held.isEmpty

/-- The core stops with its context in place (06 R105); FRZ of its record is the cause that is charged on the chip cycle
(09 R164, 08 R137). -/
def Core.stop (c : Core) (t : Nat) : Core :=
  { c with
    mode := .stopped, clean := c.cleanNow,
    record := some (match c.record with
      | some r => r
      | none => { c.capture 15 1 c.pc c.done 0 0 with frz := ((c.frozen t).map fun h => h.cause).getD 0 }) }

/-- The translations that acknowledged commands wait for are asked for no longer. -/
def Core.dropProbes (c : Core) : Core :=
  let probe (id : Nat) : Bool := c.globals.any fun a => a.id = id && a.kind = .probe
  { c with
    holds := c.holds.filter fun h => !((h.cause = 2 || h.cause = 3) && probe h.id), globals := c.globals.filter fun a => a.kind ≠ .probe }

/-- The acknowledged commands of a core that stops run on to their end (06 R105). -/
def State.runOn (s : State) (n : Nat) : State :=
  let ids := ((s.core n).engines.filter fun e => ackOp e.op).map fun e => e.id
  (ids.foldl (fun (s : State) id => s.planFree (.engineComplete n id)) (s.updCore n Core.dropProbes)).nextWalk (dieOf n)

/-- Core n stops for its launch (06 R105): its freeze episode ends, and its atomics in flight complete (08 R138, 09 R166). -/
def State.stopCore (s : State) (n : Nat) : State :=
  let s := (s.endEpisode n).openAtomics n
  let chip := s.chip
  match (s.core n).launch with
  | some id =>
    ((s.updCore n fun c => c.stop chip).runOn n).updLaunch id fun l => { l with stops := l.stops ++ [(n, chip)] }
  | none => s

/-- The chip cycles of T1 and T2 of a launch (06 R106). -/
def Launch.t1Cycles (l : Launch) : Nat := (if l.pkt.t1 = 0 then 200 else l.pkt.t1) * Config.usec
def Launch.t2Cycles (l : Launch) : Nat := (if l.pkt.t2 = 0 then 2000 else l.pkt.t2) * Config.usec

/-- A core of a stopping launch may stop at a point only if it is clean: a ladder before T1 (06 R106). -/
def Launch.needsClean (l : Launch) (chip : Nat) : Bool :=
  l.ladder && match l.stopAt with
    | some q => chip < q + l.t1Cycles
    | none => false

/-- A core in a flag or rendezvous wait that may count as stopped (06 R103): it is frozen from the cycle after its bundle on
(09 R158, 15 R275), an ALLOWANCE that is due takes it first (09 R161), and a save keeps nothing of its array or of its engines' units
(09 R168, 19 R337). -/
def Core.waiting (c : Core) : Bool :=
  c.mode = .running && (c.flagWait.isSome || c.rdvWait.isSome) && !c.allowDue && c.eligible
    && !c.holds.any fun h => h.ofWait && h.issued = c.sched

/-- The launch of core n asks it to stop at this boundary. -/
def State.stopsHere (s : State) (n : Nat) : Bool :=
  let c := s.core n
  c.mode = .running && c.atPoint && c.eligible &&
    match s.launchOf n with
    | some l => (l.phase = .stopping || (l.phase = .resuming && l.stopAt.isSome)) && (!l.needsClean s.chip || c.cleanNow)
    | none => false

/-- The waiting cores of a stopping launch stop once every other core has stopped or halted (06 R103); before T1 of a ladder
only with no open operation (06 R106). -/
def State.stopWaiters (s : State) (l : Launch) : State :=
  let live := l.pkt.cores.filter fun n => (s.core n).launch = some l.id
  let busy := live.filter fun n => let c := s.core n; c.mode ≠ .stopped && c.mode ≠ .halted
  if l.phase = .stopping && !busy.isEmpty
      && busy.all (fun n => let c := s.core n; c.waiting && (!l.needsClean s.chip || c.cleanNow)) then
    busy.foldl (fun s n => s.stopCore n) s
  else s

/-- The cores that a launch holds on a die. -/
def State.heldOn (s : State) (l : Launch) (die : Nat) : List Nat :=
  l.pkt.cores.filter fun n => dieOf n = die && (s.core n).launch = some l.id

/-- Free shadow slots of a die (06 R108): a save under way has taken its slots, and a move of a cluster has four (06 R111). -/
def State.shadowFree (s : State) (die : Nat) : Nat :=
  let saving := (s.launches.flatMap fun l => l.saves.filter fun v => v.1 = die).foldl (fun k v => k + v.2.2) 0
  let moving := match s.reliab.scans[die]? with | some d => if d.moving then 4 else 0 | none => 0
  16 - ((s.saved.filter fun x => !x.hbm && dieOf x.core = die).length + saving + moving)

/-- A halted core has come to rest (15 R279): its results have landed, its engine operations have ended, and no beat and no verdict is
on the way. A flag write may still be (15 R274). -/
def Core.atRest (c : Core) : Bool :=
  c.engines.isEmpty && c.array.beats.isEmpty && c.array.pushes.isEmpty && c.array.closing.isEmpty
    && c.items.all fun i => match i.act with | .land (.flag ..) => true | _ => false

/-- A core has stopped with nothing of it on the way, or has halted and come to rest (06 R100, R108). -/
def Core.mayBeSaved (c : Core) : Bool := (c.mode = .stopped && !c.atomicsOpen) || (c.mode = .halted && c.atRest)

/-- The slot of core n in the save area holds a context (06 R109). -/
def State.slotTaken (s : State) (n : Nat) : Bool := s.saved.any fun x => x.hbm && x.core = n

/-- A save of a launch on one die begins once each of its cores there has stopped or halted (06 R108): it ends within 4
microseconds, or 60 through HBM4. -/
def State.saveOn (s : State) (l : Launch) (die : Nat) : State :=
  let mine := s.heldOn l die
  let slots := min mine.length (s.shadowFree die)
  if mine.isEmpty || l.stops.isEmpty || l.saves.any (fun v => v.1 = die) || !mine.all (fun n => (s.core n).mayBeSaved)
      || (!s.ctxsave.getLsbD 0 && slots < mine.length) || slots < (mine.filter s.slotTaken).length then s
  else
    let (d, s) := s.drawBelow (if slots = mine.length then 5000 else 75000)
    let at_ := s.chip + 1 + d
    (s.updLaunch l.id fun x =>
      { x with saves := x.saves ++ [(die, at_, slots)], phase := if x.phase = .stopped then .saving else x.phase }).plan at_
      .contextSaveDone

/-- The rung of a stop whose cores have all stopped (06 R105, R106, R114): a ladder's by the time of the last, another's by whether
every core was clean; a stop requested before the release drains. -/
def Launch.rungOf (l : Launch) (clean : Bool) : Nat :=
  let last := (l.stops.map fun p => p.2).foldl max 0
  match l.stopAt with
  | some q =>
    if q < l.relcyc then 1 else if l.ladder then (if last < q + l.t1Cycles then 1 else 2) else if clean then 1 else 2
  | none => if clean then 1 else 2

/-- Every core of a stopping launch has stopped or halted, one of them stopped (06 R105, R106). -/
def State.stopDone (s : State) (l : Launch) : State :=
  let ctx (n : Nat) : Option Core :=
    if (s.core n).launch = some l.id then some (s.core n)
    else (s.saved.find? fun x => x.core == n && x.launch == l.id).map fun x => x.ctx
  let out (n : Nat) : Bool := (ctx n).any fun c => c.mode = .stopped || c.mode = .halted
  if l.phase = .stopping && l.pkt.cores.all out && !l.stops.isEmpty then
    let clean := l.stops.all fun p => (ctx p.1).any fun c => c.clean
    let rung := l.rungOf clean
    let s := s.updLaunch l.id fun l =>
      { l with phase := if l.saves.isEmpty then .stopped else .saving, rung := max l.rung rung }
    s.updQueue l.queue fun q => { q with rung := rung }
  else s

/-- The stops that are complete end, and the saves that may begin do. -/
def State.stopEnds (s : State) : State :=
  let going (p : LPhase) : Bool := p = .stopping || p = .stopped || p = .saving
  let s := (s.launches.filter fun l => l.phase = .stopping).foldl (fun s l => s.stopDone l) s
  (List.range 4).foldl (fun s d => (s.launches.filter fun l => going l.phase).foldl (fun s l => s.saveOn l d) s) s

/-- The stop requests make progress on this chip cycle: cores in a wait count as stopped once every other has stopped. -/
def State.stopTick (s : State) : State :=
  ((s.launches.filter fun l => l.phase = .stopping).foldl (fun s l => s.stopWaiters l) s).stopEnds

/-- The migration named on a core's die waits for the core's cluster at a scan window of its launch; a launch with SCANDIST 0 has
none (06 R111). -/
def State.scanWants (s : State) (n : Nat) : Bool :=
  (match s.reliab.scans[dieOf n]? with
  | some d => d.named = some (clusterOf n) && !d.moving
  | none => false) && (s.launchOf n).any fun l => l.pkt.scandist ≠ 0

/-- A core is ready for the migration of its cluster (06 R111). -/
def Core.scanReady (c : Core) : Bool := c.launch.isNone || (c.mode ≠ .debug && c.holds.any fun h => h.cause = 7)

/-- The four cores of a logical cluster of a die. -/
def clusterCores (die cluster : Nat) : List Nat := (List.range 4).map fun i => 64 * die + 4 * cluster + i

/-- The migration of a die starts once its cluster's cores are ready (06 R111). -/
def State.scanStart (s : State) (die : Nat) : State :=
  match s.reliab.scans[die]? with
  | some d =>
    match d.named with
    | some k =>
      if !d.moving && (clusterCores die k).all (fun n => (s.core n).scanReady) then s.plan s.chip (.scanMigration die)
      else s
    | none => s
  | none => s

/-- A core reaches a scan window that a migration waits for: it freezes until the move or SCANWAIT (06 R111). -/
def State.enterScan (s : State) (n : Nat) : State :=
  let s := s.updCore n fun c => { c.hold 7 0 c.sched s.chip with atScan := false }
  (s.plan (s.chip + Config.scanWait) (.scanwaitExpiry n)).scanStart (dieOf n)

/-! Performs (11 R193, 15 R274). -/

/-- A sync flag of a core is written in the context of the launch that writes it, saved or not (15 R274). A wait for it
samples on the next chip cycle (09 R159). -/
def State.writeFlag (s : State) (launch : Option Nat) (n f : Nat) (v : Bool) : State :=
  let c := s.core n
  if c.launch = launch then
    let s := s.updCore n fun c => c.setFlag f v
    if c.flagWait.isSome then s.plan (s.chip + 1) (.flagWaitSatisfy n) else s
  else
    { s with saved := s.saved.map fun x =>
        if x.core = n && some x.launch = launch then { x with ctx := x.ctx.setFlag f v } else x }

/-- Own-vault bytes written by core n invalidate its speculative loads of them (11 R203). -/
def Core.killVaultSpecs (c : Core) (a len : Nat) : Core :=
  { c with addrTab := c.addrTab.map fun (e : AddrEntry) =>
      if e.form = 0 && e.sampled && vaultOffset e.addr < a + len && a < vaultOffset e.addr + e.len then
        { e with valid := false } else e }

/-- Core n writes bytes of the vault of core t. -/
def State.writeVault (s : State) (n t a : Nat) (data : List Byte) : State :=
  let tag := s.ownerTag (s.core n).launch
  let s := s.updCore t fun c => c.putVault tag a data
  if n = t then s.updCore n fun c => c.killVaultSpecs a data.length else s

/-- One item of core n performs. -/
def State.performItem (s : State) (n : Nat) (i : Item) : State :=
  match i.act with
  | .perform t a d _ => s.writeVault n t a d
  | .performPlies p k v =>
    let a := p / 2
    let len := (p + k + 1) / 2 - a
    let old := Store.num (s.core n).vault a len
    s.writeVault n n a (numBytes len (mergePlies old (p % 2) k v))
  | .atomic t a size op v cm d landAt _ =>
    let old := Store.num (s.core t).vault a size
    let s := match atomicNew op size old v.toNat cm.toNat with
      | some x => s.writeVault n t a (numBytes size x)
      | none => s
    s.updCore n fun c => { c with
      items := c.items ++ [⟨landAt, i.src, i.issued, i.seq, .land (.scalar d (BitVec.ofNat 64 old))⟩] }
  | .land (.flag t f v) => s.writeFlag (s.core n).launch t f v
  | .pushCor entry => s.updCore n fun c => c.pushCor (BitVec.ofNat 64 entry)
  | _ => s

/-- A lateral write of an acknowledged command performs in the vault of its context, and the entry of its end joins the queue
(11 R193, R200, 10 R184). -/
def State.performLateral (s : State) (w : Lateral) : State :=
  let tag := s.ownerTag w.launch
  let write (c : Core) : Core :=
    let c := (c.putVault tag w.addr w.data).killVaultSpecs w.addr w.data.length
    match w.entry with
    | some e => c.pushEng e
    | none => c
  if (s.core w.core).launch = w.launch then s.updCore w.core write
  else { s with saved := s.saved.map fun x =>
    if x.core = w.core && some x.launch = w.launch then { x with ctx := write x.ctx } else x }

/-- The place of a lateral write in the order of 11 R193: a status word second, any other with the lateral accesses of its
core. -/
def Lateral.rank (w : Lateral) : Nat := (((if w.status then 1 else 2) * 256 + w.core) * 16 + 8) * 2 ^ 32

/-- The order of performs on one chip cycle (11 R193, 15 R274): own port, status words, lateral, flags; within each by core,
slot and issue. -/
def performRank (p : Nat × Item) : Nat :=
  let stage := match p.2.act with
    | .perform _ _ _ own => if own then 0 else if p.2.src = 0 then 1 else 2
    | .performPlies .. => 0
    | .atomic _ _ _ _ _ _ _ _ own => if own then 0 else 2
    | _ => 3
  ((stage * 256 + p.1) * 16 + p.2.src) * 2 ^ 32 + p.2.seq

/-- Held flag writes and engine commands at the head of a context's queue that may leave (11 R199); an engine command that
leaves is held no more. -/
def Core.freeHeld (c : Core) (chip : Nat) : Core × List HeldOp :=
  let may (h : HeldOp) : Bool := h.notBefore ≤ chip && !(c.rels.any fun r => r.seq < h.seq && (r.sys || !h.sys))
  let isGlobal (h : HeldOp) : Bool := match h.what with | .global _ => true | _ => false
  let go := c.held.takeWhile fun h => may h && !isGlobal h
  let loose (e : EngCmd) : EngCmd := if go.any fun h => h.what == .engine e.id then { e with held := false } else e
  ({ c with engines := c.engines.map loose, held := c.held.drop go.length }, go)

/-- What leaves core n for a launch: a flag write performs, an engine command goes on to its remote effects. -/
def State.leaveHeld (s : State) (launch : Option Nat) (n : Nat) (w : HeldWhat) : State :=
  match w with
  | .flag t f v => s.writeFlag launch t f v
  | .engine id => s.planFree (.engineComplete n id)
  | .global _ => s

/-- The place of a held operation of core n among the performs of its chip cycle: with the flag writes of its core (15 R274). -/
def heldRank (n : Nat) (h : HeldOp) : Nat := ((3 * 256 + n) * 16 + srcC) * 2 ^ 32 + h.seq

/-- The held flag writes and engine commands of every core and saved context that leave on this chip cycle, in their places, and the
state without them. A context whose last held operation has left no longer occupies its core (06 R100). -/
def State.takeHeld (s : State) : List (Nat × (State → State)) × State :=
  let chip := s.chip
  let acts (launch : Option Nat) (n : Nat) (hs : List HeldOp) : List (Nat × (State → State)) :=
    hs.map fun h => (heldRank n h, fun s => s.leaveHeld launch n h.what)
  let own := (s.cores.filter fun p => !p.2.held.isEmpty).map fun p => (p, p.2.freeHeld chip)
  let kept := s.saved.map fun x => (x, x.ctx.freeHeld chip)
  let t := own.foldl (fun s p => s.setCore p.1.1 p.2.1) s
  let t := { t with saved := kept.map fun p => { p.1 with ctx := p.2.1 } }
  let emptied := kept.any fun p => p.2.1.held.isEmpty && !p.2.2.isEmpty
  ((own.flatMap fun p => acts p.1.2.launch p.1.1 p.2.2) ++ kept.flatMap fun p => acts (some p.1.launch) p.1.core p.2.2,
    if emptied then t.plan chip .launchClaim else t)

/-- A halted core that was saved with flag writes on their way (15 R274). -/
def SavedCtx.sends (x : SavedCtx) : Bool := x.ctx.mode = .halted && !x.ctx.items.isEmpty

/-- The flag writes of saved halted cores that perform on this chip cycle, in their places, and the state without them, whose time
goes on (15 R274). -/
def State.takeFlags (s : State) : List (Nat × (State → State)) × State :=
  let due (x : SavedCtx) : List Item := if x.sends then x.ctx.items.filter fun i => i.due ≤ x.ctx.sched else []
  let go (x : SavedCtx) (i : Item) : Nat × (State → State) :=
    (performRank (x.core, i), fun s => match i.act with | .land (.flag t f v) => s.writeFlag (some x.launch) t f v | _ => s)
  let tick (x : SavedCtx) : SavedCtx :=
    if x.sends then
      { x with ctx := { x.ctx with items := x.ctx.items.filter (fun i => x.ctx.sched < i.due), sched := x.ctx.sched + 1 } }
    else x
  (s.saved.flatMap fun x => (due x).map (go x), { s with saved := s.saved.map tick })

/-- Everything that performs on this chip cycle, in the order of 11 R193 and 15 R274: the items of the cores that went, lateral
writes of acknowledged commands, the flag writes of saved halted cores, and what a REL held. -/
def State.performAll (s : State) (went : List Nat) : State :=
  let dueOf (n : Nat) : List (Nat × Item) :=
    let c := s.core n
    (c.items.filter fun i => i.due ≤ c.sched && i.act.performs).map fun i => (n, i)
  let items : List (Nat × (State → State)) := (went.flatMap dueOf).map fun p => (performRank p, fun s => s.performItem p.1 p.2)
  let writes : List (Nat × (State → State)) := s.lateral.map fun w => (w.rank, fun s => s.performLateral w)
  let s := went.foldl (fun s n => s.updCore n fun c =>
    { c with items := c.items.filter fun i => !(i.due ≤ c.sched && i.act.performs) }) { s with lateral := [] }
  let held := s.takeHeld
  let flags := held.2.takeFlags
  let all := sortBy (fun a b => decide (a.1 ≤ b.1)) (items ++ writes ++ held.1 ++ flags.1)
  all.foldl (fun s p => p.2 s) flags.2

/-! One chip cycle. -/

/-- A closing tile's verdict without a trap, and tiles that have left the checker (13 R241). -/
def State.closeTiles (s : State) (n : Nat) : State :=
  let c := s.core n
  if c.arrayHeld then s
  else
    let now := c.array.closing.filter fun t => t.cks.any fun k => k + 6 = c.sched
    let s := now.foldl (fun s t => (s.closeTile n (c.tolerance t) t (t.cks.getD 0)).2) s
    s.updCore n fun c => { c with array := { c.array with
      closing := c.array.closing.filter fun t => !(t.cks.any fun k => k + 8 ≤ c.sched) } }

/-- The launch of core n stands in a debug stop (08 R136). -/
def State.inDebug (s : State) (n : Nat) : Bool := (s.launchOf n).any fun l => l.dbgAt.isSome

/-- The trap that core n takes in a flag or rendezvous wait, which an ALLOWANCE that is due ends at once (09 R161): the ALLOWANCE, or
a cause in flight that reaches the same boundary before it (09 R162). -/
def State.waitCause (s : State) (n : Nat) : Option Found :=
  let c := s.core n
  if c.mode = .running && c.allowDue && (c.flagWait.isSome || c.rdvWait.isSome) then
    let landed := s.landNow n
    let slots := match (landed.core n).issue with
      | .slots l _ => l
      | _ => []
    firstFound (s.earlyCauses landed n slots ++ [⟨c.cause .allowance, .plain⟩])
  else none

/-- FRZ of the record of a trap that core n has taken in a freeze (09 R164). -/
def State.noteFrz (s : State) (n : Nat) (h : Hold) : State :=
  s.updCore n fun c => { c with record := c.record.map fun r => { r with frz := h.cause } }

/-- The turn of core n on this chip cycle: frozen, stopped at a point, frozen for a scan, trapped, or gone. The list holds the
cores whose schedule cycle is over. -/
def State.coreTurn (ex : Instr → State → Out) (s : State) (n : Nat) : State × Bool :=
  let s := { s with cur := n }
  let c := s.core n
  if (c.mode ≠ .running && c.mode ≠ .halted) || s.inDebug n then (s, false)
  else
    match c.frozen s.chip with
    | some h =>
      match s.waitCause n with
      | some f =>
        if c.atomicsOpen then ((s.openAtomics n).freezeTick n h, false)
        else (((s.endEpisode n).takeFound n f).noteFrz n h, false)
      | none => (s.freezeTick n h, false)
    | none =>
      let s := s.endEpisode n
      let t := s.turn ex n
      let stopNow := s.stopsHere n && !(t.found.any fun f => f.cause.issued < c.sched || f.cause.cls = .allowance)
      if stopNow then (s.stopCore n, false)
      else if c.mode = .running && c.atScan && s.scanWants n && c.eligible then
        let s := s.enterScan n
        match (s.core n).frozen s.chip with
        | some h => (s.freezeTick n h, false)
        | none => (s, false)
      else
        match t.found with
        | some f =>
          if c.atomicsOpen then ((s.openAtomics n).updCore n fun c => { c with lag := c.lag + 1 }, false)
          else (s.takeFound n f, false)
        | none => if t.isOver then (t.after.closeTiles n, true)
            else (t.after.updCore n fun c => { c with lag := c.lag + 1 }, false)

/-- A core may break at this boundary: a breakpoint matches, or its bundle holds a brk (08 R135, 15 R279). -/
def State.mayBreak (s : State) (n : Nat) : Bool :=
  let c := s.core n
  c.mode = .running && ((s.breakpointAt n).isSome ||
    match c.issue with
    | .slots l _ => l.any fun p => match p.2 with | .brk _ => true | _ => false
    | _ => false)

/-- The break that core n takes on this chip cycle, if no other cause reaches its boundary: the breakpoint's number, 4 for a
brk (08 R147, 15 R279). -/
def State.breakOf (ex : Instr → State → Out) (s : State) (n : Nat) : Option Nat :=
  if s.mayBreak n && ((s.core n).frozen s.chip).isNone && !s.inDebug n then
    match (State.turn ex { s with cur := n } n).found with
    | some f => if f.cause.cls ≠ .break then none else match f.kind with | .breakpoint k => some k | _ => some 4
    | none => none
  else none

/-- Breaks of this chip cycle stop every core of their launch before any of them goes on; of several at one boundary the one
with the lowest number names the stop (08 R136, R147). -/
def State.breakFirst (ex : Instr → State → Out) (s : State) (ns : List Nat) : State :=
  let hits := ns.filterMap fun n => (s.breakOf ex n).map fun k => (n, k)
  let first := sortBy (fun a b => decide (a.2 ≤ b.2)) hits
  first.foldl (fun s h =>
    if s.inDebug h.1 || (s.core h.1).mode = .debug then s
    else
      let mates := s.mates h.1
      s.breakStop h.1 (if h.2 = 4 then 0 else h.2) ((hits.map fun x => x.1).filter fun m => mates.contains m)) s

/-- The allowance of a core falls (09 R161): an issuing, frozen, waiting or trapped core that its context holds. -/
def State.spend (s : State) (n : Nat) : State :=
  let c := s.core n
  if (c.mode = .running || c.mode = .tellers) && c.allow ≠ 0 && !s.inDebug n then
    let s := s.updCore n fun c => { c with allow := c.allow - 1 }
    if c.allow = 1 then s.plan s.chip (.allowanceExpiry n) else s
  else s

/-- SCHEDCYC and, in a handler or at the tellers, LAG advance at the end of the cycle (09 R154, R163). -/
def Core.tick (c : Core) (went : Bool) : Core :=
  let c := if went then { c with sched := c.sched + 1 } else c
  if (went && c.handler) || c.mode = .tellers then { c with lag := c.lag + 1 } else c

/-- A launch whose cores have all halted is to complete (04 R80). -/
def State.completions (s : State) : State :=
  if s.launches.any (fun l => (l.phase = .running || l.phase = .stopping)
        && l.pkt.cores.all fun n => (s.core n).mode = .halted && (s.core n).launch = some l.id)
      && !s.agenda.any (fun e => e.2 = .launchComplete) then
    s.plan s.chip .launchComplete
  else s

/-- A STEP ends at the boundary at which its core's SCHEDCYC has advanced by ARG (08 R136). -/
def State.stepTick (s : State) : State :=
  match s.dbg.step with
  | some (n, id, target) =>
    if (s.core n).launch = some id && target ≤ (s.core n).schedcyc then s.plan s.chip (.dbgStepDone n) else s
  | none => s

/-- The turns of some cores, in their order; the list grows by the cores whose schedule cycle is over. -/
def State.turns (ex : Instr → State → Out) (a : State × List Nat) (ns : List Nat) : State × List Nat :=
  ns.foldl (fun a n =>
    let t := a.1.coreTurn ex n
    (t.1, if t.2 then a.2 ++ [n] else a.2)) a

/-- One chip cycle of every core (log 1). Cores in a wait come last, since they stop on the chip cycle on which the last other
core of their launch does (06 R103). -/
def State.chipCycle (ex : Instr → State → Out) (s : State) : State :=
  let ns := s.cores.map fun p => p.1
  let s := ns.foldl (fun s n => if s.inDebug n then s else s.updCore n fun c => c.endFlagWait s.chip) s
  let s := (ns.filter fun n => (s.core n).standsOpen).foldl State.openAtomics s
  let s := s.breakFirst ex ns
  let waits (n : Nat) : Bool := let c := s.core n; c.flagWait.isSome || c.rdvWait.isSome
  let r := State.turns ex (s, []) (ns.filter fun n => !waits n)
  let r := State.turns ex (r.1.stopTick, r.2) (ns.filter waits)
  let s := r.1.performAll r.2
  let s := r.2.foldl (fun s n => s.updCore n Core.engFinish) s
  let s := ns.foldl (fun s n => s.spend n) s
  let s := ns.foldl (fun s n => if s.inDebug n then s else s.updCore n fun c => c.tick (r.2.contains n)) s
  let s := s.stopEnds.completions.flushTrace.flushHeat
  { s with chip := s.chip + 1 }.stepTick

/-! The agenda (log 1). -/

/-- The rank of an event among those due: samples of global loads, then atomics, stores and the engines by core, and after them what
comes from elsewhere (11 R195, R202, 03 R49); resets, the outer domain first (01 R25); register writes, so that a bit which the
hardware sets on the same chip cycle stays set (00 R9); a measurement before the commit of its chip cycle (05 R96); the rest, the
results of a reduction among them (11 R202), as they came, and last the moment from which a stop need not be clean (06 R106). -/
def eventRank (s : State) (i : Instr) : Nat :=
  let slot (a : GlobalAcc) : Nat := if a.src = 0 then 8 else a.src
  match i with
  | .globalResultArrive n id =>
    match (s.owner n id).global? id with
    | some a => if a.kind.writes then 16 * n + slot a else 0
    | none => 0
  | .globalStorePerform n id | .remoteWritePerform n id =>
    match (s.owner n id).global? id with
    | some a => 16 * n + slot a
    | none => 0
  | .engineComplete n id =>
    if s.fabric.ops.any fun o => o.own = some (n, id) then 2 ^ 20 else 16 * n + 8
  | .ladderT1 => 2 ^ 20 + 1
  | .registerWrite .. => 2 ^ 20 - 2
  | .stby12Loss => 2 ^ 20 - 5
  | .powerUp _ | .pldmSpindleReset | .rollbackDeadline => 2 ^ 20 - 4
  | .thermalTrip | .main48Loss | .pldmComputeReset => 2 ^ 20 - 3
  | .getMeasurements => 2 ^ 20 - 1
  | _ => 2 ^ 20

/-- The due event that comes first: earliest chip cycle, then rank, then order of entry. -/
def State.nextEvent (s : State) : Option (Nat × Instr) :=
  (s.agenda.filter fun e => e.1 ≤ s.chip).foldl (fun b e => match b with
    | none => some e
    | some x => if e.1 < x.1 || (e.1 = x.1 && eventRank s e.2 < eventRank s x.2) then some e else some x) none

/-- Removes the first entry equal to an event. -/
def dropEvent (e : Nat × Instr) : List (Nat × Instr) → List (Nat × Instr)
  | [] => []
  | x :: r => if x = e then r else x :: dropEvent e r

/-- A step over a meaning of the instructions: the first due event enters the tellers' queue, or is handled, and its teller is idle again
when it has been (05 R86, R87); without one, one chip cycle. -/
def stepWith (ex : Instr → State → Out) (s : State) : Out :=
  match s.nextEvent with
  | some e =>
    let t := { s with agenda := dropEvent e s.agenda }
    if s.enters e.2 then .next (t.post e.2)
    else
      match ex e.2 t with
      | .next t => .next (t.handled e.2)
      | r => r
  | none => .next (s.chipCycle ex)

/-! Events of the cores. -/

/-- FLAG_WAIT_SATISFY (09 R159, 15 R275): the wait of core n samples its flag; the next bundle issues two chip cycles later. -/
def execFlagWaitSatisfy (n : Nat) (s : State) : Out :=
  let chip := s.chip
  .next (s.updCore n fun c =>
    match c.flagWait with
    | some w => if w.resume.isNone && c.mode = .running && c.flags.getLsbD w.flag = w.val then
        { c with flagWait := some { w with resume := some (chip + 2) } } else c
    | none => c)

/-- The value of a round: that of the arrived member of lowest number (09 R158). -/
def Round.value (r : Round) : Word :=
  ((r.arrived.foldl (fun (b : Option (Nat × Word)) a => match b with
    | none => some a
    | some x => if a.1 < x.1 then some a else some x) none).map fun x => x.2).getD 0

/-- The chip cycle since which the members of a round stand still, if they do: those of a launch in a debug stop (08 R136), or
stopped for a save until their restart (06 R103, R110). A round that a restarted core closes before another member has restarted is
released as R158 says, and that member learns it at its restart. -/
def State.roundStands (s : State) (r : Round) : Option Nat :=
  match s.launch? r.launch with
  | none => none
  | some l =>
    match l.dbgAt with
    | some t => some t
    | none =>
      let left (n : Nat) : Bool := l.phase ≠ .resuming || l.restarts.any fun p => p.1 = n
      (l.stops.find? fun p => left p.1 && s.chip ≤ p.2 + 40 && r.arrived.any fun a => a.1 = p.1).map fun p => p.2

/-- RDV_ROUND_RELEASE (09 R158): every member issues its next bundle on this chip cycle with LAG 0; a member at the tellers learns
it when it goes on, and so does one whose trap handler runs (09 R161). A round whose members stand still is released as long after
they go on as it would have been after they stopped (06 R110, 08 R136). -/
def execRdvRoundRelease (launch group : Nat) (s : State) : Out :=
  match s.rounds.find? fun r => r.launch == launch && r.group == group && r.closed with
  | none => .next s
  | some r =>
    let chip := s.chip
    let v := r.value
    let wait := s.roundStands r
    let s := { s with rounds := s.rounds.filter (· != r) }
    match wait with
    | some t => .next { s with rounds := s.rounds ++ [{ r with left := some (chip - t) }] }
    | none =>
    let close (w : RdvWait) : RdvWait := if w.group = group then { w with closed := some (chip, v) } else w
    let release (c : Core) : Core :=
      match c.rdvWait with
      | some w =>
        if c.mode = .running && w.group = group then c.endRdv w.dst 0 v else { c with rdvWait := some (close w) }
      | none => { c with record := c.record.map fun r => { r with rdvWait := r.rdvWait.map close } }
    let s := r.arrived.foldl (fun s a =>
      if (s.core a.1).launch = some launch then s.updCore a.1 release
      else { s with saved := s.saved.map fun x =>
        if x.core = a.1 && x.launch = launch then { x with ctx := release x.ctx } else x }) s
    .next s

/-- ALLOWANCE_EXPIRY (09 R161): the trap is due. A core in a flag or rendezvous wait takes it on the present chip cycle, every other
core at its next boundary. -/
def execAllowanceExpiry (n : Nat) (s : State) : Out := .next (s.updCore n fun c => { c with allowDue := true })

end Sys2Proof.Machine
end

