-- ==== Sys2Proof/Machine/Life.lean ====
section
/-! DEFINITION. What the tellers do to a launch as a whole: completion records, escrow, freeing cores, ending a launch
(04 R76, R77, R80 to R83, 07 R122, R127, R128). -/

namespace Sys2Proof.Machine

/-! Queue pages as values. -/

/-- Fields of QCFG (04 R69). -/
def Queue.logsz (q : Queue) : Nat := q.qcfg.toNat % 32
def Queue.prio (q : Queue) : Nat := bits q.qcfg.toNat 6 2
def Queue.escrow (q : Queue) : Nat := bits q.qcfg.toNat 8 2
def Queue.msix (q : Queue) : Nat := bits q.qcfg.toNat 10 6
def Queue.notify (q : Queue) : Bool := bit q.qcfg.toNat 16

/-- STATE is ACTIVE or ERROR. -/
def Queue.live (q : Queue) : Bool := q.state = .active || q.state = .error

/-- The code of QSTAT.STATE (04 R70). -/
def QState.code (q : QState) : Nat :=
  match q with
  | .free => 0 | .active => 1 | .error => 2 | .destroyed => 3 | .destroyedRunning => 4

/-- A phase in which the launch holds its cores (04 R70, 06 R108). -/
def LPhase.holds (p : LPhase) : Bool :=
  match p with
  | .loading | .running | .stopping | .stopped | .saving | .resuming => true
  | _ => false

/-- A saved launch still keeps a core: an operation that it held after a REL has not left (06 R100, R108). -/
def State.keepsCores (s : State) (l : Launch) : Bool := s.saved.any fun x => x.launch = l.id && !x.ctx.held.isEmpty

/-- HELD: a launch of the queue holds a core, or a saved context still has held operations (04 R70, 06 R108). -/
def State.held (s : State) (q : Nat) : Bool :=
  s.launches.any (fun l => l.queue = q && l.phase.holds)
    || s.saved.any fun x => !x.ctx.held.isEmpty && s.launches.any fun l => l.id = x.launch && l.queue = q

/-- QSTAT (04 R70). -/
def State.qstat (s : State) (n : Nat) : Word :=
  let q := s.queue n
  BitVec.ofNat 64 (q.done % 2 ^ 32 * 2 ^ 32 + q.lasterr % 256 * 2 ^ 24 + q.rung % 4 * 2 ^ 14 + b2n q.revoked * 2 ^ 13
    + b2n q.tainted * 2 ^ 12 + b2n (s.held n) * 2 ^ 11 + q.state.code)

/-- A queue error: LASTERR, and STATE becomes ERROR (04 R75 to R77, R84). -/
def State.queueError (s : State) (q code : Nat) : State :=
  s.updQueue q fun x => { x with lasterr := code, state := if x.state = .active then .error else x.state }

/-! Kicking a queue (04 R74, R75). -/

/-- The HBM4 address of ring unit k (04 R74). -/
def Queue.unitAt (q : Queue) (k : Nat) : Nat := q.qbase.toNat + 64 * (k % 2 ^ q.logsz)

/-- The event that handles a packet of a type; one of an unlisted type fails validation wherever it is looked at (04 R76). -/
def packetEvent (type q : Nat) : Instr :=
  match type with
  | 2 => .wait q
  | 3 => .signal q
  | 4 => .copyPacket q
  | 5 => .query q
  | _ => .launch q

/-- The ordering lock of a queue is held by a quiesce: until it is released no packet is dispatched and no command taken
(05 R93). -/
def State.locked (s : State) (n : Nat) : Bool := s.fw.state = 3 || (s.fw.state = 2 && (s.queue n).disp = .none)

/-- A tail write, or what else makes the packet at QHEAD due, sends a teller to look at it (04 R74, 05 R87, R88). -/
def State.kick (s : State) (n : Nat) : State :=
  let q := s.queue n
  if q.state = .active && !s.locked n && !q.kicked && q.disp = .none && q.qhead < q.qtail then
    let type := (Store.read s.mem.hbm (q.unitAt q.qhead)).toNat
    (s.updQueue n fun x => { x with kicked := true }).post (packetEvent type n)
  else s

/-- The event that handles a command of queue n (04 R71, R73, 06 R104). -/
def cmdEvent (c n : Nat) : Instr :=
  match c with
  | 1 => .qcmdCreate n
  | 2 => .qcmdDestroy n
  | 3 => .preemptStop n
  | _ => .preemptResume n

/-- A look that a teller has taken is over within 20 microseconds of a tail write that finds a teller idle and no urgent event pending
(05 R88). -/
def State.hasten (s : State) (n : Nat) : State :=
  if (s.queue n).kicked && s.tellers.taken.length < 12 && !s.tellers.pending.any fun e => e.1 then
    let (d, s) := s.drawBelow 25001
    let t := s.chip + d
    let mine (i : Instr) : Bool := queueOf i = some n && s.tellers.taken.contains i
    { s with agenda := s.agenda.map fun e => if mine e.2 then (min e.1 t, e.2) else e }
  else s

/-- A command enters the tellers' event queue (05 R87); the commands of one queue are handled in their order (05 R88). -/
def State.command (s : State) (n c : Nat) : State :=
  (s.updQueue n fun q => { q with cmds := q.cmds ++ [c] }).post (cmdEvent c n)

/-- An earlier command of the queue still waits for the ordering lock, so that a later one waits too (05 R88). -/
def State.cmdBehind (s : State) (n c : Nat) : Bool := (s.queue n).cmds.head?.any (· ≠ c)

/-- A command has been handled: the next packet follows. -/
def State.cmdDone (s : State) (n c : Nat) : State :=
  if (s.queue n).cmds.head? = some c then
    let s := s.updQueue n fun q => { q with cmds := q.cmds.tail, cmdWaits := false }
    if (s.queue n).cmds.isEmpty then s.kick n else s
  else s

/-- A command waits for the ordering lock (04 R73, 05 R93). -/
def State.cmdWait (s : State) (n c : Nat) : State :=
  s.updQueue n fun q => { q with cmds := if q.cmds.head? = some c then q.cmds else c :: q.cmds, cmdWaits := true }

/-- The lock is free: the command that waited for it is handled. -/
def State.cmdGo (s : State) (n : Nat) : State :=
  match (s.queue n).cmds.head? with
  | some c => (s.updQueue n fun q => { q with cmdWaits := false }).plan s.chip (cmdEvent c n)
  | none => s

/-- Every queue is looked at again. -/
def State.kickAll (s : State) : State := (s.queues.map fun p => p.1).foldl (fun s n => s.kick n) s

/-- A dispatch ends: QHEAD passes its packet, and the next one is looked at (04 R75). A command that waited goes on
(04 R73). -/
def State.endDispatch (s : State) (n units : Nat) : State :=
  let s := s.updQueue n fun q => { q with qhead := q.qhead + units, disp := .none }
  if (s.queue n).cmdWaits then s.cmdGo n else s.kick n

/-! Completion records (04 R77). -/

/-- The 128 bits of a completion record. -/
def recordBits (relcyc tag code rung : Nat) (laterel taint : Bool) (detail : Nat) : Nat :=
  relcyc % 2 ^ 64 * 2 ^ 64 + tag % 2 ^ 16 * 2 ^ 48 + code % 256 * 2 ^ 40 + rung % 4 * 2 ^ 38 + b2n laterel * 2 ^ 37
    + b2n taint * 2 ^ 36 + detail % 2 ^ 32

/-- The HBM4 address that a root gives a virtual address for a write by the tellers, or the cause of 03 R57 that keeps it
out. -/
def State.tellerPa (s : State) (root va : Nat) (write : Bool) : Except Nat Nat :=
  match s.mem.walk root va with
  | .error k => .error k
  | .ok l =>
    let k := permCause l.pte write true
    if k ≠ 0 then .error k else .ok (l.pa va)

/-- The tellers write bytes of one page at an address of a context whose write they have had translated (03 R67): to a page under
write-block they go to the old copy and stand parked too, so that the page's new copy has them; 256 stands for the tellers (log 32). -/
def State.tellerPut (s : State) (root va pa : Nat) (data : List Byte) : State :=
  let s := s.writeMem 0 pa data
  match s.xlate.migOf (root % 4096) va with
  | none => s
  | some m =>
    let p : Parked := ⟨homeDie pa, 256, 0, true, m.slot, va % 2 ^ m.size, data.length, .store data, s.chip⟩
    { s with xlate := { s.xlate with parked := s.xlate.parked ++ [p] } }

/-- The tellers write at an address of a context, or the cause of the fault (03 R57). -/
def State.tellerWrite (s : State) (root va : Nat) (data : List Byte) : Except Nat State :=
  match s.tellerPa root va true with
  | .error k => .error k
  | .ok pa => .ok (s.tellerPut root va pa data)

/-- The MSI-X message of a packet whose DONE advances (04 R77). -/
def State.recordMsix (s : State) (n : Nat) (h : PktHead) : State :=
  let q := s.queue n
  if h.notify && q.notify then s.msix q.msix else s

/-- A record is written at CPLADDR, or is not, with CPL_FAULT unless the packet was malformed; DONE advances
(04 R76, R77). -/
def State.putRecord (s : State) (n : Nat) (h : PktHead) (rec : Nat) (malformed : Bool) : State :=
  let q := s.queue n
  let s := if h.cpladdr = 0 then s
    else if h.cpladdr % 16 ≠ 0 then s
    else match s.tellerWrite q.qroot.toNat h.cpladdr (numBytes 16 rec) with
      | .ok t => t
      | .error _ => if malformed then s else s.queueError n 0x15
  let s := s.updQueue n fun q => { q with done := (q.done + 1) % 2 ^ 32 }
  (s.recordMsix n h).kick n

/-- The record of a packet other than a LAUNCH that completes with a code. -/
def State.completePacket (s : State) (n : Nat) (h : PktHead) (code detail : Nat) : State :=
  (s.putRecord n h (recordBits 0 h.tag code 0 false false detail) false).endDispatch n h.nunits

/-! The record of a launch under its escrow mode (04 R82, 07 R127, R128). -/

/-- The launch's record with a code. DESIGN CHOICE (log 33): RELCYC of a launch that ends before its release is 0; the manual names no
value. -/
def Launch.recordWith (l : Launch) (code : Nat) (taint : Bool) (detail : Nat) : Nat :=
  recordBits (if l.released then l.relcyc else 0) l.head.tag code l.rung (l.laterel && l.released) taint detail

/-- A launch that is over and has nothing more to report is forgotten. -/
def State.forget (s : State) (id : Nat) : State :=
  { s with launches := s.launches.filter fun l =>
      !(l.id = id && l.recorded && (l.escrow ≠ 2 || l.prov.isEmpty || l.taint ≠ 0)) }

/-- An ended launch's record is written as soon as its escrow mode lets it (04 R82). -/
def State.settle (s : State) (id : Nat) : State :=
  match s.launch? id with
  | none => s
  | some l =>
    if l.phase ≠ .escrowed || l.recorded || l.dumping then s
    else
      let put (code : Nat) (taint : Bool) (detail : Nat) : State :=
        let s := s.putRecord l.queue l.head (l.recordWith code taint detail) false
        (s.updLaunch id fun l => { l with recorded := true }).forget id
      if l.escrow = 1 then
        if l.taint ≠ 0 then
          let s := put 1 true (l.taint % 2 ^ 32)
          s.updQueue l.queue fun q => { q with tainted := true }
        else if l.prov.isEmpty then put l.code false l.detail else s
      else if l.escrow = 2 && l.taint ≠ 0 then
        let s := put 2 true (l.taint % 2 ^ 32)
        s.updQueue l.queue fun q => { q with tainted := true, revoked := true }
      else put l.code false l.detail

/-- A record already written under RELEASE is rewritten as REVOKED (04 R82, 07 R128), or cannot be, with CPL_FAULT (04 R77). -/
def State.revoke (s : State) (id : Nat) : State :=
  match s.launch? id with
  | none => s
  | some l =>
    let q := s.queue l.queue
    let s := if l.head.cpladdr = 0 || l.head.cpladdr % 16 ≠ 0 then s
      else match s.tellerWrite q.qroot.toNat l.head.cpladdr (numBytes 16 (l.recordWith 2 true (l.taint % 2 ^ 32))) with
        | .ok t => t
        | .error _ => s.queueError l.queue 0x15
    let s := s.updQueue l.queue fun q => { q with tainted := true, revoked := true }
    (if l.head.notify && q.notify then s.msix q.msix else s).forget id

/-! The configuration record (01 R18, R22, R23). -/

/-- The slot of the valid record with the higher sequence number (01 R23 step 2). -/
def State.recordSlot (s : State) : Nat :=
  match (s.flash.getD 0 FlashRecord.factory).seq, (s.flash.getD 1 FlashRecord.factory).seq with
  | some a, some b => if a < b then 1 else 0
  | none, some _ => 1
  | _, _ => 0

/-- The configuration record in use. -/
def State.record (s : State) : FlashRecord := s.flash.getD s.recordSlot FlashRecord.factory

/-- The record is rewritten with the present binding and retirements: into the slot that is not in use, with the next sequence
number (01 R18, R22, 07 R131; log 11). -/
def State.rewriteRecord (s : State) : State :=
  let old := s.record
  let r := s.reliab
  let new : FlashRecord :=
    { old with seq := some (old.seq.getD 0 + 1), bind := r.bind, retired := r.retired, homeless := r.homeless, spares := r.spares }
  { s with flash := s.flash.set (1 - s.recordSlot) new }

/-- A launch uses the physical cluster of core n until now (07 R127). -/
def useNow (l : Launch) (p chip : Nat) : Launch :=
  { l with prov := (p, chip) :: l.prov.filter fun x => x.1 ≠ p }

/-- The cores that a launch holds or has saved stand on clusters that it uses until now. -/
def State.touchProv (s : State) (id : Nat) : State :=
  match s.launch? id with
  | none => s
  | some l =>
    let mine := l.pkt.cores.filter fun n => (s.core n).launch = some id
    let chip := s.chip
    mine.foldl (fun s n => s.updLaunch id fun l => useNow l (s.physOf n) chip) s

/-! The rotating scan (07 R126, R129, 06 R111). -/

/-- SCAN_IVL in chip cycles (07 R132). -/
def Reliab.scanIvl (r : Reliab) : Nat := bits r.relcfg.toNat 0 16 * Config.usec

/-- Changes the scan of a die. -/
def State.updScan (s : State) (die : Nat) (f : Scan → Scan) : State :=
  { s with reliab := { s.reliab with scans := s.reliab.scans.mapIdx fun i x => if i = die then f x else x } }

/-- The scan of a die. -/
def State.scan (s : State) (die : Nat) : Scan := s.reliab.scans.getD die Scan.reset

/-- The chip cycle on which the last passed scan of physical cluster 17d + P began. -/
def State.lastPass (s : State) (p : Nat) : Nat := ((s.reliab.passed.find? fun x => x.1 = p).map fun x => x.2).getD 0

/-- The spare physical cluster of a die. -/
def State.spareOf (s : State) (die : Nat) : Option Nat :=
  let used := (List.range 16).filterMap fun c =>
    if s.reliab.homeless.contains (16 * die + c) then none else some (s.bound die c)
  (List.range 17).find? fun p => !used.contains p && !s.reliab.retired.contains (17 * die + p)

/-- The logical clusters of a die that have a home. -/
def State.homed (s : State) (die : Nat) : List Nat :=
  (List.range 16).filter fun c => !s.reliab.homeless.contains (16 * die + c)

/-- The logical cluster whose physical cluster has the oldest last passed scan; among equals the lowest physical number
(07 R126). -/
def State.oldestOf (s : State) (die : Nat) (cs : List Nat) : Option Nat :=
  cs.foldl (fun b c => match b with
    | none => some c
    | some x =>
      let p := s.bound die c
      let q := s.bound die x
      let tp := s.lastPass (17 * die + p)
      let tq := s.lastPass (17 * die + q)
      if tp < tq || (tp = tq && p < q) then some c else some x) none

/-- The next naming of a die: SCAN_IVL, as it was at the last one, after that, and not before the cut-over (07 R126). -/
def State.planNaming (s : State) (die : Nat) : State := s.plan (max (s.scan die).nextAt s.chip) (.scanName die)

/-- A naming takes place now; the present SCAN_IVL governs the next (07 R126). -/
def Scan.atNaming (d : Scan) (chip ivl : Nat) : Scan := { d with namedAt := chip, nextAt := chip + ivl }

/-- A migration or an in-place scan involves the cluster of a core (06 R100, R111, 07 R129). -/
def State.scanHolds (s : State) (n : Nat) : Bool :=
  match s.reliab.scans[dieOf n]? with
  | some d => (d.moving && d.named = some (clusterOf n)) || (d.inPlace && d.scanning.isSome && d.subject = clusterOf n)
  | none => false

/-- A launch's escrow waits for a scan of physical cluster 17d + P (07 R127). -/
def State.escrowNeeds (s : State) (p : Nat) : Bool :=
  s.launches.any fun l => l.phase = .escrowed && l.prov.any fun x => x.1 = p

/-- No launch or saved context holds a core (06 R100). -/
def State.coreLoose (s : State) (n : Nat) : Bool :=
  (s.core n).launch.isNone && (s.core n).mode = .idle && !(s.saved.any fun x => x.core = n && !x.ctx.held.isEmpty)

/-- The cluster of a stopped die that is scanned in place now (07 R129): of the free ones, one that a launch's escrow needs, the
oldest first; else, once SCAN_IVL has passed, the oldest of the others that are not earmarked. -/
def State.inPlaceNow (s : State) (die : Nat) : Option Nat :=
  let d := s.scan die
  let free := (s.homed die).filter fun c => (clusterCores die c).all s.coreLoose
  let needed := free.filter fun c => s.escrowNeeds (17 * die + s.bound die c)
  if !d.stopped || d.scanning.isSome || !s.power.ready then none
  else if !needed.isEmpty then s.oldestOf die needed
  else if s.chip < d.nextAt then none
  else s.oldestOf die (free.filter fun c => (clusterCores die c).all fun n => !s.marks.any fun m => m.1 = n)

/-- The next in-place scan of a die that is due now (07 R129). -/
def State.scanFree (s : State) (die : Nat) : State :=
  match s.inPlaceNow die with
  | some c => if s.agenda.any fun e => e.2 = .scanInPlace die c && e.1 ≤ s.chip then s else s.plan s.chip (.scanInPlace die c)
  | none => s

/-- The in-place scans of every die that are due now. -/
def State.scanFreeAll (s : State) : State := (List.range 4).foldl State.scanFree s

/-! Freeing and ending. -/

/-- A core after its launch is over: everything cleared but the vault, which a KEEPV launch may take over (04 R80). -/
def Core.freed (c : Core) (q gen : Nat) : Core :=
  { Core.idle with vault := c.vault, vaultTag := c.vaultTag, lineTags := c.lineTags, prevQueue := some (q, gen) }

/-- Core n is let go by a launch: the checks of a command boundary follow (06 R100, 07 R131, 06 R111). -/
def State.freeCore (s : State) (n : Nat) (l : Launch) : State :=
  if (s.core n).launch = some l.id then
    let s := s.endEpisode n
    let s := s.updCore n fun c => c.freed l.queue l.gen
    let s := { s with dbg := { s.dbg with upsets := s.dbg.upsets.filter fun u => u.core ≠ n } }
    let s := if s.reliab.pendingRows.any fun p => p.1 = s.physCore n then s.plan s.chip (.rowRetire n) else s
    ((s.scanStart (dieOf n)).scanFree (dieOf n)).nextWalk (dieOf n)
  else s

/-- A launch that is over lets go of its cores, saved contexts and rounds; its owner tag waits for the sweeps (07 R122). -/
def State.release (s : State) (l : Launch) : State :=
  let s := s.touchProv l.id
  let s := l.pkt.cores.foldl (fun s n => s.freeCore n l) s
  let chip := s.chip
  { s with
    saved := s.saved.filter (fun x => x.launch ≠ l.id), rounds := s.rounds.filter fun r => r.launch ≠ l.id,
    reliab := { s.reliab with
      oldTags := if l.owner = 0 then s.reliab.oldTags else s.reliab.oldTags ++ [(l.owner, chip)] } }

/-- A launch ends with a code: the first that reaches it (01 R25). Its cores are free, its dispatch is over, and its record
follows its escrow mode (04 R81 to R83). -/
def State.endLaunch (s : State) (id code detail : Nat) : State :=
  match s.launch? id with
  | none => s
  | some l =>
    if l.phase = .escrowed || l.phase = .ended then s
    else
      let s := (s.release l).updLaunch id fun l => { l with phase := .escrowed, code := code, detail := detail }
      let s := if (s.queue l.queue).disp = .launch id then s.endDispatch l.queue l.head.nunits else s
      ((s.settle id).scanFreeAll).plan s.chip .launchClaim

/-- A core trap that no handler takes ends its launch with code TRAP (04 R81). -/
def trapDetail (n cls pc : Nat) : Nat := n % 256 * 2 ^ 24 + cls % 16 * 2 ^ 20 + pc % 2 ^ 16

/-- A launch of a queue is discarded without a record (04 R73). -/
def State.discard (s : State) (l : Launch) : State :=
  let s := s.release l
  { s with launches := s.launches.filter fun x => x.id ≠ l.id }

/-! Group timers that stand still (06 R106, 02 R41). -/

/-- The timer of a group operation stands still: a debug hold is in force, or the ladder of the launch that opened it. -/
def State.opStands (s : State) (o : GroupOp) : Bool :=
  !s.fabric.holds.isEmpty ||
    match o.own with
    | some (n, cmd) =>
      match (s.owner n cmd).launch.bind s.launch? with
      | some l => l.ladder && l.stopAt.isSome
      | none => false
    | none => false

/-- Every group timer starts to stand still, or runs again with what remains of it. -/
def State.retime (s : State) : State :=
  let chip := s.chip
  let again := s.fabric.ops.filter fun o => o.paused.isSome && !s.opStands o
  let turn (o : GroupOp) : GroupOp :=
    match o.paused with
    | none => if s.opStands o then { o with paused := some (o.deadline - chip) } else o
    | some r => if s.opStands o then o else { o with paused := none, deadline := chip + r }
  let s' := { s with fabric := { s.fabric with ops := s.fabric.ops.map turn } }
  again.foldl (fun s o => s.plan (chip + (o.paused.getD 0)) (.groupTimerExpiry o.group)) s'

/-! The waits of a core that goes on (09 R161, 15 R275). -/

/-- A core that starts or goes on while its launch is in a debug stop stands in it too (08 R136). -/
def State.debugJoin (s : State) (n : Nat) : State :=
  let chip := s.chip
  if s.inDebug n then s.updCore n fun c => c.debugStop chip else s

/-- The tellers' return from ALLOWANCE, with the semantics of an ERET: REFILL is added, the loads in flight are issued again, and
the core goes on (04 R81, 09 R161, R166). -/
def Core.refill (c : Core) (n t : Nat) : Core :=
  { c with mode := .running, record := none, lagCheck := true, allow := min (c.allow + n) (2 ^ 48 - 1) }.reissueGlobals.reenter
    t

end Sys2Proof.Machine
end

