-- ==== Sys2Proof/Machine/Dump.lean ====
section
/-! DEFINITION. The contents of a core dump and where they go (08 R142 to R144, 09 R164, 19 R336; log 24). -/

namespace Sys2Proof.Machine

/-! The flight log (09 R164). -/

/-- An entry: KIND, SRC, due cycle, DEST, NPLY, payload plies, landing cycle (0 for none), value, and words 2 and 3; WIN after
the due cycle. -/
structure LogEntry where
  kind : Nat
  src : Nat
  due : Nat
  win : Nat
  dest : Nat
  nply : Nat
  payload : Nat
  landAt : Option Nat
  value : Nat
  mask : Nat
  deriving DecidableEq, Repr

/-- Where a load goes: start ply or scalar number, and plies per lane. -/
def LoadTo.destOf (t : LoadTo) : Nat × Nat :=
  match t with
  | .plies p w | .nibbles p w _ => (p, w)
  | .scalar r _ _ => (r, 0)
  | _ => (0, 0)

/-- A die-vault access: its window lies at issue+12 to issue+32 (11 R192). -/
def Item.ofDie (i : Item) : Bool :=
  match i.act with
  | .sample _ _ _ l _ _ _ => l = i.issued + 40
  | .atomic _ _ _ _ _ _ _ l _ => l = i.issued + 40
  | .perform _ _ _ own => !own && i.issued + 12 ≤ i.due
  | _ => false

/-- The cycle that REMAIN of an entry counts to: for a die-vault access the first of its remaining window (09 R164). -/
def Item.remainAt (i : Item) (sched : Nat) : Nat := if i.ofDie then max (i.issued + 12) sched else i.due

/-- The mask that a flag capture in flight with a ply write of the same slot and bundle adds to its entry, in plies: 10 after the
data (10 R178). -/
def Item.maskPlies (c : Core) (i : Item) : Nat :=
  let twin (j : Item) : Bool :=
    j.src = i.src && j.issued = i.issued && match j.act with | .land (.flags ..) => true | _ => false
  match i.act with
  | .land (.plies ..) | .landTrap (.plies ..) => if c.items.any twin then 10 else 0
  | _ => 0

/-- The entry of a pending item; engine units and bookkeeping have none. -/
def Item.logEntry (c : Core) (i : Item) : Option LogEntry :=
  let all := 2 ^ 128 - 1
  let mk (kind dest nply : Nat) (landAt : Option Nat) (value mask : Nat) : Option LogEntry :=
    if 8 ≤ i.src then none else some ⟨kind, i.src, i.remainAt c.sched,
      if i.ofDie then i.issued + 32 - i.remainAt c.sched else 0, dest, nply, i.act.payload + i.maskPlies c, landAt, value, mask⟩
  match i.act with
  | .land (.plies p n m _) | .landTrap (.plies p n m _) => mk 1 p n none 0 m.toNat
  | .land (.pred p m _) => mk 2 p 0 none 0 m.toNat
  | .land (.scalar r v) => mk 3 r 0 none v.toNat 0
  | .land (.flag _ f v) => mk 4 f 0 none (b2n v) 0
  | .land (.ctrl r v) => mk 5 0 0 none v.toNat r
  | .sample _ a _ l into _ _ => mk 6 into.destOf.1 into.destOf.2 (some l) a all
  | .perform _ a _ _ => mk 6 0 0 none a all
  | .performPlies p _ _ => mk 6 0 0 none (p / 2) all
  | .atomic _ a _ _ _ _ d l _ => mk 6 d 0 (some l) a 0
  | .globalLand id =>
    match c.global? id with
    | some g =>
      if g.cmd.isSome then none else match g.kind with
      | .load _ into _ => mk 7 into.destOf.1 into.destOf.2 none g.va 0
      | .atomic _ _ _ _ d => mk 3 d 0 none (g.data.getD 0) 0
      | _ => none
    | none => none
  | _ => none

/-- The entry of a load of an M slot that waits for its page (09 R166). -/
def GlobalAcc.logEntry (a : GlobalAcc) : Option LogEntry :=
  match a.kind with
  | .load _ into _ => some ⟨7, a.src, a.landAt, 0, into.destOf.1, into.destOf.2, 0, none, a.va, 0⟩
  | _ => none

/-- The 256 bits of an entry whose payload begins at off. -/
def LogEntry.bits (e : LogEntry) (sched off : Nat) : Nat :=
  let rem (t : Nat) : Nat := (t - sched) % 4096
  e.kind * 2 ^ 60 + e.src % 8 * 2 ^ 57 + rem e.due * 2 ^ 45 + e.dest % 2048 * 2 ^ 34 + e.nply % 512 * 2 ^ 25
    + off % 256 * 2 ^ 17 + (e.landAt.map rem).getD 0 * 2 ^ 5 + e.win % 32 + e.value % 2 ^ 64 * 2 ^ 64 + e.mask % 2 ^ 128 * 2 ^ 128

/-- An engine-progress block (19 R336). -/
def Core.engineBlock (c : Core) (b : Nat) : Nat :=
  let mine := c.engines.filter fun e => e.block = b && !e.ended
  match mine.find? fun e => !e.streamDone with
  | some e =>
    let state := if e.fault.isSome then 2 else 1
    let code := (e.fault.map fun f => f.1).getD 0
    let next := if e.started then e.reads else 0
    e.op % 64 * 2 ^ 58 + state * 2 ^ 56 + code % 256 * 2 ^ 48 + next % 2 ^ 24 * 2 ^ 24
      + (e.readAt next - c.sched) % 4096 * 2 ^ 12 + b2n e.post * 2 ^ 11 + e.cf % 64 * 2 ^ 5
      + e.va.toNat * 2 ^ 64 + e.vb.toNat * 2 ^ 128 + e.vc.toNat * 2 ^ 192
  | none => if mine.isEmpty then 0 else 2 ^ 56

/-- The 8 KiB of the flight log of a core (09 R164): what stands in flight now, in the order of issue. -/
def Core.flightLog (c : Core) : List Byte :=
  let flying := (sortBy (fun (a b : Item) => decide (a.seq ≤ b.seq)) c.items).filterMap fun i => i.logEntry c
  let es := (flying ++ c.pageWaits.filterMap GlobalAcc.logEntry).take 248
  let placed := es.foldl (fun (a : List (LogEntry × Nat) × Nat) e => (a.1 ++ [(e, a.2)], a.2 + e.payload)) ([], 0)
  let trapped := c.record.filter fun r => !c.handler || r.escalated
  let respc := (trapped.map fun r => r.respc).getD c.pc
  let cls := (trapped.map fun r => r.cls).getD 15
  let kind := (trapped.map fun r => r.kind).getD 2
  let frz := match trapped with
    | some r => r.frz
    | none => c.frzAt
  let done := (trapped.map fun r => r.done).getD c.done
  let fcause := (trapped.map fun r => r.fcause).getD 0
  let fva := (trapped.map fun r => r.fva).getD 0
  let w0 := 0x464C * 2 ^ 48 + respc % 2 ^ 16 * 2 ^ 32 + es.length * 2 ^ 24 + done % 256 * 2 ^ 16 + cls % 16 * 2 ^ 12
    + kind % 16 * 2 ^ 8 + frz % 16 * 2 ^ 4
  let w2 := match c.poison with | some p => 2 ^ 63 + p % 2 ^ 52 | none => 0
  let w3 := fcause % 16 * 2 ^ 60 + fva % 2 ^ 57
  let head := w0 + c.schedcyc % 2 ^ 64 * 2 ^ 64 + w2 * 2 ^ 128 + w3 * 2 ^ 192
  numBytes 64 head ++ (List.range 6).flatMap (fun b => numBytes 32 (c.engineBlock b))
    ++ placed.1.flatMap (fun p => numBytes 32 (p.1.bits c.sched p.2)) ++ List.replicate (32 * (248 - es.length)) 0

/-! The sections (08 R143). -/

/-- Section 4, the register space: 1 KiB for each lane, lane 0 first, two plies in a byte, the lower in bits 3 to 0. -/
def Core.plyImage (c : Core) : Store 8 :=
  let keys := (List.range 1024).filter fun k => c.plies.any fun p => p.1 / 2 == k
  lanes.flatMap fun l => keys.filterMap fun k =>
    let nib (p : Nat) : Nat := (Store.read c.plies p).toNat >>> (4 * l) % 16
    let v : Byte := BitVec.ofNat 8 (nib (2 * k) + 16 * nib (2 * k + 1))
    if v = 0 then none else some (1024 * l + k, v)

/-- A section header. -/
def sectionHead (type len : Nat) : List Byte := numBytes 16 (type + len * 2 ^ 32)

/-- Word 7 of the header: COUNT, CAUSE, STATUS (08 R143). -/
def dumpWord7 (count cause status : Nat) : Nat := count % 2 ^ 32 * 2 ^ 32 + cause % 16 * 2 ^ 4 + status

/-- What section 2 holds (08 R143): the sequencer's state (09 R149 to R151, 10 R184). -/
def Core.sequencerFacts (c : Core) : List (List Nat) :=
  let level (l : LoopLevel) : List Nat :=
    [l.first, l.last, l.remaining, l.index] ++ match l.spool with
      | some x => [x.n, x.stages, b2n x.due] ++ x.deltas.flatMap fun d => [d.1, d.2.toNat]
      | none => []
  [[c.pc, c.npc, c.allow, c.slack, c.lag, c.schedcyc, c.done], c.rets,
   (match c.xfer with | some (a, k, p) => [a, k, b2n p] | none => []),
   (match c.rep with | some (a, k) => [a, k] | none => [])] ++ c.loops.map level

/-- What section 3 holds (08 R143): scalars, predicates, control registers, sync flags and the coefficient flag file. -/
def Core.registerFacts (c : Core) : List (List Nat) :=
  let all {w : Nat} (m : Store w) (n : Nat) : List Nat := (List.range n).map fun i => (Store.read m i).toNat
  [all c.scalars 64, all c.preds 128, all c.ctrl 256, [c.flags.toNat, c.trappc, c.trapcause, c.ackc, c.corrcnt],
   all c.flagFile 128, c.engQ.map BitVec.toNat, c.corQ.map BitVec.toNat]

/-- A whole dump whose header says INCOMPLETE: the header and the sections (08 R143, R144). Where the facts of sections 2 and 3
stand in them is free (log 24). -/
def State.dumpImage (s : State) (d : Dump) : Store 8 :=
  let c := s.core d.core
  let l := s.launch? d.launch
  let tag := (l.map fun x => x.owner).getD 0
  let w0 := 0x4455 * 2 ^ 48 + 2 ^ 40 + d.core % 256 * 2 ^ 32 + c.pc % 2 ^ 16 * 2 ^ 16
  let head := w0 + c.schedcyc % 2 ^ 64 * 2 ^ 64 + d.chip % 2 ^ 64 * 2 ^ 128 + Config.dumpBytes * 2 ^ 192
    + (tag % 2 ^ 16 * 2 ^ 16 + d.queue % 1024) * 2 ^ 256 + dumpWord7 0 0 1 * 2 ^ 448
  let m : Store 8 := []
  let m := Store.put m 0 (numBytes 64 head ++ sectionHead 1 8192 ++ c.flightLog)
  let m := Store.put m 8272 (sectionHead 2 1024 ++ (List.range 1024).map (Config.dumpByte 2 c.sequencerFacts))
  let m := Store.put m 9312 (sectionHead 3 8192 ++ (List.range 8192).map (Config.dumpByte 3 c.registerFacts))
  let m := Store.put m 17520 (sectionHead 4 131072)
  let m := Store.blit m c.plyImage 0 17536 131072
  let m := Store.put m 148608 (sectionHead 5 1572864)
  Store.blit m c.vault 0 148624 1572864

/-! Writing (08 R144). -/

/-- The root that translates the addresses of a dump. -/
def State.dumpRoot (s : State) (d : Dump) : Nat := (s.queue d.queue).qroot.toNat

/-- A dump ends with a count, a cause and a status: word 7 is written last, if the header is there, and DUMPSTAT says the same
(08 R142, R144). -/
def State.endDump (s : State) (d : Dump) (count cause status : Nat) : State :=
  let s := if count < 64 then s
    else match s.tellerWrite (s.dumpRoot d) (s.dbg.dumpVa.toNat + 56) (numBytes 8 (dumpWord7 count cause status)) with
      | .ok t => t
      | .error _ => s
  { s with
    dbg := { s.dbg with dump := none, dumpStat := BitVec.ofNat 64 (count * 2 ^ 8 + cause * 2 ^ 4 + status) } }

/-- The next stretch of a dump is written: first the header, then what lies in each page up to the buffer's end; the dump ends
there, or at the first byte that does not translate (08 R144). -/
def State.dumpStep (s : State) (d : Dump) : State :=
  let last := min d.limit Config.dumpBytes
  let va := s.dbg.dumpVa.toNat + d.off
  if last ≤ d.off then s.endDump d last 0 (if d.limit < Config.dumpBytes then 3 else 2)
  else
    let len := if d.off = 0 then 64 else min (4096 - va % 4096) (last - d.off)
    let piece := Store.blit [] (s.dumpImage d) d.off 0 len
    match s.tellerWrite (s.dumpRoot d) va ((List.range len).map fun i => Store.read piece i) with
    | .error cause => s.endDump d d.off cause 4
    | .ok t => { t with dbg := { t.dbg with dump := some { d with off := d.off + len } } }.planFree .dumpComplete

/-- A dump under way ends as DUMP_FAULT at its present offset, with CAUSE 0 (08 R147). -/
def State.breakDump (s : State) : State :=
  match s.dbg.dump with
  | none => s
  | some d => s.endDump d d.off 0 4

/-- A dump with these settings cannot begin: SIZE 0, or DUMPVA misaligned or too high (08 R142). -/
def State.dumpBad (s : State) : Bool :=
  bits s.dbg.dumpCtl.toNat 16 24 = 0 || s.dbg.dumpVa.toNat % 64 ≠ 0 || 2 ^ 57 ≤ s.dbg.dumpVa.toNat

end Sys2Proof.Machine
end

