-- ==== Sys2Proof/Machine/Queue.lean ====
section
/-! DEFINITION. Queues, packets and launches (04 R68 to R85, 06 R100 to R102). -/

namespace Sys2Proof.Machine

/-! Creating and destroying (04 R71, R73). -/

/-- A root has the form of 03 R56: bits [63:52] are 0. -/
def rootOk (r : Nat) : Bool := r < 2 ^ 52

/-- The configuration of a CREATE is acceptable but for its reservations (04 R71). -/
def Queue.cfgOk (q : Queue) : Bool :=
  let c := q.qcfg.toNat
  q.qbase.toNat % 2 ^ 12 = 0 && q.qbase.toNat < 2 ^ 39 && c < 2 ^ 17 && !bit c 5 && 6 ≤ q.logsz && q.logsz ≤ 20
    && q.escrow ≠ 3 && q.msix ≤ 47 && q.qbase.toNat % (64 * 2 ^ q.logsz) = 0 && rootOk q.qroot.toNat
    && ((q.prio = 3) == (q.qrsv ≠ 0))

/-- QCMD CREATE (04 R71). DESIGN CHOICE (log 33): where several conditions reject it, LASTERR is BUSY, else BADCFG, else
RSV_CONFLICT; the manual gives no precedence. -/
def execQcmdCreate (n : Nat) (s : State) : Out :=
  let q := s.queue n
  let reject (code : Nat) : Out := .next ((s.updQueue n fun q => { q with lasterr := code }).cmdDone n 1)
  if !s.power.ready then .next (s.cmdDone n 1)
  else if s.cmdBehind n 1 then .next (s.planFree (.qcmdCreate n))
  else if s.locked n then .next (s.cmdWait n 1)
  else if q.live || s.held n then reject 0x10
  else if !q.cfgOk then reject 0x11
  else if s.queues.any fun p => p.1 ≠ n && p.2.live && p.2.qrsv &&& q.qrsv ≠ 0 then reject 0x12
  else
    let s := s.updQueue n fun q =>
      { q with
        qtail := 0, qhead := 0, done := 0, lasterr := 0, rung := 0, revoked := false, tainted := false, state := .active,
        gen := q.gen + 1, disp := .none, kicked := false }
    .next (s.cmdDone n 1)

/-- QCMD DESTROY (04 R73): it waits for a launch that is being dispatched and for a quiesce; then the queue goes down in one
step, in which every launch that runs or is stopped reaches the reset rung (06 R114). -/
def execQcmdDestroy (n : Nat) (s : State) : Out :=
  let q := s.queue n
  if s.cmdBehind n 2 then .next (s.planFree (.qcmdDestroy n))
  else if !q.live then .next (s.cmdDone n 2)
  else
    let busy := match q.disp with
      | .launch _ => true
      | .copy .. => true
      | _ => false
    if busy || s.locked n then .next (s.cmdWait n 2)
    else
      let held := s.held n
      let mine := s.launches.filter fun l => l.queue = n
      let down := held || mine.any fun l => l.phase = .saved
      let s := if mine.any fun l => s.dbg.dump.any fun d => d.launch = l.id then s.breakDump else s
      let s := mine.foldl State.discard s
      let s := s.updQueue n fun q =>
        { q with state := if held then .destroyedRunning else .destroyed, disp := .none,
                 rung := if down then 3 else q.rung }
      .next ((s.plan s.chip .launchClaim).cmdDone n 2)

/-- QTAIL write (04 R74). -/
def execQtailWrite (n : Nat) (val : Word) (s : State) : Out :=
  let q := s.queue n
  let v := val.toNat
  if !q.live || q.cmds.contains 2 then .next s
  else if v < q.qtail || q.qhead + 2 ^ q.logsz < v then .next (s.queueError n 0x13)
  else .next (((s.updQueue n fun q => { q with qtail := v }).kick n).hasten n)

/-! Looking at a packet (04 R74 to R76, R79). -/

/-- n bytes at an offset of a packet. -/
def pf (p off n : Nat) : Nat := bits p (8 * off) (8 * n)

/-- The header of a packet. -/
def packetHead (p : Nat) : PktHead :=
  ⟨pf p 0 1, pf p 2 2, pf p 4 2, bit p 48, bit p 49, pf p 8 8⟩

/-- The units that a type requires (04 R76, R78). -/
def unitsOf (p : Nat) : Nat :=
  if pf p 0 1 = 1 then (256 + 32 * pf p 22 1 + 16 * pf p 23 1 + 63) / 64 else 1

/-- An offending field: its offset, if the check fails. -/
def offend (bad : Bool) (off : Nat) : List Nat := if bad then [off] else []

/-- Checks of the header (04 R76). -/
def headBad (p : Nat) : List Nat :=
  offend (pf p 1 1 ≠ 0) 1 ++ offend (4 ≤ pf p 6 1) 6 ++ offend (pf p 7 1 ≠ 0) 7 ++ offend (pf p 8 8 % 16 ≠ 0) 8

/-- Checks of TYPE and NUNITS, on the first unit alone (04 R76). -/
def typeBad (p : Nat) : List Nat :=
  let t := pf p 0 1
  offend (t = 0 || 5 < t) 0 ++ offend (1 ≤ t && t ≤ 5 && pf p 2 2 ≠ unitsOf p) 2

/-- A reserved cell of a packet: its offset and its length (04 R84). -/
def cellBad (p off n : Nat) : List Nat := offend (pf p off n ≠ 0) off

/-- Checks of the one-unit packets (04 R84); the reserved part of a cell is a field that begins at its lowest byte (log 25). -/
def unitBad (p : Nat) : List Nat :=
  match pf p 0 1 with
  | 2 => offend (pf p 16 8 % 8 ≠ 0) 16 ++ offend (4 ≤ pf p 40 4) 40 ++ cellBad p 48 16
  | 3 => offend (pf p 16 8 % 8 ≠ 0) 16 ++ cellBad p 32 8 ++ offend (2 ≤ pf p 40 4) 40 ++ cellBad p 44 4 ++ cellBad p 48 16
  | 4 => cellBad p 37 3 ++ cellBad p 40 4 ++ cellBad p 44 4 ++ cellBad p 48 16
  | 5 => offend (pf p 16 8 % 64 ≠ 0) 16 ++ cellBad p 24 8 ++ cellBad p 32 8 ++ cellBad p 40 4 ++ cellBad p 44 4 ++ cellBad p 48 16
  | _ => []

/-- Image descriptor i. -/
def imageAt (p i : Nat) : Image :=
  let o := 256 + 32 * i
  ⟨pf p o 8, pf p (o + 8) 2, pf p (o + 10) 2, pf p (o + 12) 2 % 4096, pf p (o + 14) 2 % 2048, pf p (o + 16) 8⟩

/-- Preset j. -/
def presetAt (p nimg j : Nat) : Preset :=
  let o := 256 + 32 * nimg + 16 * j
  ⟨pf p o 2, pf p (o + 2) 2, BitVec.ofNat 64 (pf p (o + 8) 8)⟩

/-- The body of a LAUNCH (04 R78). -/
def launchBody (p : Nat) : LaunchPkt :=
  let nimg := pf p 22 1
  { reloff := pf p 16 4, slack := pf p 20 2, pptdist := pf p 24 4, scandist := pf p 28 4, allow := pf p 32 6,
    nref := pf p 38 1, apol := pf p 39 1 % 4, keepv := bit p (39 * 8 + 2), refill := pf p 40 4, deleg := pf p 44 2,
    trapvec := pf p 46 2, gangid := pf p 48 4, t1 := pf p 52 2, t2 := pf p 54 2, flags := BitVec.ofNat 64 (pf p 56 8),
    cores := (List.range 256).filter fun n => bit p (64 * 8 + n),
    cmap := (List.range 256).map fun n => bits p (96 * 8 + 4 * n) 4,
    images := (List.range nimg).map (imageAt p), presets := (List.range (pf p 23 1)).map (presetAt p nimg) }

/-- The image of a core. -/
def LaunchPkt.imageOf (l : LaunchPkt) (n : Nat) : Nat := l.cmap.getD n 0

/-- A target of a preset that 04 R78 lists and 10 R188 marks presettable. -/
def presetOk (t : Nat) : Bool := (1 ≤ t && t < 64) || t = 0x200 || (0x100 ≤ t && t < 0x200 && ctrlWritable (t - 0x100))

/-- A device virtual address of an image with an alignment. -/
def vaOk (va align : Nat) : Bool := va % align = 0 && va < 2 ^ 57

/-- The bit of a core's cluster in QRSV. -/
def rsvBit (n : Nat) : Nat := n / 4

/-- The queues' reservations let a launch of queue n run on a core (04 R72, R79). DEDUCED (log 33): a queue in STATE ERROR counts as
active here, as it does for RSV_CONFLICT in 04 R71. -/
def State.rsvOk (s : State) (n core : Nat) : Bool :=
  !(s.queues.any fun p => p.1 ≠ n && p.2.live && p.2.qrsv.getLsbD (rsvBit core))
    && ((s.queue n).prio ≠ 3 || (s.queue n).qrsv.getLsbD (rsvBit core))

/-- Checks of a LAUNCH (04 R78, R79). -/
def State.launchBad (s : State) (n p : Nat) : List Nat :=
  let l := launchBody p
  let nimg := pf p 22 1
  let npre := pf p 23 1
  let used := (l.cores.map l.imageOf).filter (· < nimg)
  let end_ := 256 + 32 * nimg + 16 * npre
  let img (i : Nat) : List Nat :=
    let o := 256 + 32 * i
    let m := imageAt p i
    offend (!vaOk m.codeva 2) o ++ offend (m.codelen < m.entry) (o + 8)
      ++ offend (2048 < m.dictn + m.dictbase) (o + 12) ++ offend (4096 ≤ pf p (o + 12) 2) (o + 13)
      ++ offend (2048 ≤ pf p (o + 14) 2) (o + 15)
      ++ offend (!vaOk m.dictva 16) (o + 16) ++ offend (pf p (o + 24) 8 ≠ 0) (o + 24)
  let pre (j : Nat) : List Nat :=
    let o := 256 + 32 * nimg + 16 * j
    let x := presetAt p nimg j
    offend (x.core ≠ 0xFFFF && !l.cores.contains x.core) 64 ++ offend (!presetOk x.tgt) (o + 2)
      ++ offend (pf p (o + 4) 4 ≠ 0) (o + 4)
  offend (l.cores.isEmpty) 64 ++ offend (nimg = 0 || 16 < nimg || l.cores.any fun c => nimg ≤ l.imageOf c) 22
    ++ offend (l.reloff < 2000) 16 ++ offend (l.allow = 0) 32
    ++ offend (l.apol = 3 || 8 ≤ pf p 39 1 || (l.refill = 0 && (l.apol = 1 || l.apol = 2))) 39
    ++ offend (Nat.land l.deleg 0xF100 ≠ 0
        || (l.deleg ≠ 0 && used.any fun i => (imageAt p i).codelen < l.trapvec)) 44
    ++ offend (pf p 224 32 ≠ 0) 224 ++ (List.range nimg).flatMap img ++ (List.range npre).flatMap pre
    ++ offend (l.cores.any fun c => !s.rsvOk n c) 64 ++ offend (pf p end_ (64 * unitsOf p - end_) ≠ 0) end_

/-- The packet at QHEAD with its units (04 R74). -/
def State.packetAt (s : State) (q : Queue) (units : Nat) : Nat :=
  (List.range units).foldr (fun i acc => Store.num s.mem.hbm (q.unitAt (q.qhead + i)) 64 + acc * 2 ^ 512) 0

/-- A unit of the packet is poisoned. -/
def State.packetPoisoned (s : State) (q : Queue) (units : Nat) : Bool :=
  (List.range units).any fun i => s.mem.hbmPoison.contains (q.unitAt (q.qhead + i) / 64)

/-- Every earlier packet of a queue has written its record (04 R75). -/
def State.recordsDone (s : State) (n : Nat) : Bool := !s.launches.any fun l => l.queue = n && !l.recorded

/-- A packet fails validation (04 R76, R79). -/
def State.malformed (s : State) (n p : Nat) (offs : List Nat) : State :=
  let h := packetHead p
  let detail := offs.foldl min (offs.headD 0)
  let s := s.queueError n 0x0B
  s.putRecord n h (recordBits 0 h.tag 0x0B 0 false false detail) true

/-- A teller looks at the packet at QHEAD (04 R74 to R76): the packet if its dispatch begins now; one that is valid but has FENCE
set, or is a SIGNAL, waits for the earlier records (04 R75, R84). -/
def State.look (s : State) (n : Nat) : State × Option Nat :=
  let s := s.updQueue n fun q => { q with kicked := false }
  let q := s.queue n
  if q.state ≠ .active || s.locked n || q.disp ≠ .none || q.qtail ≤ q.qhead then (s, none)
  else if s.packetPoisoned q 1 then (s.queueError n 0x14, none)
  else
    let p := s.packetAt q 1
    let early := typeBad p
    if !early.isEmpty then (s.malformed n p (headBad p ++ early), none)
    else if q.qtail < q.qhead + pf p 2 2 then (s, none)
    else if s.packetPoisoned q (pf p 2 2) then (s.queueError n 0x14, none)
    else
      let p := s.packetAt q (pf p 2 2)
      let offs := headBad p ++ (if pf p 0 1 = 1 then s.launchBad n p else unitBad p)
      if !offs.isEmpty then (s.malformed n p offs, none)
      else if ((packetHead p).fence || pf p 0 1 = 3) && !s.recordsDone n then (s, none)
      else (s, some p)

/-- A teller handles the packet at QHEAD if it has the wanted type; another type gets its own event. -/
def State.handle (s : State) (n type : Nat) (f : Nat → State → State) : Out :=
  match s.look n with
  | (s, none) => .next s
  | (s, some p) => if pf p 0 1 = type then .next (f p s) else .next (s.kick n)

/-! LAUNCH (04 R80, 06 R100, R101). -/

/-- LAUNCH: a validated packet becomes a waiting launch; while admission is held no LAUNCH is dispatched (01 R21). -/
def execLaunch (n : Nat) (s : State) : Out :=
  s.handle n 1 fun p s =>
    if !s.power.holds.isEmpty then s
    else
      let (id, s) := s.newId
      let q := s.queue n
      let l : Launch :=
        { id := id, queue := n, gen := q.gen, head := packetHead p, pkt := launchBody p, root := q.qroot.toNat,
          prio := q.prio, escrow := q.escrow, owner := 0, beganAt := s.chip, phase := .waiting, claimAt := 0,
          loadedAt := 0, saves := [], relcyc := 0, laterel := false, released := false, refills := 0, stopAt := none,
          hostStop := false, stopWanted := false, stopFor := none, ladder := false, stops := [], rung := 0, restarts := [],
          code := 0, detail := 0, prov := [], taint := 0, recorded := false, dumping := false, dbgAt := none }
      let s := s.updQueue n fun q => { q with disp := .launch id }
      { s with launches := s.launches ++ [l] }.plan s.chip .launchClaim

/-- A core is free (06 R100): held by no launch and by no saved context, in no migration or scan, not kept for an in-place scan
that escrow waits for (07 R129), and with a physical home. -/
def State.coreFree (s : State) (n : Nat) : Bool :=
  let wanted := (s.reliab.scans[dieOf n]?.any fun d => d.stopped) && s.escrowNeeds (s.physOf n)
  s.coreLoose n && !wanted && !s.scanHolds n && !s.reliab.homeless.contains (16 * dieOf n + clusterOf n)

/-- A launch that waits for its cores: not yet claimed, or stopped and saved and not held back by the host (06 R100, R104,
R110). -/
def Launch.waits (l : Launch) : Bool := l.phase = .waiting || (l.phase = .saved && !l.hostStop)

/-- The order of waiting launches (06 R100). -/
def Launch.before (a b : Launch) : Bool :=
  b.prio < a.prio || (a.prio = b.prio && (a.beganAt < b.beganAt || (a.beganAt = b.beganAt && a.queue ≤ b.queue)))

/-- The waiting launches in order. -/
def State.waiting (s : State) : List Launch := sortBy Launch.before (s.launches.filter Launch.waits)

/-- A launch may take a core now: it is free, earmarked for no other launch, and its queue may run there (06 R101, 04 R72). -/
def State.mayTake (s : State) (l : Launch) (n : Nat) : Bool :=
  s.coreFree n && s.rsvOk l.queue n && s.marks.all fun m => m.1 ≠ n || m.2 = l.id

/-- Cores that have become free are earmarked for the first waiting launch that names them and may run there; the earmark ends
with its launch's claim, or with the launch (06 R101; log 33). -/
def State.earmark (s : State) : State :=
  let freed := s.busyCores.filter s.coreFree
  let marks := s.marks.filter fun m => s.waiting.any fun l => l.id = m.2
  let mark (n : Nat) : Option (Nat × Nat) :=
    if marks.any fun m => m.1 = n then none
    else (s.waiting.find? fun l => l.pkt.cores.contains n && s.rsvOk l.queue n).map fun l => (n, l.id)
  { s with marks := marks ++ freed.filterMap mark, busyCores := s.busyCores.filter fun n => !s.coreFree n }

/-- Cores cease to be free. -/
def State.busy (s : State) (ns : List Nat) : State :=
  { s with busyCores := s.busyCores ++ ns.filter fun n => !s.busyCores.contains n }

/-- The next owner tag in rotation (07 R122): one that no launch has, and that the sweeps since its launch's end have set free;
none if no tag is eligible. -/
def State.nextOwner (s : State) : Option Nat :=
  let used := (s.launches.map fun l => l.owner) ++ s.reliab.oldTags.map fun t => t.1
  (((List.range 65535).map fun i => (s.ownerNext - 1 + i) % 65535 + 1).find? fun t => !used.contains t)

/-- The bytes of a range of virtual memory as a number with its poisoned 16-byte granules, or the cause of the lowest fault
(04 R80). DESIGN CHOICE (log 25): a page whose LOC is not 00 faults with LOC, like any access of the tellers. -/
def State.readVirt (s : State) (root va n : Nat) : Except Nat (Nat × List Nat) :=
  (cutBlocks (n + 1) va n).foldr (fun p acc =>
    match s.tellerPa root p.1 false with
    | .error k => .error k
    | .ok pa =>
      match acc with
      | .error k => .error k
      | .ok (v, bad) =>
        let r := s.mem.readNum 0 pa p.2
        let g := (p.1 - va) / 16
        let lines := (List.range ((p.2 + 15) / 16)).filter fun i => r.2.contains ((pa + 16 * i) / 64)
        .ok (r.1 + v * 2 ^ (8 * p.2), lines.map (g + ·) ++ bad)) (.ok (0, []))

/-- A preset acts on a core (04 R80). -/
def Core.preset (c : Core) (p : Preset) : Core :=
  if p.tgt = 0x200 then { c with flags := p.value }
  else if p.tgt < 64 then c.landScalar p.tgt p.value
  else c.landCtl (p.tgt - 0x100) p.value

/-- The launch state of core n of a launch (04 R80, steps 2 and 4), with its image loaded (step 3). -/
def Core.launched (c : Core) (l : Launch) (n : Nat) (m : Image) (code dict : Nat × List Nat) : Core :=
  let keep := l.pkt.keepv && c.prevQueue = some (l.queue, l.gen)
  let base : Core :=
    { Core.idle with
      mode := .claimed, launch := some l.id, pc := m.entry, npc := m.entry, allow := l.pkt.allow, slack := l.pkt.slack,
      flags := l.pkt.flags, codeLen := m.codelen + 1,
      code := Store.put [] 0 ((List.range (m.codelen + 1)).map fun i => BitVec.ofNat 16 (code.1 >>> (16 * i))),
      dict := Store.put [] m.dictbase ((List.range m.dictn).map fun i => BitVec.ofNat 384 (dict.1 >>> (384 * i))),
      dictValid := (List.range m.dictn).map (m.dictbase + ·), codeBad := code.2,
      dictBad := (dict.2.map fun g => m.dictbase + g / 3).eraseDups, vault := if keep then c.vault else [],
      vaultTag := if keep then l.owner else 0, prevQueue := some (l.queue, l.gen) }
  (l.pkt.presets.filter fun p => p.core = 0xFFFF || p.core = n).foldl Core.preset base

/-- The cores of a launch with their images loaded, or the lowest core's fault (04 R80). -/
def State.loadAll (s : State) (l : Launch) : Except (Nat × Nat) (List (Nat × Core)) :=
  l.pkt.cores.foldr (fun n acc =>
    let i := l.pkt.imageOf n
    let m := l.pkt.images.getD i ⟨0, 0, 0, 0, 0, 0⟩
    match s.readVirt l.root m.codeva (2 * (m.codelen + 1)), s.readVirt l.root m.dictva (48 * m.dictn) with
    | .error k, _ => .error (k, i)
    | _, .error k => .error (k, i)
    | .ok code, .ok dict =>
      match acc with
      | .error e => .error e
      | .ok cs => .ok ((n, (s.core n).launched l n m code dict) :: cs)) (.ok [])

/-- The cores of a launch are cleared for it (04 R80 step 2). -/
def State.clearFor (s : State) (l : Launch) : State :=
  l.pkt.cores.foldl (fun s n => s.updCore n fun c => c.launched l n ⟨0, 0, 0, 0, 0, 0⟩ (0, []) (0, [])) s

/-- A waiting launch claims its cores on the dispatch chip cycle and loads them; its release is fixed once they are loaded,
at a free moment. A load that faults ends it with its cores in their launch state (04 R80). -/
def State.claim (s : State) (l : Launch) (tag : Nat) : State :=
  let d := s.chip
  let l := { l with owner := tag }
  let s := { s with ownerNext := tag % 65535 + 1, marks := s.marks.filter fun m => m.2 ≠ l.id }.busy l.pkt.cores
  let s := s.updLaunch l.id fun l => { l with phase := .loading, claimAt := d, owner := tag }
  match s.loadAll l with
  | .error (k, i) => ((s.clearFor l).touchProv l.id).endLaunch l.id 0x0D (k + i * 2 ^ 8)
  | .ok cs =>
    let s := cs.foldl (fun s p => s.setCore p.1 p.2) s
    let s := s.touchProv l.id
    let (x, s) := s.draw
    let y := d + x
    let late := d + l.pkt.reloff < y + 256
    let rel := if late then y + 256 else d + l.pkt.reloff
    (s.updLaunch l.id fun l => { l with loadedAt := y, relcyc := rel, laterel := late }).plan rel .launchRelease

/-- A saved launch claims its cores again: its contexts are restored, and its cores restart with the distances at which they
stopped (06 R110). -/
def State.resumeLaunch (s : State) (l : Launch) : State :=
  let s := { s with marks := s.marks.filter fun m => m.2 ≠ l.id }.busy l.pkt.cores
  let mine := s.saved.filter fun x => x.launch = l.id
  let restore (x : SavedCtx) : SavedCtx :=
    if x.launch = l.id then { x with restoring := true, ctx := { Core.idle with pc := x.ctx.pc } } else x
  let s := { s with saved := s.saved.map restore }
  let s := mine.foldl (fun s x => s.setCore x.core { x.ctx with
    launch := some l.id, tlb := [], recs := [], addrTab := [], array := ArrayState.empty }) s
  let s := s.touchProv l.id
  let bound := if mine.any fun x => x.hbm then 75000 else 5000
  let (x, s) := s.drawBelow bound
  let base := s.chip + 1 + x
  let low := (l.stops.map fun p => p.2).foldl min ((l.stops.map fun p => p.2).headD 0)
  let starts := l.stops.map fun p => (p.1, base + (p.2 - low))
  let s := s.updLaunch l.id fun l =>
    { l with phase := .resuming, restarts := starts, stopAt := none, stopFor := none, ladder := false }
  (starts.map fun p => p.2).foldl (fun s t => s.plan t .contextRestart) s

/-- A waiting launch claims its cores if it may take each of them; without an eligible owner tag its dispatch waits
(06 R100, R101, 07 R122). -/
def State.tryClaim (s : State) (l : Launch) : State :=
  if !(l.pkt.cores.all fun n => s.mayTake l n) then s
  else if l.phase = .saved then s.resumeLaunch l
  else match s.nextOwner with
    | some t => s.claim l t
    | none => s

/-! Pre-emption (06 R102, R105, R106, R108). -/

/-- The contexts of some launches can be saved together: in shadow slots that no other stopping launch will need, or in free slots of
the save area (06 R108). -/
def State.canSaveAll (s : State) (ls : List Launch) : Bool :=
  let stops (x : Launch) : Bool := x.stopAt.isSome && !ls.any fun l => l.id = x.id
  let inShadow (x : Launch) (d : Nat) : Nat := ((s.heldOn x d).filter fun n => !s.ctxsave.getLsbD 0 || s.slotTaken n).length
  let need (x : Launch) (d : Nat) : Nat := if x.saves.any fun v => v.1 = d then 0 else inShadow x d
  (List.range 4).all fun d =>
    (((s.launches.filter stops).map fun x => need x d) ++ ls.map fun l => inShadow l d).foldl (· + ·) 0 ≤ s.shadowFree d

/-- A launch's contexts can be saved (06 R108). -/
def State.canSave (s : State) (l : Launch) : Bool := s.canSaveAll [l]

/-- A stop is requested of a launch (06 R104 to R106), by the host or for a waiting launch. -/
def State.requestStop (s : State) (l : Launch) (host ladder : Bool) (whom : Option Nat) : State :=
  let chip := s.chip
  let s := s.updLaunch l.id fun x =>
    { x with
      hostStop := x.hostStop || host, ladder := x.ladder || ladder, stopWanted := false, stopFor := whom,
      stopAt := some (x.stopAt.getD chip), phase := if x.phase = .running then .stopping else x.phase }
  if ladder && l.stopAt.isNone then
    ((s.plan (chip + l.t1Cycles) .ladderT1).plan (chip + l.t2Cycles) .ladderT2).retime
  else s

/-- Launch v may be stopped for waiting launch w, and by the ladder (06 R102); launches of equal class never stop one another. -/
def State.mayPreempt (s : State) (w v : Launch) : Option Bool :=
  let first := s.waiting.find? fun x => x.pkt.cores.any fun n => v.pkt.cores.contains n
  let reserved := w.prio = 3 && v.pkt.cores.any fun n => (s.queue w.queue).qrsv.getLsbD (rsvBit n)
  if (first.map fun x => x.id) ≠ some w.id || !s.canSave v || w.prio ≤ v.prio then none
  else if reserved then some true
  else if v.pkt.gangid = 0 && v.pkt.pptdist ≠ 0 then some false
  else none

/-- The order in which launches are stopped for another: lowest class first, then smallest PPTDIST (06 R102). -/
def Launch.stopsBefore (a b : Launch) : Bool := a.prio < b.prio || (a.prio = b.prio && a.pkt.pptdist ≤ b.pkt.pptdist)

/-- Running launches are stopped for the waiting launch w, if it then has all its cores: each is one that w may take, or is held by
a launch that is stopped for it, and the contexts of all that stop have room together (06 R102, R108). -/
def State.preemptFor (s : State) (w : Launch) : State :=
  let holders := s.launches.filter fun v => v.phase.holds && w.pkt.cores.any fun n => (s.core n).launch = some v.id
  let going (v : Launch) : Bool := v.stopFor = some w.id && !v.hostStop
  let able (v : Launch) : Bool := going v || (v.stopAt.isNone && (s.mayPreempt w v).isSome)
  let mine (n : Nat) : Bool := s.mayTake w n || holders.any fun v => (s.core n).launch = some v.id
  let next := sortBy Launch.stopsBefore (holders.filter fun v => !going v)
  if holders.all able && s.canSaveAll next && w.pkt.cores.all mine && w.pkt.cores.all fun n => s.rsvOk w.queue n then
    (next.map fun v => (v, (s.mayPreempt w v).getD false)).foldl (fun s p => s.requestStop p.1 false p.2 (some w.id)) s
  else s

/-- A host STOP that waited for free slots takes place (06 R108). -/
def State.stopLater (s : State) (l : Launch) : State :=
  if l.stopWanted && l.stopAt.isNone && l.phase.holds && s.canSave l then s.requestStop l true (l.pkt.gangid ≠ 0) none else s

/-- LAUNCH_CLAIM (04 R80, 06 R100 to R102): cores that have become free are earmarked, waiting launches claim the cores that are
free for them, and the tellers decide whom to stop for the others. Without MAIN48 nothing is claimed (01 R20; log 11). -/
def execLaunchClaim (s : State) : Out :=
  let s := s.earmark
  let s := if s.power.main48 then s.waiting.foldl State.tryClaim s else s
  let s := s.launches.foldl State.stopLater s
  .next (if s.power.main48 then s.waiting.foldl State.preemptFor s else s)

/-- LAUNCH_RELEASE (04 R80): every core of a launch starts at its ENTRY with SCHEDCYC 0 and LAG 0, and the dispatch ends. A
stop requested before counts each core as stopped at its ENTRY (06 R114). -/
def execLaunchRelease (s : State) : Out :=
  let due := s.launches.filter fun l => l.phase = .loading && l.relcyc ≤ s.chip && !l.released
  let go (s : State) (l : Launch) : State :=
    let s := l.pkt.cores.foldl (fun s n => s.updCore n fun c =>
      { c with mode := .running, sched := 0, lag := 0, atPoint := l.stopAt.isSome }) s
    let s := l.pkt.cores.foldl State.debugJoin s
    let s := s.updLaunch l.id fun l =>
      { l with phase := if l.stopAt.isSome then .stopping else .running, released := true }
    if (s.queue l.queue).disp = .launch l.id then s.endDispatch l.queue l.head.nunits else s
  .next (due.foldl go s)

/-- Nothing of core n is open: no result in flight, no operation unacknowledged, no engine command (04 R80). -/
def Core.quiet (c : Core) : Bool :=
  c.items.isEmpty && c.causes.isEmpty && c.ackc = 0 && c.engines.isEmpty && c.globals.isEmpty && c.held.isEmpty

/-- LAUNCH_COMPLETE (04 R80): a launch whose cores have all halted and whose operations have all ended completes with code
OK. -/
def execLaunchComplete (s : State) : Out :=
  let isOver (l : Launch) : Bool :=
    (l.phase = .running || l.phase = .stopping) && l.pkt.cores.all fun n =>
      let c := s.core n
      c.launch = some l.id && c.mode = .halted && c.quiet
  .next ((s.launches.filter isOver).foldl (fun s l => s.endLaunch l.id 0 0) s)

/-! WAIT, SIGNAL, COPY, QUERY (04 R84). -/

/-- The comparison of a WAIT. -/
def waitHolds (op : Nat) (w m v : Word) : Bool :=
  let x := w &&& m
  match op with
  | 0 => x = v
  | 1 => x ≠ v
  | 2 => v.toNat ≤ x.toNat
  | _ => x.toNat < v.toNat

/-- The DETAIL of a COPY_FAULT (04 R84). -/
def copyDetail (cause : Nat) (dst : Bool) (count : Nat) : Nat := cause + b2n dst * 16 + min count (2 ^ 24 - 1) * 256

/-- A WAIT tests its word: it completes, faults, or is tested again within 2 microseconds. DESIGN CHOICE (log 33): of a poisoned line it
tests the bytes that stand there; the manual names no outcome. -/
def State.waitTest (s : State) (n : Nat) (h : PktHead) (addr : Nat) (value mask : Word) (op : Nat) : State :=
  match s.tellerPa (s.queue n).qroot.toNat addr false with
  | .error k => s.completePacket n h 0x0E (copyDetail k false 0)
  | .ok pa =>
    if waitHolds op (BitVec.ofNat 64 (Store.num s.mem.hbm pa 8)) mask value then s.completePacket n h 0 0
    else
      let (d, s) := s.drawBelow 2500
      s.plan (s.chip + 1 + d) (.waitPoll n)

/-- WAIT: its first test. -/
def execWait (n : Nat) (s : State) : Out :=
  s.handle n 2 fun p s =>
    let h := packetHead p
    let tmo := pf p 44 4
    let deadline := if tmo = 0 then none else some (s.chip + tmo * Config.usec)
    let addr := pf p 16 8
    let value := BitVec.ofNat 64 (pf p 24 8)
    let mask := BitVec.ofNat 64 (pf p 32 8)
    let op := pf p 40 4
    let s := s.updQueue n fun q => { q with disp := .wait h addr value mask op deadline }
    let s := match deadline with
      | some t => s.plan t (.waitTimeout n)
      | none => s
    s.waitTest n h addr value mask op

/-- WAIT_POLL: a later test. -/
def execWaitPoll (n : Nat) (s : State) : Out :=
  match (s.queue n).disp with
  | .wait h addr value mask op deadline =>
    if deadline.any (fun t => t ≤ s.chip) then .next s else .next (s.waitTest n h addr value mask op)
  | _ => .next s

/-- WAIT_TIMEOUT: TMO has expired; the queue goes to ERROR. -/
def execWaitTimeout (n : Nat) (s : State) : Out :=
  match (s.queue n).disp with
  | .wait h _ _ _ _ (some t) =>
    if t ≤ s.chip then .next ((s.queueError n 0x0C).completePacket n h 0x0C 0) else .next s
  | _ => .next s

/-- SIGNAL: a write, or an atomic add, at the home slice. -/
def execSignal (n : Nat) (s : State) : Out :=
  s.handle n 3 fun p s =>
    let h := packetHead p
    match s.tellerPa (s.queue n).qroot.toNat (pf p 16 8) true with
    | .error k => s.completePacket n h 0x0E (copyDetail k true 0)
    | .ok pa =>
      let poisoned := !(poisonedIn s.mem.hbmPoison pa 8).isEmpty
      let v := if bit p 320 then pf p 24 8 + Store.num s.mem.hbm pa 8 else pf p 24 8
      let s := if bit p 320 && poisoned then s else s.tellerPut (s.queue n).qroot.toNat (pf p 16 8) pa (numBytes 8 v)
      s.completePacket n h 0 0

/-- What a chunk of a COPY comes to: bytes moved, a wait for the end of a write-block or for the host's answer to a snoop, a tile that
failed its check, or a fault with its cause and whether it is the destination's. -/
inductive CopyChunk where
  | moved (n : Nat) (s : State)
  | waits (s : State)
  | failed
  | fault (cause : Nat) (dst : Bool)

/-- FMT and GEOM of the two sides of a COPY. -/
def copyView (l m : Leaf) : Nat × Nat × Nat × Nat := (pteFmt l.pte, pteGeom l.pte, pteFmt m.pte, pteGeom m.pte)

/-- One chunk of a COPY under the rules of the engine copy (04 R84, 19 R338, R339): both pages translate, lie in HBM4 and keep FMT
and GEOM of their side; tiles are verified and regenerated, and lines that the host holds are snooped first (03 R48). DESIGN CHOICE
(log 33): a fault that has no code in 03 R57, which is poison, a tile, FMT or ALIGN, gives cause 0. -/
def State.copyChunk (s : State) (root va vb left : Nat) (view : Option (Nat × Nat × Nat × Nat)) : CopyChunk :=
  match s.mem.walk root va, s.mem.walk root vb with
  | .error k, _ => .fault k false
  | _, .error k => .fault k true
  | .ok l, .ok m =>
    let a : PageInfo := ⟨pteFmt l.pte, pteGeom l.pte, l.size, l.pte⟩
    let b : PageInfo := ⟨pteFmt m.pte, pteGeom m.pte, m.size, m.pte⟩
    let ka := permCause l.pte false true
    let kb := permCause m.pte true true
    let seen := view.getD (copyView l m)
    if ka ≠ 0 then .fault ka false
    else if kb ≠ 0 then .fault kb true
    else if (seen.1, seen.2.1) ≠ (a.fmt, a.geom) then .fault 0 false
    else if (seen.2.2.1, seen.2.2.2) ≠ (b.fmt, b.geom) then .fault 0 true
    else if pteWb m.pte then .waits s
    else if !copyAgree a b then .fault 0 false
    else
      let n := if a.geom = 0 then min left (min (64 - va % 64) (64 - vb % 64)) else tileBytes a.fmt a.geom
      let r := s.mem.readNum 0 (a.pa va) n
      if let some t := s.snoopRanges [(0, a.pa va, n), (0, b.pa vb, n)] then .waits t
      else if !r.2.isEmpty then .fault 0 false
      else if a.geom = 0 then .moved n (s.writeMem 0 (b.pa vb) (numBytes n r.1))
      else if left < n || !a.tileFits va then .fault 0 false
      else if !b.tileFits vb then .fault 0 true
      else if !spindleVerifies a.fmt a.geom r.1 then .failed
      else .moved n (s.writeMem 0 (b.pa vb) (numBytes n (spindleTile b.fmt b.geom r.1)))

/-- A COPY goes on for a number of chunks: the packet completes with its last write or its first fault, its second failed check of a
tile included; a failed tile is read again once, and a destination under write-block makes it wait (07 R115, 03 R66). -/
def State.copyRun (s : State) (n : Nat) (h : PktHead) (va vb len done : Nat) (retried : Bool)
    (view : Option (Nat × Nat × Nat × Nat)) (fuel : Nat) : State :=
  let root := (s.queue n).qroot.toNat
  let later (s : State) (retried : Bool) : State :=
    (s.updQueue n fun q => { q with disp := .copy h va vb len done retried view }).planFree (.copyPacketDone n)
  if len ≤ done then s.completePacket n h 0 0
  else
    match fuel with
    | 0 => later s retried
    | k + 1 =>
      match s.copyChunk root (va + done) (vb + done) (len - done) view with
      | .fault c dst => s.completePacket n h 0x0E (copyDetail c dst done)
      | .waits t => later t retried
      | .failed => if retried then s.completePacket n h 0x0E (copyDetail 0 false done) else later s true
      | .moved m t =>
        let seen := match s.mem.walk root (va + done), s.mem.walk root (vb + done) with
          | .ok a, .ok b => some (view.getD (copyView a b))
          | _, _ => view
        t.copyRun n h va vb len (done + m) false seen k

/-- COPY: the Spindle's copy engine takes the packet. -/
def execCopyPacket (n : Nat) (s : State) : Out :=
  s.handle n 4 fun p s =>
    (s.updQueue n fun q => { q with disp := .copy (packetHead p) (pf p 16 8) (pf p 24 8) (pf p 32 5) 0 false none }).planFree
      (.copyPacketDone n)

/-- COPY_PACKET_DONE: the copy engine moves the bytes that are left. -/
def execCopyPacketDone (n : Nat) (s : State) : Out :=
  match (s.queue n).disp with
  | .copy h va vb len done retried view => .next (s.copyRun n h va vb len done retried view (len + 1))
  | _ => .next s

/-- QUERY: a snapshot taken on one chip cycle. -/
def execQuery (n : Nat) (s : State) : Out :=
  s.handle n 5 fun p s =>
    let h := packetHead p
    let q := s.queue n
    match s.tellerPa q.qroot.toNat (pf p 16 8) true with
    | .error k => s.completePacket n h 0x0E (copyDetail k true 0)
    | .ok pa =>
      let root := q.qroot.toNat
      let va := pf p 16 8
      let run := (s.launches.filter fun l => l.queue = n && (l.phase.holds || s.keepsCores l)).length
      let esc := (s.launches.filter fun l => l.queue = n && l.phase = .escrowed && !l.recorded).length
      let words := [(s.qstat n).toNat, q.qhead, q.qtail, s.chip, run % 2 ^ 16 + esc % 2 ^ 16 * 2 ^ 16, 0, 0, 0]
      (s.tellerPut root va pa (words.flatMap fun w => numBytes 8 w)).completePacket n h 0 0

end Sys2Proof.Machine
end

