-- ==== Sys2Proof/Machine/Sched.lean ====
section
/-! DEFINITION. Escalated traps, stops, the ladder, saving and resuming contexts (04 R81, 06 R103 to R110). -/

namespace Sys2Proof.Machine

/-! Escalated traps (04 R81, 05 R87, 08 R142). -/

/-- AUTO of DUMPCTL asks for a dump of this launch (08 R142). -/
def State.autoDump (s : State) (l : Launch) : Bool :=
  let c := s.dbg.dumpCtl.toNat
  bit c 2 && s.dbg.dump.isNone && !s.dumpBad && l.pkt.cores.contains (bits c 8 8)

/-- A trap, or an allowance kill, ends a launch; under AUTO its cores stand still until the dump has ended (08 R142). -/
def State.killLaunch (s : State) (l : Launch) (code detail : Nat) : State :=
  if s.autoDump l then
    let n := bits s.dbg.dumpCtl.toNat 8 8
    let chip := s.chip
    let s := s.updLaunch l.id fun l => { l with code := code, detail := detail, dumping := true }
    let s := l.pkt.cores.foldl (fun s n => s.updCore n fun c =>
      if c.launch = some l.id then { c.debugStop chip with mode := .debug } else c) s
    let s := l.pkt.cores.foldl State.openAtomics s
    let limit := bits s.dbg.dumpCtl.toNat 16 24 * 4096
    { s with dbg := { s.dbg with dump := some ⟨n, l.id, l.queue, limit, true, chip, 0⟩, dumpStat := 1 } }.planFree .dumpComplete
  else s.endLaunch l.id code detail

/-- The tellers handle an escalated trap of a core (04 R81): ALLOWANCE is refilled or kills the launch, and every other class,
or any raised in a handler (09 R163), ends it with code TRAP. -/
def execTellerTrapEvent (n : Nat) (s : State) : Out :=
  let c := s.core n
  match c.mode, s.launchOf n, c.record with
  | .tellers, some l, some r =>
    if l.dumping then .next s
    else if r.cls = Trap.allowance.bit && !c.handler then
      if l.pkt.apol = 0 || (l.pkt.apol = 1 && l.pkt.nref ≤ l.refills) then .next (s.killLaunch l 0x04 (n * 2 ^ 24))
      else
        let chip := s.chip
        .next (((s.updLaunch l.id fun l => { l with refills := l.refills + 1 }).updCore n fun c =>
          c.refill l.pkt.refill chip).debugJoin n)
    else .next (s.killLaunch l 0x03 (trapDetail n r.cls r.respc))
  | _, _, _ => .next s

/-! Stops (06 R104 to R106). -/

/-- PREEMPT STOP of a queue (06 R104): every running launch stops, a gang's by the ladder; without room for its contexts the
stop of a launch waits (06 R108). -/
def execPreemptStop (n : Nat) (s : State) : Out :=
  if s.cmdBehind n 3 then .next (s.planFree (.preemptStop n))
  else if s.locked n then .next (s.cmdWait n 3)
  else if !(s.queue n).live then .next (s.cmdDone n 3)
  else
    let runs (p : LPhase) : Bool := p = .running || p = .loading || p = .stopping || p = .resuming
    let mine := s.launches.filter fun l => l.queue = n && runs l.phase
    let stop (s : State) (l : Launch) : State :=
      if l.stopAt.isSome then s.updLaunch l.id fun l => { l with hostStop := true }
      else if s.canSave l then s.requestStop l true (l.pkt.gangid ≠ 0) none
      else s.updLaunch l.id fun l => { l with stopWanted := true }
    .next ((mine.foldl stop s).cmdDone n 3)

/-- PREEMPT RESUME of a queue (06 R104): its host-stopped launches wait for their cores again; one that has not stopped yet stops. -/
def execPreemptResume (n : Nat) (s : State) : Out :=
  if s.cmdBehind n 4 then .next (s.planFree (.preemptResume n))
  else if s.locked n then .next (s.cmdWait n 4)
  else if !(s.queue n).live then .next (s.cmdDone n 4)
  else
    let down (p : LPhase) : Bool := p = .stopped || p = .saving || p = .saved
    let mine := s.launches.filter fun l => l.queue = n && l.hostStop && down l.phase
    let s := mine.foldl (fun s l => s.updLaunch l.id fun l => { l with hostStop := false }) s
    .next ((s.plan s.chip .launchClaim).cmdDone n 4)

/-- LADDER_T1 (06 R106): from this chip cycle a point need not be clean; cores in a wait may count as stopped at once. -/
def execLadderT1 (s : State) : Out := .next s.stopTick

/-- LADDER_T2 (06 R106): a launch that has not stopped is reset with LADDER_RESET, naming its lowest core that had not. The
clock stands still while a core of the launch is in a debug stop. A launch that ends and waits for its dump is over (08 R142). -/
def execLadderT2 (s : State) : Out :=
  let due := s.launches.filter fun l =>
    l.ladder && (l.phase = .stopping || l.phase = .resuming) && l.dbgAt.isNone && !l.dumping && l.stopAt.any fun q => q + l.t2Cycles ≤ s.chip
  let reset (s : State) (l : Launch) : State :=
    let live := l.pkt.cores.filter fun n =>
      let c := s.core n
      c.launch = some l.id && c.mode ≠ .stopped && c.mode ≠ .halted
    let s := s.updLaunch l.id fun l => { l with rung := 3 }
    let s := s.updQueue l.queue fun q => { q with rung := 3 }
    (s.endLaunch l.id 0x05 (live.headD 0 * 2 ^ 24)).retime
  .next (due.foldl reset s)

/-! Saving and restoring (06 R107, R108, R110, R114). -/

/-- What is kept of a core's context: all but the address table, the record cache and the TLB (06 R107). The atomics that have
completed stand in it with their results (09 R166), and its freeze episode has ended (08 R137). -/
def Core.context (c : Core) : Core :=
  { c.settleAtomics with addrTab := [], recs := [], tlb := [], array := ArrayState.empty, episode := none }

/-- The bytes of a context as they stand in its 1,920 KiB slot of the save area (06 R107, R109): vault, register space, code memory
and dictionary in the order of 06 R107, and 32 KiB whose layout the manual leaves open (log 34). -/
def slotImage (c : Core) (k : Nat) : Store 8 :=
  let code := (List.range 65536).flatMap fun i => numBytes 2 (Store.read c.code i).toNat
  let dict := (List.range 2048).flatMap fun i => numBytes 48 (Store.read c.dict i).toNat
  let m : Store 8 := Store.blit [] c.vault 0 0 0x180000
  let m := Store.blit m c.plyImage 0 0x180000 131072
  let m := Store.put (Store.put m 0x1A0000 code) 0x1C0000 dict
  Store.put m 0x1D8000 ((List.range 32768).map (Config.contextByte k))

/-- A context is written to its core's slot of the save area, BASE + 1,920 KiB · n (06 R109). -/
def State.saveSlot (s : State) (n : Nat) (c : Core) : State :=
  let base := bits s.ctxsave.toNat 29 10 * 2 ^ 29 + 1966080 * n
  let mem := { s.mem with
    hbm := Store.blit s.mem.hbm (slotImage c s.fresh) 0 base 1966080,
    hbmPoison := s.mem.hbmPoison.filter fun l => 64 * l + 64 ≤ base || base + 1966080 ≤ 64 * l }
  { s with fresh := s.fresh + 1, mem := mem.leaveL2 base 1966080 }

/-- The contexts of a launch on a die leave its cores: into the shadow slots taken, the others into the save area (06 R108). -/
def State.saveContexts (s : State) (l : Launch) (die slots : Nat) : State :=
  let chip := s.chip
  let here := s.heldOn l die
  let mine := here.filter s.slotTaken ++ here.filter fun n => !s.slotTaken n
  let s := s.touchProv l.id
  let keep (s : State) (p : Nat × Nat) : State :=
    let c := (s.core p.2).context
    let s := if p.1 < slots then s else s.saveSlot p.2 c
    let x : SavedCtx := ⟨p.2, l.id, slots ≤ p.1, chip, false, c⟩
    { s with saved := s.saved ++ [x] }.freeCore p.2 l
  let s := ((List.range mine.length).zip mine).foldl keep s
  let all := (List.range 4).all fun d => (s.heldOn l d).isEmpty
  (s.updLaunch l.id fun x =>
    { x with saves := x.saves.filter fun v => v.1 ≠ die, phase := if all && x.phase = .saving then .saved else x.phase }).plan chip
    .launchClaim

/-- CONTEXT_SAVE_DONE (06 R108): the saves that have ended let go of their cores. -/
def execContextSaveDone (s : State) : Out :=
  let due := s.launches.flatMap fun l => (l.saves.filter fun v => v.2.1 ≤ s.chip).map fun v => (l, v)
  .next (due.foldl (fun s p => s.saveContexts p.1 p.2.1 p.2.2.2) s)

/-- A core restarts at chip cycle t (06 R110): its results in flight land as if no stop had occurred. -/
def Core.restart (c : Core) (t : Nat) : Core :=
  if c.mode = .stopped then
    { c with mode := .running, record := none, lagCheck := true, atPoint := false }.reissueGlobals.reenter t
  else c

/-- A round of a launch that stood still goes on with its member n: it is released as long after the restart as it would have been
after the stop (06 R110). -/
def State.roundGoes (s : State) (id n : Nat) : State :=
  let mine (r : Round) : Bool := r.launch = id && r.left.isSome && r.arrived.any fun a => a.1 = n
  let chip := s.chip
  let go := s.rounds.filter mine
  let s := { s with rounds := s.rounds.map fun r => if mine r then { r with left := none } else r }
  go.foldl (fun s r => s.plan (chip + r.left.getD 0) (.rdvRoundRelease id r.group)) s

/-- CONTEXT_RESTART (06 R110): the cores whose restart chip cycle has come; the restore is over, and the tellers look again at the stops
that waited for its slots (06 R108). A stop requested meanwhile takes them at their next points (06 R105). -/
def execContextRestart (s : State) : Out :=
  let chip := s.chip
  let go (s : State) (l : Launch) : State :=
    let now := l.restarts.filter fun p => p.2 ≤ chip
    let s := { s with saved := s.saved.filter fun x => now.isEmpty || x.launch ≠ l.id }
    let s := now.foldl (fun s p => s.updCore p.1 fun c => c.restart chip) s
    let s := s.updLaunch l.id fun l =>
      let rest := l.restarts.filter fun p => chip < p.2
      { l with
        restarts := rest, stops := l.stops.filter fun p => !now.any fun q => q.1 = p.1,
        phase := if !rest.isEmpty then .resuming else if l.stopAt.isSome then .stopping else .running }
    now.foldl (fun s p => s.roundGoes l.id p.1) s
  .next (((s.launches.filter fun l => l.phase = .resuming && l.dbgAt.isNone).foldl go s).plan chip .launchClaim).retime

/-- CTXSAVE (06 R109). -/
def execCtxsaveWrite (val : Word) (s : State) : Out :=
  let v := val.toNat
  let bad := v / 2 ^ 39 ≠ 0 || bits v 1 28 ≠ 0
  if bad || s.queues.any (fun p => p.2.live) || s.saved.any (fun x => x.hbm) then .next s
  else .next { s with ctxsave := val }

/-! A scan window (06 R111). -/

/-- SCANWAIT_EXPIRY (06 R111): a core that has stood SCANWAIT cycles at its window without a move goes on. -/
def execScanwaitExpiry (n : Nat) (s : State) : Out :=
  let moving := s.scanHolds n
  let isOver (h : Hold) : Bool := h.cause = 7 && h.id + Config.scanWait ≤ s.chip
  if moving || (s.core n).mode = .debug then .next s
  else .next (s.updCore n fun c => { c with holds := c.holds.filter fun h => !isOver h })

end Sys2Proof.Machine
end

