-- ==== Sys2Proof/Machine/Fabric.lean ====
section
/-! DEFINITION. Ports, packets from peers, groups, holds and routes (02 R26 to R43, 19 R345 to R348). -/

namespace Sys2Proof.Machine

/-! The end of an acknowledged command (19 R333, 11 R200). -/

/-- Bytes that an acknowledged command writes through the lateral port into its own vault on the present chip cycle; they
perform in their place among its accesses (11 R193). -/
def State.ownVault (s : State) (n id a : Nat) (data : List Byte) : State :=
  { s with lateral := s.lateral ++ [⟨n, (s.owner n id).launch, a, data, false, none⟩] }

/-- An acknowledged command ends, held or not: its status word, the rest of its count in ACKC, its queue entry (19 R333). -/
def State.finishCmd (s : State) (n id left : Nat) : State :=
  match (s.owner n id).eng? id with
  | none => s
  | some e =>
    let v := e.completion
    let w : Lateral :=
      ⟨n, (s.owner n id).launch, e.stw, numBytes 8 v.toNat, true, if e.post then some (e.entry v) else none⟩
    let s := { s with lateral := s.lateral ++ [w] }.ackEnd n id left
    s.updOwner n id fun c =>
      { c with engines := c.engines.filter (fun x => x.id ≠ id), held := c.held.filter fun h => h.what ≠ .engine id }

/-- Changes a command wherever its context is. -/
def State.updCmd (s : State) (n id : Nat) (f : EngCmd → EngCmd) : State := s.updOwner n id fun c => c.updEng id f

/-- The writes of a command that are parked. -/
def State.parkedOf (s : State) (n id : Nat) : Bool := s.xlate.parked.any fun p => p.engine && p.core = n && p.acc = id

/-- A command that has failed ends once none of its writes is parked: every local write performs before the status word's last
(19 R333, 03 R66). -/
def State.endFailed (s : State) (n id : Nat) : State :=
  match ((s.owner n id).eng? id).bind fun e => e.failed with
  | some (code, count, left) =>
    if s.parkedOf n id then s.planFree (.engineComplete n id)
    else (s.updCmd n id fun e => { e with fault := some (code, 0), count := count }).finishCmd n id left
  | none => s

/-- A command ends with an error code and a count; its packets still outstanding no longer count. -/
def State.failCmd (s : State) (n id code count left : Nat) : State :=
  let s := { s with fabric := { s.fabric with
    outstanding := s.fabric.outstanding.filter fun o => !(o.core = n && o.cmd = id) } }
  (s.updCmd n id fun e => { e with failed := some (code, count, left) }).endFailed n id

/-! Ports (02 R28, R42). -/

/-- An event is entered unless it already stands in the agenda. -/
def State.planOnce (s : State) (t : Nat) (i : Instr) : State :=
  if s.agenda.any fun e => e.2 = i then s else s.plan t i

/-- Changes a port. -/
def State.updPort (s : State) (i : Nat) (g : Port → Port) : State := { s with fabric := s.fabric.updPort i g }

/-- A port. -/
def State.port (s : State) (i : Nat) : Port := s.fabric.ports.getD i Port.reset

/-- BADFLIT of a port rises (02 R27, R28). -/
def State.badFlit (s : State) (i : Nat) : State := s.updPort i fun p => { p with badflit := sat16 (p.badflit + 1) }

/-- A port's state has changed: the tellers get a link event that carries it (05 R87, R91). -/
def State.linkChange (s : State) (i : Nat) : State :=
  let p := s.port i
  let x : LinkNews := ⟨i, p.state, p.half, p.peerPkg, s.chip⟩
  { s with fabric := { s.fabric with linkNews := s.fabric.linkNews ++ [x] } }.post (.linkEvent i)

/-- A port that was not DOWN goes DOWN (02 R28, R42). -/
def State.portDown (s : State) (i : Nat) : State :=
  if (s.port i).state = 0 then s
  else (s.updPort i fun p => { p with state := 0, half := false, fails := 0 }).linkChange i

/-- FLIT_CRC_REPLAY (02 R27, R28): a flit fails its CRC and is replayed; once eight replays of it have failed the port goes DOWN
and replays it no more. -/
def execFlitCrcReplay (port : Nat) (s : State) : Out :=
  if !s.fabric.up port then .next s
  else if 8 ≤ (s.port port).fails then .next (s.plan s.chip (.portReplayLimit port))
  else .next ((s.updPort port fun p => { p with retry := sat16 (p.retry + 1), fails := p.fails + 1 }).emit (.replay port))

/-- PORT_REPLAY_LIMIT (02 R28). -/
def execPortReplayLimit (port : Nat) (s : State) : Out := .next (s.portDown port)

/-- PORT_RX_TIMEOUT (02 R28): no flit for 100 microseconds; a port that has received one meanwhile is looked at again. -/
def execPortRxTimeout (port : Nat) (s : State) : Out :=
  let p := s.port port
  if p.state ≠ 2 then .next s
  else if p.lastRx + 100 * Config.usec ≤ s.chip then .next (s.portDown port)
  else .next (s.planOnce (p.lastRx + 100 * Config.usec) (.portRxTimeout port))

/-- HEARTBEAT_SEND (02 R28): a flit after 10 microseconds in which the port has sent nothing else. -/
def execHeartbeatSend (port : Nat) (s : State) : Out :=
  let p := s.port port
  let chip := s.chip
  if p.state ≠ 2 then .next s
  else if p.lastTx + 10 * Config.usec ≤ chip then
    .next (((s.updPort port fun p => { p with lastTx := chip }).emit (.heartbeat port)).planOnce (chip + 10 * Config.usec)
      (.heartbeatSend port))
  else .next (s.planOnce (p.lastTx + 10 * Config.usec) (.heartbeatSend port))

/-- A flit has come in on a port that is UP. -/
def State.received (s : State) (port : Nat) : State :=
  let chip := s.chip
  s.updPort port fun p => { p with lastRx := chip, fails := 0 }

/-- HEARTBEAT (02 R28): it keeps its port UP; one with a reserved bit set is counted and discarded (02 R27). -/
def execHeartbeat (port : Nat) (p : Packet) (s : State) : Out :=
  if !s.fabric.up port then .next s
  else
    let s := s.received port
    .next (if packetBad (packetAs p 10) then s.badFlit port else s)

/-- PORT_LANE_LOSS (02 R28): the port retrains on 8 lanes and reports HALF. -/
def execPortLaneLoss (port : Nat) (s : State) : Out :=
  if !s.fabric.up port then .next s
  else .next ((s.updPort port fun p => { p with state := 1, half := true }).linkChange port)

/-- PORT_TRAINED (02 R28): the port is UP towards its peer, with its counts cleared. -/
def execPortTrained (port peerPkg peerPort : Nat) (s : State) : Out :=
  let chip := s.chip
  if 24 ≤ port || (s.port port).state = 2 || !s.power.ready then .next s
  else
    let s := s.updPort port fun p =>
      { state := 2, half := p.half && p.state = 1, peerPkg := peerPkg % 2048, peerPort := peerPort % 32, retry := 0,
        badflit := 0, fails := 0, lastRx := chip, lastTx := chip }
    let s := (s.planOnce (chip + 100 * Config.usec) (.portRxTimeout port)).planOnce (chip + 10 * Config.usec)
      (.heartbeatSend port)
    .next (s.linkChange port)

/-- The routing entry of a package after a recomputation (02 R30, R42): an entry that names a port which is not UP is
invalid, or names ports that are UP; which of them is free, and one with VALID 0 stays so (DESIGN CHOICE, log 21). -/
def State.reroute (s : State) (e : Nat) : Nat × State :=
  let ok (p : Nat) (none_ : Bool) : Bool := s.fabric.up p || (none_ && p = 31)
  if !bit e 31 || (ok (bits e 26 5) false && ok (bits e 21 5) true) then (e, s)
  else
    let live := (List.range 24).filter s.fabric.up
    let (a, s) := s.drawBelow (live.length + 1)
    let (b, s) := s.drawBelow (live.length + 1)
    let (d, s) := s.drawBelow 7
    if live.length ≤ a then (0, s)
    else (2 ^ 31 + live.getD a 0 * 2 ^ 26 + live.getD b 31 * 2 ^ 21 + (d + 1) * 2 ^ 18, s)

/-- The tellers recompute the routes and install them within 2 s (02 R30, R42, R43). -/
def State.planRoutes (s : State) : State :=
  let r := s.fabric.routes.foldl (fun (a : List (Nat × Nat) × State) (x : Nat × BitVec 32) =>
    let n := a.2.reroute x.2.toNat
    (a.1 ++ [(x.1, n.1)], n.2)) (([], s) : List (Nat × Nat) × State)
  r.2.planWithin (2000 * Config.msec) (.routeUpdate 24 (r.2.packet 11 s.fabric.fabid) r.1)

/-- LINK_EVENT (02 R42, 05 R91): the tellers post a notification of the oldest change of the port not yet reported, and install
recomputed routes. -/
def execLinkEvent (port : Nat) (s : State) : Out :=
  match s.fabric.linkNews.find? fun x => x.port = port with
  | none => .next s
  | some x =>
    let s := { s with fabric := { s.fabric with linkNews := s.fabric.linkNews.erase x } }
    .next (s.notifyAt x.cyc 1 (port % 32 + x.state * 2 ^ 8 + b2n x.half * 2 ^ 10) x.peer).planRoutes

/-- The gangs that span a lost package go down the ladder; after a second loss within 20 s they end with PEER_ABSENT or NO_ACK
(02 R43). Which packages a gang spans no register says: it is free (log 21). -/
def State.loseGangs (s : State) (pkg : Nat) (again : Bool) : State :=
  let gangs := s.launches.filter fun l =>
    l.pkt.gangid ≠ 0 && (l.phase.holds || l.phase = .saved) && Config.gangSpans l.pkt.gangid (pkg % 2048)
  let runs (p : LPhase) : Bool := p = .running || p = .loading || p = .resuming
  gangs.foldl (fun s l =>
    if again then
      let (d, s) := s.drawBelow 2
      s.endLaunch l.id (if d = 0 then 6 else 7) (pkg % 2048)
    else if runs l.phase && l.stopAt.isNone then s.requestStop l true true none
    else s) s

/-- PACKAGE_LOSS (02 R43): the tellers report the lost package, take down the ladder the gangs that span it, and recompute the
routes. -/
def execPackageLoss (pkg mask : Nat) (s : State) : Out :=
  let chip := s.chip
  let again := s.fabric.lost.any fun p => chip < p.2 + 20000 * Config.msec
  let s := s.notifyHost 2 (pkg % 2048) (mask % 2 ^ 24)
  let s := { s with fabric := { s.fabric with lost := (pkg, chip) :: s.fabric.lost } }
  .next (s.loseGangs pkg again).planRoutes

/-! Packets from peers (02 R27, R30). -/

/-- The answer to a packet: READ_DATA to a READ_REQ, an ACK to any other. -/
def State.answer (s : State) (p : Packet) (err : Nat) (data : List Byte) : State :=
  (s.sendTo { s.packet (if p.kind = 2 then 3 else 5) p.src with
    tag := p.tag, err := err, data := data, count := data.length, fmt := p.fmt, addr := p.addr } false).2

/-- A packet for another package goes on with one hop less, or is answered to its source with UNREACHABLE (02 R30). -/
def State.forward (s : State) (p : Packet) : State :=
  let r := s.sendTo { p with hops := p.hops - 1 } false
  if r.1 then r.2
  else (s.sendTo { s.packet 5 p.src with tag := p.tag, err := 5, fmt := p.fmt, addr := p.addr } false).2

/-- A packet of a kind arrives: a malformed one is counted and discarded, one with no hop left is discarded, one for another
package goes on (02 R27, R30). Port 24 stands for the Spindle itself. -/
def State.incoming (s : State) (p : Packet) (f : State → State) : Out :=
  if p.port ≠ 24 && !s.fabric.up p.port then .next s
  else
    let s := if p.port = 24 then s else s.received p.port
    if packetBad p then .next (s.badFlit p.port)
    else if p.port ≠ 24 && p.hops = 0 then .next s
    else if !p.mcast && p.dst ≠ s.fabric.fabid then .next (s.forward p)
    else .next (f s)

/-- ROUTE_UPDATE (02 R30): one for this package rewrites its table between two packets, and one for another goes on; port 24 stands for
its own tellers. The table is what the packet's payload says (log 21). -/
def execRouteUpdate (port : Nat) (p : Packet) (table : List (Nat × Nat)) (s : State) : Out :=
  let p := { packetAs p 11 with port := port }
  s.incoming p fun s =>
    let put (m : Store 32) (x : Nat × Nat) : Store 32 :=
      if x.1 < 2048 then Store.write m x.1 (BitVec.ofNat 32 (x.2 / 2 ^ 18 * 2 ^ 18)) else m
    { s with fabric := { s.fabric with routes := table.foldl put s.fabric.routes } }

/-! Translation of a peer's access (03 R56, R57). -/

/-- The fabric error of a translation cause (03 R57). -/
def fabricCode (cause : Nat) : Nat := if cause ≤ 4 then 6 else 7

/-- The pieces of a peer's access with their leaves, or its error. Host pages are out of a peer's reach (03 R50). DESIGN CHOICE
(log 26): of two pages with different faults the lower address gives the error. -/
def State.peerPages (s : State) (va len : Nat) (write : Bool) : Except Nat (List (Leaf × Nat × Nat)) :=
  (cutBlocks (len + 1) va len).foldr (fun x acc =>
    match s.mem.walk s.xlate.fabroot x.1 with
    | .error k => .error (fabricCode k)
    | .ok l =>
      if (write && !pteWrite l.pte) || !ptePeer l.pte || pteLoc l.pte = 1 then .error 7
      else
        match acc with
        | .error k => .error k
        | .ok r => .ok ((l, x.1, x.2) :: r)) (.ok [])

/-- A peer's access counts heat on its pages (03 R62). -/
def State.peerHeat (s : State) (ps : List (Leaf × Nat × Nat)) : State :=
  ps.foldl (fun s x => s.heatTouch 0 x.2.1 x.1.size x.1.pte x.2.2) s

/-- What was answered to an operation already performed (02 R31). -/
def Fabric.done? (f : Fabric) (p : Packet) : Option Nat :=
  (f.performed.find? fun x => x.1 = (p.src, p.tag)).map fun x => x.2

/-- An operation has performed; the last 4096 are kept (02 R31). -/
def State.markDone (s : State) (p : Packet) (v : Nat) : State :=
  { s with fabric := { s.fabric with performed := (((p.src, p.tag), v) :: s.fabric.performed).take 4096 } }

/-- A peer's access meets lines that the host holds: they are snooped, and it waits (03 R48). -/
def State.peerSnoop (s : State) (ps : List (Leaf × Nat × Nat)) : Option State :=
  s.snoopRanges (ps.map fun x => (pteLoc x.1.pte, x.1.pa x.2.1, x.2.2))

/-- A page touched is under write-block: the access waits (03 R66). -/
def blockedPages (ps : List (Leaf × Nat × Nat)) : Bool := ps.any fun x => pteWb x.1.pte

/-- Writes the bytes of a packet to its pages. -/
def State.peerWrite (s : State) (va : Nat) (ps : List (Leaf × Nat × Nat)) (data : List Byte) : State :=
  ps.foldl (fun s x => s.writeMem (pteLoc x.1.pte) (x.1.pa x.2.1) ((data.drop (x.2.1 - va)).take x.2.2)) s

/-- The FMT of a WRITE agrees with its page's, or one of them is RAW (19 R346). -/
def fmtAgrees (p : Packet) (ps : List (Leaf × Nat × Nat)) : Bool :=
  ps.all fun x => pteFmt x.1.pte = p.fmt || p.fmt = 0 || pteFmt x.1.pte = 0

/-- A WRITE performs and is acknowledged (02 R32). -/
def State.writeDone (s : State) (p : Packet) : State :=
  match s.peerPages p.addr p.data.length true with
  | .error k => s.answer p k []
  | .ok ps => (((s.peerWrite p.addr ps p.data).peerHeat ps).markDone p 0).answer p 0 []

/-! Tiles written by peers (19 R346, 07 R115). -/

/-- The tiles that a packet's bytes touch: address, FMT and GEOM. -/
def tilesTouched (p : Packet) (ps : List (Leaf × Nat × Nat)) : List (Nat × Nat × Nat) :=
  (ps.flatMap fun x =>
    let fmt := pteFmt x.1.pte
    let geom := pteGeom x.1.pte
    if geom = 0 then []
    else
      let tb := tileBytes fmt geom
      let base := x.2.1 / 2 ^ x.1.size * 2 ^ x.1.size
      let first := (x.2.1 - base) / tb
      let last := (x.2.1 + x.2.2 - 1 - base) / tb
      ((List.range (last + 1 - first)).map fun i => (base + (first + i) * tb, fmt, geom)).filter fun t =>
        t.1 + tb ≤ base + 2 ^ x.1.size && t.1 < p.addr + p.data.length).eraseDups

/-- The bytes of a tile from the packets held, or none while one is missing. -/
def tileFrom (held : List Packet) (a n : Nat) : Option (List Byte) :=
  let m := held.foldl (fun (m : List (Nat × Byte)) p => m ++ (p.data.mapIdx fun i b => (p.addr + i, b))) []
  let bs := (List.range n).filterMap fun i => (m.find? fun x => x.1 = a + i).map fun x => x.2
  if bs.length = n then some bs else none

/-- A WRITE to tiles waits until each tile it touches is whole, verifies them, and performs; a tile that fails is answered with
ASSAY_LINK (19 R346). -/
def State.writeTiles (s : State) (p : Packet) (ts : List (Nat × Nat × Nat)) : State :=
  let overlaps (q : Packet) : Bool := q.src = p.src && q.addr < p.addr + p.data.length && p.addr < q.addr + q.data.length
  let held := (s.fabric.partTiles.filter fun q => !overlaps q) ++ [p]
  let mine := held.filter fun q => q.src = p.src
  let whole := ts.filterMap fun t => (tileFrom mine t.1 (tileBytes t.2.1 t.2.2)).map fun bs => (t, bs)
  if whole.length < ts.length then { s with fabric := { s.fabric with partTiles := held } }
  else
    let touches (q : Packet) (t : Nat × Nat × Nat) : Bool :=
      q.addr < t.1 + tileBytes t.2.1 t.2.2 && t.1 < q.addr + q.data.length
    let mineDone (q : Packet) : Bool :=
      match s.peerPages q.addr q.data.length true with
      | .ok qs => (tilesTouched q qs).all fun t => (tileFrom mine t.1 (tileBytes t.2.1 t.2.2)).isSome
      | .error _ => true
    let go := mine.filter fun q => (ts.any fun t => touches q t) && mineDone q
    let pages (q : Packet) : List (Leaf × Nat × Nat) :=
      match s.peerPages q.addr q.data.length true with | .ok ps => ps | .error _ => []
    if let some t := s.peerSnoop (go.flatMap pages) then
      ({ t with fabric := { t.fabric with partTiles := held } }.planFree (.fabricWrite { p with port := 24 }))
    else
    let s := { s with fabric := { s.fabric with partTiles := held.filter fun q => !go.contains q } }
    let bad := whole.filter fun x => !spindleVerifies x.1.2.1 x.1.2.2 (bytesNum x.2)
    go.foldl (fun s q => if bad.any fun x => touches q x.1 then s.answer q 4 [] else s.writeDone q) s

/-- FABRIC_WRITE (02 R31, R32, 19 R346). -/
def execFabricWrite (p : Packet) (s : State) : Out :=
  let p := packetAs p 1
  s.incoming p fun s =>
    if (s.fabric.done? p).isSome then s.answer p 0 []
    else
      match s.peerPages p.addr p.data.length true with
      | .error k => s.answer p k []
      | .ok ps =>
        if !fmtAgrees p ps then s.answer p 7 []
        else if blockedPages ps then s.planFree (.fabricWrite { p with port := 24 })
        else if let some t := s.peerSnoop ps then t.planFree (.fabricWrite { p with port := 24 })
        else
          let ts := tilesTouched p ps
          if ts.isEmpty then s.writeDone p else s.writeTiles p ts

/-- FABRIC_ATOMIC (02 R31, 19 R347): it performs once at the home slice, and its ACK carries the old value. -/
def execFabricAtomic (p : Packet) (s : State) : Out :=
  let p := packetAs p 4
  s.incoming p fun s =>
    match s.fabric.done? p with
    | some v => s.answer p 0 (numBytes p.count v)
    | none =>
      match s.peerPages p.addr p.count true with
      | .error k => s.answer p k []
      | .ok ps =>
        if blockedPages ps then s.planFree (.fabricAtomic { p with port := 24 })
        else if let some t := s.peerSnoop ps then t.planFree (.fabricAtomic { p with port := 24 })
        else
          match ps with
          | (l, va, _) :: _ =>
            let pa := l.pa va
            let loc := pteLoc l.pte
            let (old, bad) := s.mem.readNum loc pa p.count
            let old := if bad.isEmpty then old else 0
            let v := bytesNum (p.data.take p.count)
            let cm := bytesNum (p.data.drop p.count)
            let s := match (if bad.isEmpty then atomicNew p.op p.count old v cm else none) with
              | some x => s.writeMem loc pa (numBytes p.count x)
              | none => s
            ((s.peerHeat ps).markDone p old).answer p 0 (numBytes p.count old)
          | [] => s

/-! Acknowledgements (02 R32, R33, 19 R346, R347). -/

/-- Offset of an fput or fget packet in its command. -/
def EngCmd.offsetOf (e : EngCmd) (p : Packet) : Nat := p.addr - (if e.op = 9 then e.vb.toNat else e.va.toNat)

/-- The bytes acknowledged from the first on without a gap. -/
def prefixOf (rs : List (Nat × Nat)) (at_ fuel : Nat) : Nat :=
  match fuel with
  | 0 => at_
  | k + 1 =>
    match rs.find? fun r => r.1 = at_ with
    | some r => prefixOf rs (at_ + r.2) k
    | none => at_

/-- Bytes of a command's packets acknowledged in ascending order. -/
def EngCmd.ackedBytes (e : EngCmd) : Nat := prefixOf e.acked 0 e.acked.length

/-- Packets of a command still outstanding in the fabric. -/
def State.outstandingOf (s : State) (n id : Nat) : Nat :=
  (s.fabric.outstanding.filter fun o => o.core = n && o.cmd = id).length

/-- A fabric command ends with an error (02 R35, 19 R346): COUNT is what an fput has had acknowledged, or what an fget has written. -/
def State.fabricError (s : State) (n id code : Nat) : State :=
  match (s.owner n id).eng? id with
  | none => s
  | some e => s.failCmd n id code (if e.op = 9 then e.ackedBytes else if e.op = 0x0A then e.count else 0) e.ackLeft

/-- A packet of a command has been answered without error: a WRITE, a read with its data, or an atomic with the old value. -/
def State.answered (s : State) (o : OutPkt) (p : Packet) : State :=
  match (s.owner o.core o.cmd).eng? o.cmd with
  | none => s
  | some e =>
    if e.op = 0x0B then
      let s := s.ownVault o.core o.cmd (e.stw + 8) (numBytes 8 (bytesNum p.data))
      (s.updCmd o.core o.cmd fun e => { e with count := 1 }).finishCmd o.core o.cmd 1
    else
      let off := e.offsetOf o.pkt
      let s := s.updCmd o.core o.cmd fun e =>
        let e := { e with acked := (off, o.pkt.count) :: e.acked }
        if e.op = 0x0A then { e with units := e.units ++ [⟨off / 3840, 0, o.pkt.count, bytesNum p.data, none, true⟩] } else e
      let s := s.updOwner o.core o.cmd fun c => { c with ackc := c.ackc - 1 }
      s.planFree (.engineComplete o.core o.cmd)

/-- An answer is for a packet: they share the tag, and it comes from the destination, from the tree, or from a Spindle without a
route. -/
def answers (p : Packet) (o : OutPkt) : Bool :=
  o.tag = p.tag && (o.pkt.mcast || o.pkt.dst = p.src || (p.err = 5 && o.pkt.addr = p.addr))

/-- An answer arrives for the packet that bears its tag; that of a contribution only says that it has come (02 R31, R33). -/
def State.takeAnswer (s : State) (p : Packet) : State :=
  match s.fabric.outstanding.find? (answers p) with
  | none => s
  | some o =>
    let s := { s with fabric := { s.fabric with outstanding := s.fabric.outstanding.filter (· ≠ o) } }
    if o.pkt.mcast then s else if p.err ≠ 0 then s.fabricError o.core o.cmd p.err else s.answered o p

/-- ACK (02 R32). -/
def execAck (p : Packet) (s : State) : Out :=
  let p := packetAs p 5
  s.incoming p fun s => s.takeAnswer p

/-- READ_DATA (19 R346). -/
def execReadData (p : Packet) (s : State) : Out :=
  let p := packetAs p 3
  s.incoming p fun s => s.takeAnswer p

/-! Folding (02 R38, 19 R348). -/

/-- The folding format of an element format, by its FMT code: f64, f32 or i32. -/
def accFmt (fmt : Nat) : Nat := if fmt = 1 then 1 else if pageInt fmt then 0x0F else 2

/-- The element codes of tiles. -/
def tileCodes (fmt geom count : Nat) (data : List Byte) : List Nat :=
  let el := tileEdge geom * tileEdge geom
  let tb := tileBytes fmt geom
  let b := pageBits fmt
  (List.range (count / el)).flatMap fun t =>
    let d := bytesNum ((data.drop (t * tb)).take tb)
    (List.range el).map fun i => d >>> (b * i) % 2 ^ b

/-- A tile of element codes with its canonical sums. -/
def codesTile (fmt geom : Nat) (codes : List Nat) : List Byte :=
  numBytes (tileBytes fmt geom) (regenTile [] fmt geom (packCodes (pageBits fmt) codes))

/-- The tiles of element codes. -/
def codesTiles (fmt geom : Nat) (codes : List Nat) : List Byte :=
  let el := tileEdge geom * tileEdge geom
  (List.range (codes.length / el)).flatMap fun t => codesTile fmt geom ((codes.drop (t * el)).take el)

/-- All tiles of an input are there and verify exactly (07 R115). -/
def tilesOk (fmt geom count : Nat) (data : List Byte) : Bool :=
  let el := tileEdge geom * tileEdge geom
  let tb := tileBytes fmt geom
  data.length = count / el * tb
    && (List.range (count / el)).all fun t => tileVerifies [] fmt geom (bytesNum ((data.drop (t * tb)).take tb))

/-- The float format of a folding format. -/
def accFp (acc : Nat) : FpFmt := if acc = 1 then fF64 else fF32

/-- An element in the folding format. -/
def toAcc (fmt code : Nat) : Nat :=
  if pageInt fmt then code % 2 ^ 32 else (roundFp (accFp (accFmt fmt)) 0 0 (pageVal fmt code)).1

/-- One addition of the fold. -/
def foldAdd (acc a b : Nat) : Nat :=
  if acc = 0x0F then (a + b) % 2 ^ 32
  else
    let f := accFp acc
    (roundFp f 0 0 (evSum 0 [decodeFp f a, decodeFp f b]).1).1

/-- The tiles of an input as far as they have come. -/
def GroupInput.data (x : GroupInput) : List Byte := x.pieces.flatMap fun p => p.2

/-- A piece joins those before and after it by its offset. -/
def addPiece (ps : List (Nat × List Byte)) (p : Nat × List Byte) : List (Nat × List Byte) :=
  insertBy (fun a b => decide (a.1 ≤ b.1)) p (ps.filter fun q => q.1 ≠ p.1)

/-- Tiles of a number of elements have come whole. -/
def tilesWhole (fmt geom count : Nat) (data : List Byte) : Bool :=
  count / (tileEdge geom * tileEdge geom) * tileBytes fmt geom ≤ data.length

/-- The element codes of an input in the folding format. -/
def GroupInput.accCodes (x : GroupInput) (geom : Nat) : List Nat :=
  (tileCodes x.fmt geom x.count x.data).map (toAcc x.fmt)

/-- The fold of the inputs from the lowest key up (02 R38). -/
def foldInputs (geom : Nat) (xs : List GroupInput) : List Nat :=
  match sortBy (fun (a b : GroupInput) => decide (a.key ≤ b.key)) xs with
  | [] => []
  | x :: r => r.foldl (fun acc y => (acc.zip (y.accCodes geom)).map fun p => foldAdd (accFmt x.fmt) p.1 p.2) (x.accCodes geom)

/-- Ranks that inputs combine. -/
def ranksOf (xs : List GroupInput) : Nat := xs.foldl (fun k x => k + x.nr + 1) 0

/-- Elements of tiles that begin below a byte offset. -/
def elemsBelow (fmt geom off : Nat) : Nat :=
  let el := tileEdge geom * tileEdge geom
  let tb := tileBytes fmt geom
  off / tb * el + min el ((off % tb * 8 + pageBits fmt - 1) / pageBits fmt)

/-- COUNT of a piece: the elements that it carries (02 R27; log 26). -/
def carried (fmt geom off len : Nat) : Nat := elemsBelow fmt geom (off + len) - elemsBelow fmt geom off

/-- The last piece of an input has come, and all before it: no piece is as long as a packet may be after it (log 26). -/
def GroupInput.ended (x : GroupInput) : Bool :=
  match x.pieces.getLast? with
  | some p => p.1 + p.2.length = x.data.length && p.2.length < packetMax
  | none => false

/-- The own input of an operation. -/
def GroupOp.ownInput (o : GroupOp) : Option GroupInput := o.inputs.find? fun x => x.port = 24

/-- An input of an operation is there whole; before the own input says how many elements the operation has, its last piece does. -/
def GroupOp.whole (o : GroupOp) (x : GroupInput) : Bool :=
  match o.ownInput with
  | some y => x.count = y.count && tilesWhole x.fmt o.geom y.count x.data
  | none => x.ended

/-- The ranks that the inputs of an operation combine so far; one of which pieces are missing counts as missing (02 R39). -/
def GroupOp.ranks (o : GroupOp) : Nat := ranksOf (o.inputs.filter o.whole)

/-- A result element in the destination's format (02 R38). -/
def fromAcc (acc fmt code : Nat) : Nat :=
  if acc = 0x0F then code % 2 ^ 32 else (roundFp (fpFmt (fmt - 1)) 0 0 (decodeFp (accFp acc) code)).1

/-! Groups (02 R36 to R40). -/

/-- The child ports of a group. -/
def GroupEntry.children (e : GroupEntry) : List Nat := (List.range 24).filter fun i => bit e.child i

/-- The ports of the tree at this Spindle. -/
def GroupEntry.tree (e : GroupEntry) : List Nat := (if e.parent = 31 then [] else [e.parent]) ++ e.children

/-- GTMO in chip cycles. -/
def GroupEntry.timeout (e : GroupEntry) : Nat := (if e.gtmo = 0 then 5000 else e.gtmo) * Config.usec

/-- BUSY: an operation of the group is in progress (02 R36). -/
def Fabric.busy (f : Fabric) (g : Nat) : Bool := f.ops.any fun o => o.group = g

/-- Changes the operation of a group with a sequence number. -/
def State.updOp (s : State) (g seq : Nat) (f : GroupOp → GroupOp) : State :=
  { s with fabric := { s.fabric with
      ops := s.fabric.ops.map fun o => if o.group = g && o.seq = seq then f o else o } }

/-- The operation of a group with a sequence number. -/
def Fabric.op? (f : Fabric) (g seq : Nat) : Option GroupOp := f.ops.find? fun o => o.group = g && o.seq = seq

/-- A packet of a group leaves by a port of the tree. -/
def State.sendTree (s : State) (port : Nat) (p : Packet) : State := if s.fabric.up port then s.sendFlit port p else s

/-- A packet of a group. -/
def State.groupPacket (s : State) (kind g seq : Nat) : Packet := { s.packet kind g with mcast := true, seq := seq }

/-- A contribution or result leaves by a port of the tree, in pieces of one packet each, whose COUNT is what they carry; a contribution's
pieces are tagged and outstanding for the own command until they are acknowledged (02 R27, R31, R33; log 26). -/
def State.sendPieces (s : State) (port : Nat) (p : Packet) (geom : Nat) (own : Option (Nat × Nat)) : State :=
  (piecesOf p.data).foldl (fun s x =>
    let q := { p with addr := x.1, data := x.2, count := carried p.fmt geom x.1 x.2.length }
    match own with
    | none => s.sendTree port q
    | some (n, id) =>
      let tag := freeTag (s.fabric.outstanding.map fun o => o.tag) s.fabric.tagNext 4096
      let q := { q with tag := tag }
      let o : OutPkt := ⟨tag, n, id, q, s.chip, false⟩
      let s := { s with fabric := { s.fabric with tagNext := (tag + 1) % 4096, outstanding := s.fabric.outstanding ++ [o] } }
      (s.sendTree port q).plan (s.chip + Config.ackTmo) (.ackTimeout tag)) s

/-- A contribution or result is sent and kept until the operation ends here (02 R38). -/
def State.sendKept (s : State) (o : GroupOp) (port : Nat) (p : Packet) : State :=
  (s.updOp o.group o.seq fun x => { x with kept := x.kept ++ [(port, p)] }).sendPieces port p o.geom
    (if p.kind = 6 then o.own else none)

/-- What was sent by a port is asked for again and leaves anew; no acknowledgement of its first sending is awaited any more (02 R38). -/
def State.sendAnew (s : State) (g seq port : Nat) : State :=
  match s.fabric.ops.find? fun o => o.group = g && o.seq = seq with
  | some o =>
    let again := o.kept.filter fun x => x.1 = port
    let first (x : OutPkt) : Bool :=
      again.any (fun k => k.2.kind = 6) && x.pkt.mcast && x.pkt.kind = 6 && x.pkt.dst = g && x.pkt.seq = seq
    let s := { s with fabric := { s.fabric with outstanding := s.fabric.outstanding.filter fun x => !first x } }
    again.foldl (fun s x => s.sendPieces port x.2 o.geom (if x.2.kind = 6 then o.own else none)) s
  | none => s

/-- The sender behind a port of the tree is asked to send again: a READ_REQ of the group's traffic (02 R38; log 26). -/
def State.askAgain (s : State) (g seq port : Nat) : State :=
  (s.sendTree port (s.groupPacket 2 g seq)).emit (.sendAgain port seq)

/-- An operation ends at this Spindle: SEQ rises, and what it kept or still awaits an acknowledgement for goes (02 R38). -/
def State.endOp (s : State) (o : GroupOp) : State :=
  let e := s.fabric.entry o.group
  let mine (x : OutPkt) : Bool := x.pkt.mcast && x.pkt.dst = o.group && x.pkt.seq = o.seq
  let f := { s.fabric with
    ops := s.fabric.ops.filter (fun x => !(x.group = o.group && x.seq = o.seq)),
    outstanding := s.fabric.outstanding.filter fun x => !mine x }
  { s with fabric := f.setEntry o.group { e with seq := (e.seq + 1) % 65536 } }

/-- An operation ends with an error, for the own command and, by error results, for the ports given (02 R38, R39). -/
def State.failOp (s : State) (o : GroupOp) (code count : Nat) (ports : List Nat) : State :=
  let s := ports.foldl (fun s i => s.sendTree i { s.groupPacket 7 o.group o.seq with err := code, count := count }) s
  let s := match o.own with
    | some (n, id) => s.failCmd n id code count 1
    | none => s
  s.endOp o

/-- ACK_TIMEOUT (02 R33): one resend by the alternate route with the same TAG, then NO_ACK. A contribution has the tree's port only
(log 26); its end is that of the operation at this Spindle. -/
def execAckTimeout (tag : Nat) (s : State) : Out :=
  let chip := s.chip
  match s.fabric.outstanding.find? fun o => o.tag = tag && o.sentAt + Config.ackTmo ≤ chip with
  | none => .next s
  | some o =>
    if o.resent then
      match s.fabric.ops.find? fun x => o.pkt.mcast && x.group = o.pkt.dst && x.seq = o.pkt.seq with
      | some op => .next (s.failOp op 1 0 [])
      | none => .next (s.fabricError o.core o.cmd 1)
    else
      let again (x : OutPkt) : OutPkt := if x = o then { x with resent := true, sentAt := chip } else x
      let s := { s with fabric := { s.fabric with outstanding := s.fabric.outstanding.map again } }
      if o.pkt.mcast then
        .next ((s.sendTree (s.fabric.entry o.pkt.dst).parent o.pkt).plan (chip + Config.ackTmo) (.ackTimeout tag))
      else
        let r := s.sendTo o.pkt true
        .next (if r.1 then r.2.plan (chip + Config.ackTmo) (.ackTimeout tag) else r.2.unreachable o.pkt)

/-- READ_REQ (19 R346, 07 R124); one of a group's traffic asks for what was sent by its port again (02 R38; log 26). -/
def execReadReq (p : Packet) (s : State) : Out :=
  let p := packetAs p 2
  s.incoming p fun s =>
    if p.mcast then s.sendAnew p.dst p.seq p.port
    else match s.peerPages p.addr p.count false with
    | .error k => s.answer p k []
    | .ok ps =>
      if let some t := s.peerSnoop ps then t.planFree (.readReq { p with port := 24 })
      else
      let rs := ps.map fun x => (s.mem.readNum (pteLoc x.1.pte) (x.1.pa x.2.1) x.2.2, x.2.2)
      let s := s.peerHeat ps
      if rs.any fun r => !r.1.2.isEmpty then s.answer p 8 []
      else
        (piecesOf (rs.flatMap fun r => numBytes r.2 r.1.1)).foldl (fun s x =>
          s.answer { p with addr := p.addr + x.1 } 0 x.2) s

/-- The timer of an operation has reached zero (02 R39). -/
def GroupOp.expired (o : GroupOp) (chip : Nat) : Bool := o.result.isNone && o.paused.isNone && o.deadline ≤ chip

/-- Operations whose timer has reached zero end with PEER_ABSENT at every member (02 R39). -/
def State.expireOps (s : State) (which : GroupOp → Bool) : State :=
  (s.fabric.ops.filter fun o => which o && o.expired s.chip).foldl (fun s o =>
    s.failOp o 2 o.ranks (s.fabric.entry o.group).tree) s

/-- GROUP_TIMER_EXPIRY (02 R39). -/
def execGroupTimerExpiry (g : Nat) (s : State) : Out := .next (s.expireOps fun o => o.group = g)

/-- The operation of a group with a sequence number, opened with its timer if it is not there (02 R39). -/
def State.openOp (s : State) (g seq : Nat) : State :=
  if (s.fabric.op? g seq).isSome then s
  else
    let t := s.chip + (s.fabric.entry g).timeout
    let o : GroupOp := ⟨g, seq, [], none, 0, [], t, none, false, false, none, [], []⟩
    ({ s with fabric := { s.fabric with ops := s.fabric.ops ++ [o] } }.plan t (.groupTimerExpiry g)).retime

/-- A failed input of an operation: asked for once more, or the end of the operation with ASSAY_LINK (02 R38). -/
def State.badInput (s : State) (o : GroupOp) (port : Nat) : State :=
  if o.failed.contains port then
    s.failOp o 4 (ranksOf (o.inputs.filter fun x => x.port ≠ port && o.whole x)) (s.fabric.entry o.group).tree
  else
    (s.updOp o.group o.seq fun o =>
      { o with failed := port :: o.failed, inputs := o.inputs.filter fun x => x.port ≠ port }).askAgain o.group o.seq port

/-- Once the own input is there, the others are held against it: another folding format or count is counted as a bad flit and
discarded (19 R348), and a failed verification asks for the input again (02 R38). -/
def State.checkInputs (s : State) (g seq : Nat) : State :=
  match s.fabric.op? g seq with
  | none => s
  | some o =>
    match o.ownInput with
    | none => s
    | some own =>
      let other (x : GroupInput) : Bool :=
        own.count < x.count || (x.count ≠ own.count && (x.ended || tilesWhole x.fmt o.geom own.count x.data))
      o.inputs.foldl (fun s x =>
        if x.port = 24 then s
        else if accFmt x.fmt ≠ accFmt own.fmt || other x then
          (s.badFlit x.port).updOp g seq fun o => { o with inputs := o.inputs.filter fun y => y.port ≠ x.port }
        else if !o.whole x || tilesOk x.fmt o.geom x.count x.data then s
        else match s.fabric.op? g seq with
          | some o => s.badInput o x.port
          | none => s) s

/-- An operation whose inputs are all there and verified goes on: the root's fold is the result and goes down the tree, any
other Spindle's partial goes up (02 R38). -/
def State.advanceOp (s : State) (g seq : Nat) : State :=
  match s.fabric.op? g seq with
  | none => s
  | some o =>
    let e := s.fabric.entry g
    let full := (24 :: e.children).all fun i => o.inputs.any fun x => x.port = i && o.whole x
    if !full || o.sentUp || o.result.isSome || o.own.isNone then s
    else
      let acc := foldInputs o.geom o.inputs
      let fmt := accFmt ((o.inputs.map fun x => x.fmt).headD 2)
      let data := codesTiles fmt o.geom acc
      let key := (o.inputs.map fun x => x.key).foldl min ((o.inputs.map fun x => x.key).headD 0)
      if e.parent = 31 then
        let s := e.children.foldl (fun s i => s.sendKept o i
          { s.groupPacket 7 g seq with fmt := fmt, count := acc.length, data := data }) s
        let s := s.updOp g seq fun o => { o with result := some acc }
        match o.own with
        | some (n, id) => s.planFree (.engineComplete n id)
        | none => s
      else
        let t := s.chip + e.timeout
        let s := s.sendKept o e.parent
          { s.groupPacket 6 g seq with
            fmt := fmt, count := acc.length, data := data, key := key, nr := ranksOf o.inputs - 1 }
        ((s.updOp g seq fun o => { o with sentUp := true, deadline := t, paused := none }).plan t
          (.groupTimerExpiry g)).retime

/-- REDUCE_CONTRIB (02 R37 to R39, R31): a piece of a partial from a child joins its operation. -/
def execReduceContrib (p : Packet) (s : State) : Out :=
  let p := packetAs p 6
  s.incoming p fun s =>
    let g := p.dst
    let e := s.fabric.entry g
    let s := s.expireOps fun o => o.group = g
    let now := (s.fabric.entry g).seq
    if !e.valid || !e.children.contains p.port then s.badFlit p.port
    else if (s.fabric.done? p).isSome then s.answer p 0 []
    else if p.seq ≠ now && p.seq ≠ (now + 1) % 65536 then s
    else
      let s := s.openOp g p.seq
      let late := (s.fabric.op? g p.seq).any fun o => o.sentUp || o.result.isSome
      if late then s
      else
        let join (o : GroupOp) : GroupOp :=
          if o.inputs.any fun y => y.port = p.port then
            { o with inputs := o.inputs.map fun y =>
                if y.port = p.port then
                  { y with
                    pieces := addPiece y.pieces (p.addr, p.data),
                    count := if y.pieces.any (fun q => q.1 = p.addr) then y.count else y.count + p.count }
                else y }
          else { o with inputs := o.inputs ++ [⟨p.port, p.key, p.nr, p.fmt, p.count, [(p.addr, p.data)]⟩] }
        let s := s.updOp g p.seq join
        let s := s.checkInputs g p.seq
        let kept := (s.fabric.op? g p.seq).any fun o => o.inputs.any fun y => y.port = p.port
        let s := if kept then (s.markDone p 0).answer p 0 [] else s
        s.advanceOp g p.seq

/-- A piece of a successful result at a member (02 R38): once the result is whole it is verified, passed on to the children, and
kept for the own command's write; a result that fails is asked for once more. -/
def State.takeResult (s : State) (o : GroupOp) (p : Packet) : State :=
  let e := s.fabric.entry o.group
  let ps := addPiece o.back (p.addr, p.data)
  let data := ps.flatMap fun x => x.2
  let fits := (o.ownInput.any fun x => p.fmt = accFmt x.fmt) && p.count = carried p.fmt o.geom p.addr p.data.length
  let count := (o.ownInput.map fun x => x.count).getD 0
  let set (ps : List (Nat × List Byte)) (f : GroupOp → GroupOp) : State := s.updOp o.group o.seq fun o => f { o with back := ps }
  if fits && !tilesWhole p.fmt o.geom count data then set ps id
  else if fits && tilesOk p.fmt o.geom count data then
    let s := e.children.foldl (fun s i => s.sendKept o i
      { p with port := 0, hops := 7, src := s.fabric.fabid, addr := 0, count := count, data := data }) (set ps id)
    match o.own with
    | some (n, id) =>
      if ((s.owner n id).eng? id).isNone then s.endOp o
      else (s.updOp o.group o.seq fun o => { o with result := some (tileCodes p.fmt o.geom count data) }).planFree
        (.engineComplete n id)
    | none => s.endOp o
  else if o.resultFailed then s.failOp o 4 o.ranks e.children
  else (set [] fun o => { o with resultFailed := true }).askAgain o.group o.seq p.port

/-- REDUCE_RESULT (02 R37 to R40). -/
def execReduceResult (p : Packet) (s : State) : Out :=
  let p := packetAs p 7
  s.incoming p fun s =>
    let g := p.dst
    let e := s.fabric.entry g
    let allowed := if p.err = 0 then p.port = e.parent else e.tree.contains p.port
    if !e.valid || !allowed then s.badFlit p.port
    else
      let s := s.expireOps fun o => o.group = g
      match s.fabric.op? g p.seq with
      | none => s
      | some o =>
        if o.result.isSome then s
        else if p.err ≠ 0 then s.failOp o p.err p.count (e.tree.filter fun i => i ≠ p.port)
        else if o.sentUp then s.takeResult o p
        else s

/-- GROUP_ENTRY_WRITE (02 R36, R37): a valid entry lets only VALID be written, and clearing it ends the operation in
progress with GROUP_REVOKED. DESIGN CHOICE (log 26): the count field of a command so ended is 0; the manual gives it none. -/
def execGroupEntryWrite (g word : Nat) (val : Word) (s : State) : Out :=
  let e := s.fabric.entry g
  let v := val.toNat
  let valid := bit v 63
  let set (x : GroupEntry) (s : State) : State := { s with fabric := s.fabric.setEntry g x }
  if 256 ≤ g then .next s
  else if word = 0 then
    if e.valid then
      if valid then .next s
      else
        let s := (s.fabric.ops.filter fun o => o.group = g).foldl (fun s o => s.failOp o 3 0 []) s
        .next (set { s.fabric.entry g with valid := false } s)
    else
      .next (set { e with
        valid := valid, parent := bits v 57 5, rank := bits v 46 11, size := bits v 35 11,
        seq := if valid then 0 else e.seq } s)
  else if word = 1 && !e.valid then .next (set { e with child := bits v 40 24, gtmo := bits v 20 20 } s)
  else .next s

/-! Debug holds (02 R41). -/

/-- A hold or release flit is sent once on every UP port but the one it came in on (02 R41). -/
def State.flood (s : State) (p : Packet) (port : Nat) : State :=
  ((List.range 24).filter fun i => i ≠ port && s.fabric.up i).foldl (fun s i => s.sendFlit i p) s

/-- A hold epoch joins the hold set, after the expiries of its chip cycle, and its flit goes on. -/
def State.hold (s : State) (epoch port : Nat) (p : Packet) : State :=
  if s.fabric.holds.contains epoch then s
  else if 8 ≤ s.fabric.holds.length then s.badFlit port
  else
    let s := s.expireOps fun _ => true
    ({ s with fabric := { s.fabric with holds := s.fabric.holds ++ [epoch] } }.retime).flood p port

/-- An epoch leaves the hold set, and its flit goes on. -/
def State.unhold (s : State) (epoch port : Nat) (p : Packet) : State :=
  if !s.fabric.holds.contains epoch then s
  else ({ s with fabric := { s.fabric with holds := s.fabric.holds.filter (· ≠ epoch) } }.retime).flood p port

/-- A hold or release flit comes in: whatever its destination it acts here and goes on with one hop less (02 R30, R41). -/
def State.floodIn (s : State) (p : Packet) (f : Packet → State → State) : Out :=
  if !s.fabric.up p.port then .next s
  else
    let s := s.received p.port
    .next (if packetBad p then s.badFlit p.port else if p.hops = 0 then s else f { p with port := 0, hops := p.hops - 1 } s)

/-- DEBUG_HOLD (02 R41). -/
def execDebugHold (p : Packet) (s : State) : Out :=
  let p := packetAs p 8
  s.floodIn p fun q s => s.hold p.seq p.port q

/-- DEBUG_RELEASE (02 R41). -/
def execDebugRelease (p : Packet) (s : State) : Out :=
  let p := packetAs p 9
  s.floodIn p fun q s => s.unhold p.seq p.port q

/-- DBGCTL HOLD (08 R134, 02 R41). -/
def execDbgHold (epoch : Nat) (s : State) : Out := .next (s.hold (epoch % 65536) 24 { s.packet 8 0 with seq := epoch % 65536 })

/-- DBGCTL RELEASE (08 R134, 02 R41). -/
def execDbgRelease (epoch : Nat) (s : State) : Out := .next (s.unhold (epoch % 65536) 24 { s.packet 9 0 with seq := epoch % 65536 })

end Sys2Proof.Machine
end

