-- ==== Sys2Proof/Machine/Remote.lean ====
section
/-! DEFINITION. The remote effects and the end of acknowledged engine commands (19 R340, R345 to R348, 11 R197, R198). -/

namespace Sys2Proof.Machine

/-! Accesses of acknowledged commands. -/

/-- The page of an address for an acknowledged access with one of the LOCs that the command names for that side (19 R338,
21 R359), or its fault: a write needs WRITE (03 R57). -/
def State.ackPage (s : State) (n : Nat) (c : Core) (va : Nat) (locs : List Nat) (write : Bool) : Except Nat PageInfo :=
  match s.pageOf n c va with
  | .error k => .error k
  | .ok p =>
    if write && !pteWrite p.pte then .error 0x15
    else if !locs.contains (pteLoc p.pte) then .error 0x16
    else .ok p

/-- An access of core n's context counts heat on its page (03 R62). -/
def State.ackHeat (s : State) (c : Core) (va len : Nat) (p : PageInfo) : State :=
  s.heatTouch (s.rootIn c % 4096) va p.size p.pte len

/-- The result of one attempt: so many bytes are written, the command waits for what will bring its event again, or a fault. -/
inductive Attempt where
  | done (s : State) (bytes : Nat)
  | wait (s : State)
  | fault (code : Nat)

/-- The core that issued a command holds its context and has not stopped. -/
def State.ownerGoes (s : State) (n id : Nat) : Bool := (s.core n).owns id && (s.core n).mode ≠ .stopped

/-- A command of core n asks for a translation that the core's TLB lacks: the core freezes until it has it (03 R58, 19 R332). -/
def State.startProbe (s : State) (n id va : Nat) : State :=
  if (s.core n).globals.any fun a => a.cmd = some id && a.kind = .probe then s
  else
    let (acc, s) := s.newId
    ((s.sketch n 3 1).updCore n fun c =>
      { c with globals := c.globals ++ [c.access acc srcE va 1 c.sched .probe (some id)], seq := c.seq + 1 }).startWalk n acc va

/-- An acknowledged access finds its page in the TLB of its core, or waits for it; a context that is not on a core that goes reads the
tables. -/
inductive Looked where
  | page (p : PageInfo)
  | wait (s : State)
  | fault (code : Nat)

/-- The page of an acknowledged access (03 R58). -/
def State.ackLook (s : State) (n id va : Nat) (locs : List Nat) (write : Bool) : Looked :=
  let c := s.owner n id
  match s.ackPage n c va locs write with
  | .error k => .fault k
  | .ok p =>
    if s.ownerGoes n id && (c.tlbFind (s.rootIn c % 4096) va).isNone then .wait (s.startProbe n id va) else .page p

/-- The access of an acknowledged command meets HDM lines that the host holds: they are snooped, and it waits for the answers
(03 R48). -/
def State.ackSnoop (s : State) (n id loc pa len : Nat) : Option State :=
  if s.snooping n id then some s
  else if loc = 0 && !(s.mem.heldLines pa len).isEmpty then some (s.snoopFor n id pa len)
  else none

/-- A command waits for room in its die's write-hold buffer, which freezes its core until the buffer drains (03 R66). -/
def State.waitRoom (s : State) (n id issued : Nat) : State :=
  if s.ownerGoes n id then s.updCore n fun c => c.hold 6 (dieOf n) issued id
  else s.planFree (.engineComplete n id)

/-- Bytes that fit into so many lines from an offset. -/
def roomBytes (off lines : Nat) : Nat := 64 * (off / 64 + lines) - off

/-- A write of an acknowledged command to its own vault, or to a page whose LOC it may name there: under write-block it parks, as far as
the write-hold buffer has room, and waits where it has none (03 R66, 19 R349). -/
def State.ackWrite (s : State) (n : Nat) (e : EngCmd) (va : Nat) (vault : Bool) (locs : List Nat) (data : List Byte) : Attempt :=
  if vault then .done (s.ownVault n e.id va data) data.length
  else
    let c := s.owner n e.id
    match s.ackLook n e.id va locs true with
    | .fault k => .fault k
    | .wait s => .wait s
    | .page p =>
      let loc := pteLoc p.pte
      if pteWb p.pte then
        let place := s.wbPlace (s.rootIn c % 4096) va (p.pa va) p.size
        let room := 256 - s.xlate.parkedLines (dieOf n)
        let k := min data.length (roomBytes place.2 room)
        if room = 0 then .wait (s.waitRoom n e.id e.issued)
        else
          .done { (s.ackHeat c va k p) with
            xlate := s.xlate.park ⟨dieOf n, n, e.id, true, place.1, place.2, k, .store (data.take k), s.chip⟩ } k
      else
        match s.ackSnoop n e.id loc (p.pa va) data.length with
        | some t => .wait t
        | none =>
          .done (((s.ackHeat c va data.length p).writeFor c.launch loc (p.pa va) data).updOwner n e.id fun c =>
            c.ownWrite s.nextId s.chip (placeKey loc (p.pa va)) data.length) data.length

/-- The LOCs of the remote side: the second tier for tcopy, host memory or HBM4, line by line, for hget and hput (21 R359). -/
def EngCmd.remoteLocs (e : EngCmd) : List Nat := if e.op = 6 then [2] else [1, 0]

/-- The command's remote side is host memory and the host link is down (01 R25). -/
def State.linkLost (s : State) (e : EngCmd) : Bool := e.op ≠ 6 && !s.power.hostLink

/-- Bytes of a chunk: a tile, or a line. -/
def EngLayout.chunk (l : EngLayout) : Nat := if l.sgeom = 0 && l.dgeom = 0 then 64 else tileBytes l.dfmt l.dgeom

/-- A command whose writes have all been made ends once none of them is parked. -/
def State.endWhenDone (s : State) (n id left : Nat) : State :=
  if s.parkedOf n id then s.planFree (.engineComplete n id) else s.finishCmd n id left

/-- The page of a chunk's destination has the formats of its side and holds the chunk as a tile, if tiles it has (19 R338). -/
def PageInfo.holds (p : PageInfo) (va fmt geom : Nat) : Option Nat :=
  if p.fmt ≠ fmt || p.geom ≠ geom then some 0x1A else if geom ≠ 0 && !p.tileFits va then some 0x1B else none

/-- The fault of a chunk's destination before any of it is written (19 R338). -/
def State.chunkFault (s : State) (n : Nat) (e : EngCmd) (l : EngLayout) (va : Nat) (vault : Bool) (locs : List Nat) : Option Nat :=
  if vault then none
  else match s.ackPage n (s.owner n e.id) va locs true with
    | .error k => some k
    | .ok p => p.holds va l.dfmt l.dgeom

/-- The chunk that a command holds is written from its first byte not yet written on, len bytes long in all; when all of it is, units
more count as completed. -/
def State.writeChunk (s : State) (n : Nat) (e : EngCmd) (l : EngLayout) (va : Nat) (vault : Bool) (locs : List Nat)
    (v written len units : Nat) : State :=
  match (if written = 0 then s.chunkFault n e l va vault locs else none) with
  | some k => s.failCmd n e.id k e.count e.ackLeft
  | none =>
    match s.ackWrite n e (va + written) vault locs ((numBytes len v).drop written) with
    | .fault k => s.failCmd n e.id k e.count e.ackLeft
    | .wait s => s
    | .done s k =>
      let f (e : EngCmd) : EngCmd :=
        if written + k < len then { e with chunk := some (v, written + k) } else { e with chunk := none, count := e.count + units }
      (s.updCmd n e.id f).planFree (.engineComplete n e.id)

/-- A chunk that has been read is held by its command, and written. -/
def State.takeChunk (s : State) (n : Nat) (e : EngCmd) (l : EngLayout) (va : Nat) (vault : Bool) (locs : List Nat)
    (v len units : Nat) : State :=
  let s := s.updCmd n e.id fun e => { e with chunk := some (v, 0) }
  s.writeChunk n { e with chunk := some (v, 0) } l va vault locs v 0 len units

/-! Commands that pull: tcopy.in and hget (19 R340, R345). -/

/-- What a read of a chunk gives: its value, a fault, or a wait; each read counts heat on its page, whatever it meets (03 R62). -/
inductive ChunkRead where
  | value (v : Nat) (s : State)
  | bad (code : Nat) (s : State)
  | wait (s : State)

/-- The remote bytes of a chunk, verified when they are a tile. -/
def State.pullRead (s : State) (n : Nat) (e : EngCmd) (l : EngLayout) : ChunkRead :=
  let c := s.owner n e.id
  let va := e.va.toNat + e.count
  match s.ackLook n e.id va e.remoteLocs false with
  | .fault k => .bad k s
  | .wait t => .wait t
  | .page p =>
    match p.holds va l.sfmt l.sgeom with
    | some k => .bad k s
    | none =>
      match s.ackSnoop n e.id (pteLoc p.pte) (p.pa va) l.chunk with
      | some t => .wait t
      | none =>
        let r := s.mem.readNum (pteLoc p.pte) (p.pa va) l.chunk
        let s := s.ackHeat c va l.chunk p
        if !r.2.isEmpty then .bad 0x18 s
        else if l.sgeom ≠ 0 && !tileVerifies c.codebook l.sfmt l.sgeom r.1 then .bad 0x19 s
        else .value r.1 s

/-- The next chunk of a pulling command: it is read once, a tile that fails once more (07 R115), and held until it is written. -/
def State.pullChunk (s : State) (n : Nat) (e : EngCmd) (l : EngLayout) : State :=
  let book := (s.owner n e.id).codebook
  let vb := e.vb.toNat + e.count
  if e.n ≤ e.count then s.endWhenDone n e.id 1
  else if s.linkLost e then s.failCmd n e.id 0x1D e.count 1
  else
    match e.chunk with
    | some (v, w) => s.writeChunk n e l vb e.dstVault [0] v w l.chunk l.chunk
    | none =>
      match s.pullRead n e l with
      | .wait s => s
      | .bad k s =>
        if k = 0x19 && !e.retries.contains e.count then
          (s.updCmd n e.id fun e => { e with retries := e.count :: e.retries, retried := true }).planFree (.engineComplete n e.id)
        else s.failCmd n e.id k e.count 1
      | .value v s =>
        let v := if l.dgeom ≠ 0 && !e.dstVault then regenTile book l.dfmt l.dgeom v else v
        s.takeChunk n e l vb e.dstVault [0] v l.chunk l.chunk

/-! Commands that push: tcopy.out and hput (19 R340, R345). -/

/-- The units of the chunk at a byte offset are there. -/
def EngCmd.chunkThere (e : EngCmd) (off len : Nat) : Bool :=
  (List.range (len / 64)).all fun i => off / 64 + i < e.reads && e.unitThere (off / 64 + i)

/-- The first poisoned line of a chunk. -/
def EngCmd.chunkPoison (e : EngCmd) (off len : Nat) : Option Nat :=
  (List.range (len / 64)).findSome? fun i => e.unitPoison (off / 64 + i)

/-- The lines of a chunk of an own-vault or global source are read now: to read them again (19 R338), or because their core has
stopped (06 R105). -/
def State.sourceRead (s : State) (n : Nat) (e : EngCmd) (off len : Nat) : ChunkRead :=
  let c := s.owner n e.id
  let va := e.va.toNat + off
  if e.srcVault then .value (Store.num c.vault va len) s
  else
    match s.ackLook n e.id va [0] false with
    | .fault k => .bad k s
    | .wait t => .wait t
    | .page p =>
      match s.ackSnoop n e.id 0 (p.pa va) len with
      | some t => .wait t
      | none =>
        let r := s.mem.readNum 0 (p.pa va) len
        let s := s.ackHeat c va len p
        if !r.2.isEmpty then .bad 0x18 s else .value r.1 s

/-- The accesses by which a core reads a unit of a command are given up. -/
def Core.dropReads (c : Core) (id u : Nat) : Core :=
  let mine (a : GlobalAcc) : Bool := a.cmd = some id && match a.kind with | .load _ (.engine _ k _) _ => k = u | _ => false
  let ids := (c.globals.filter mine).map fun a => a.id
  let item (i : Item) : Bool := match i.act with | .openGlobal k | .globalLand k => ids.contains k | _ => false
  { c with globals := c.globals.filter (fun a => !mine a), items := c.items.filter fun i => !item i }

/-- Lines of a chunk take their data; those not read yet count as read. -/
def EngCmd.fillLines (e : EngCmd) (off len v : Nat) : EngCmd :=
  let line (i : Nat) : EngUnit := ⟨off / 64 + i, 0, 64, v >>> (512 * i) % 2 ^ 512, none, true⟩
  let mine (x : EngUnit) : Bool := off / 64 ≤ x.idx && x.idx < (off + len) / 64
  { e with
    units := e.units.filter (fun x => !mine x) ++ (List.range (len / 64)).map line, reads := max e.reads ((off + len) / 64) }

/-- A chunk of local data that verifies, or what becomes of the command instead: its data is awaited, poisoned, or failing for
the first or second time. -/
inductive Chunk where
  | data (v : Nat)
  | awaited
  | bad (code : Nat)
  | again (s : State)

/-- The local chunk at an offset of a command. One whose core has stopped before its reads reads them here, since its operation runs on
(06 R105). -/
def State.localChunk (s : State) (n : Nat) (e : EngCmd) (l : EngLayout) (off len : Nat) : Chunk :=
  let taken (f : EngCmd → EngCmd) (v : Nat) (s : State) : Chunk :=
    .again (s.updOwner n e.id fun c =>
      ((List.range (len / 64)).foldl (fun c i => c.dropReads e.id (off / 64 + i)) c).updEng e.id fun e => f (e.fillLines off len v))
  let read (f : EngCmd → EngCmd) : Chunk :=
    match s.sourceRead n e off len with
    | .value v s => taken f v s
    | .bad k _ => .bad k
    | .wait s => .again s
  if !e.chunkThere off len then
    (match e.fault with
    | some f => .bad f.1
    | none => if s.ownerGoes n e.id then .awaited else read id)
  else if (e.chunkPoison off len).isSome then .bad 0x18
  else
    let v := e.tileNum (off / 64) (len / 64)
    if e.verifies && !tileVerifies (s.owner n e.id).codebook l.sfmt l.sgeom v then
      if e.retries.contains off then .bad 0x19
      else read fun e => { e with retries := off :: e.retries, retried := true }
    else .data v

/-- The next chunk of a pushing command. -/
def State.pushChunk (s : State) (n : Nat) (e : EngCmd) (l : EngLayout) : State :=
  let book := (s.owner n e.id).codebook
  let vb := e.vb.toNat + e.count
  if e.n ≤ e.count then s.endWhenDone n e.id 1
  else if s.linkLost e then s.failCmd n e.id 0x1D e.count 1
  else
    match e.chunk with
    | some (v, w) => s.writeChunk n e l vb false e.remoteLocs v w l.chunk l.chunk
    | none =>
      match s.localChunk n e l e.count l.chunk with
      | .awaited => s.planFree (.engineComplete n e.id)
      | .bad k => s.failCmd n e.id k e.count 1
      | .again t => t.planFree (.engineComplete n e.id)
      | .data v =>
        s.takeChunk n e l vb false e.remoteLocs (if l.dgeom ≠ 0 then regenTile book l.dfmt l.dgeom v else v) l.chunk l.chunk

/-! Fabric commands (19 R346, R347). -/

/-- PKG. -/
def EngCmd.pkg (e : EngCmd) : Nat := bits e.vc.toNat 53 11

/-- An fput: its packets leave in order as their lines are there; it ends when every packet is acknowledged. -/
def State.putChunk (s : State) (n : Nat) (e : EngCmd) (l : EngLayout) : State :=
  let off := 3840 * e.writes
  let stop (code : Nat) (s : State) : State :=
    if s.outstandingOf n e.id = 0 then s.failCmd n e.id code e.ackedBytes e.ackLeft
    else s.planFree (.engineComplete n e.id)
  if e.n ≤ off then
    (if s.outstandingOf n e.id = 0 then (s.updCmd n e.id fun e => { e with count := e.n }).finishCmd n e.id e.ackLeft else s)
  else
    let len := min 3840 (e.n - off)
    let tile := if l.sgeom = 0 || e.srcVault then 64 else tileBytes l.sfmt l.sgeom
    let first := off / tile
    let tiles := (List.range ((off + len + tile - 1) / tile - first)).map fun i => (first + i) * tile
    let cs := tiles.map fun a => s.localChunk n e l a tile
    let wait := cs.any fun c => match c with | .awaited => true | _ => false
    let bad := cs.findSome? fun c => match c with | .bad k => some k | _ => none
    let again := cs.findSome? fun c => match c with | .again t => some t | _ => none
    match bad, again with
    | some k, _ => if wait then s.planFree (.engineComplete n e.id) else stop k s
    | _, some t => t.planFree (.engineComplete n e.id)
    | none, none =>
      if wait then s.planFree (.engineComplete n e.id)
      else
        let data := numBytes len (e.tileNum (off / 64) (len / 64))
        let p : Packet := { s.packet 1 e.pkg with fmt := l.sfmt, addr := e.vb.toNat + off, count := len, data := data }
        ((s.sendTagged n e.id p).updCmd n e.id fun e => { e with writes := e.writes + 1 }).planFree (.engineComplete n e.id)

/-- An fget: the data that has come without a gap is written before the next request leaves, and it ends with its last write; an error
thus finds in COUNT what has performed (19 R346). -/
def State.getChunk (s : State) (n : Nat) (e : EngCmd) (l : EngLayout) : State :=
  let off := 3840 * e.writes
  let len := if l.dgeom = 0 then 64 else tileBytes l.dfmt l.dgeom
  let vb := e.vb.toNat + e.count
  match e.chunk with
  | some (v, w) => s.writeChunk n e l vb e.dstVault [0] v w len len
  | none =>
    if e.count < e.n && e.count + len ≤ e.ackedBytes then
      let all := ((List.range ((e.n + 3839) / 3840)).flatMap fun k => numBytes (min 3840 (e.n - 3840 * k)) (e.unitData k))
      let v := bytesNum ((all.drop e.count).take len)
      let v := if l.dgeom ≠ 0 && !e.dstVault then regenTile (s.owner n e.id).codebook l.dfmt l.dgeom v else v
      s.takeChunk n e l vb e.dstVault [0] v len len
    else if off < e.n then
      let len := min 3840 (e.n - off)
      let p : Packet := { s.packet 2 e.pkg with addr := e.va.toNat + off, count := len }
      ((s.sendTagged n e.id p).updCmd n e.id fun e => { e with writes := e.writes + 1 }).planFree (.engineComplete n e.id)
    else if e.n ≤ e.count then s.endWhenDone n e.id e.ackLeft
    else s

/-- The code of an fatom's op with the size, as FABRIC_ATOMIC carries it. -/
def State.atomSend (s : State) (n : Nat) (e : EngCmd) : State :=
  if e.writes ≠ 0 then s
  else if e.reads = 0 && s.ownerGoes n e.id then s.planFree (.engineComplete n e.id)
  else
    let size := if bit e.cf 3 then 8 else 4
    let word := if e.reads = 0 then Store.num (s.owner n e.id).vault (e.stw + 8) 8 else e.unitData 0
    let p : Packet := { s.packet 4 e.pkg with
      op := e.cf % 8, addr := e.va.toNat, count := size, data := numBytes size e.vb.toNat ++ numBytes size word }
    (s.sendTagged n e.id p).updCmd n e.id fun e => { e with writes := 1 }

/-! mcred (19 R348, 02 R38). -/

/-- GROUP. -/
def EngCmd.grp (e : EngCmd) : Nat := bits e.vc.toNat 53 8

/-- The operation that a command has contributed to. -/
def State.opOf (s : State) (n id : Nat) : Option GroupOp := s.fabric.ops.find? fun o => o.own = some (n, id)

/-- Every mcred command of a group that waits, on any core or in any saved context. -/
def State.mcreds (s : State) (g : Nat) : List EngCmd :=
  let all := (s.cores.flatMap fun p => p.2.engines) ++ s.saved.flatMap fun x => x.ctx.engines
  all.filter fun e => e.op = 0x0C && e.grp = g

/-- Lines of the source of a contribution. -/
def EngCmd.lines (e : EngCmd) (l : EngLayout) : Nat :=
  e.n / (tileEdge l.sgeom * tileEdge l.sgeom) * l.srcLines

/-- A command's tiles, all verified, come in after the expiries of their chip cycle (02 R39) and join the operation of the
group's present SEQ as the own input; operations of one group run in the order of their issue (19 R348). An own input that fails twice
ends the operation at this Spindle with ASSAY_LINK, up and down the tree (02 R38). -/
def State.contribute (s : State) (n : Nat) (e : EngCmd) (l : EngLayout) : State :=
  let g := e.grp
  let s := s.expireOps fun o => o.group = g
  let ent := s.fabric.entry g
  let again := s.planFree (.engineComplete n e.id)
  let tb := tileBytes l.sfmt l.sgeom
  let own (s : State) : State := (s.openOp g ent.seq).updOp g ent.seq fun o => { o with own := some (n, e.id), geom := l.sgeom }
  let bad := (List.range (e.n / (tileEdge l.sgeom * tileEdge l.sgeom))).findSome? fun t =>
    match s.localChunk n e l (t * tb) tb with
    | .data _ => none
    | x => some x
  let waits : Bool := (s.mcreds g).any (fun x => x.id < e.id) || s.fabric.ops.any (fun o => o.group = g && o.own.isSome)
  match bad with
  | some .awaited => again
  | some (.again t) => t.planFree (.engineComplete n e.id)
  | some (.bad k) =>
    if k ≠ 0x19 then s.failCmd n e.id k 0 1
    else if !ent.valid then s.failCmd n e.id 3 0 1
    else if waits then again
    else
      let s := own s
      match s.fabric.op? g ent.seq with
      | some o => s.failOp o 4 o.ranks ent.tree
      | none => s
  | _ =>
    if !ent.valid then s.failCmd n e.id 3 0 1
    else if waits then again
    else
      let data := numBytes (64 * e.lines l) (e.tileNum 0 (e.lines l))
      let x : GroupInput := ⟨24, ent.rank, 0, l.sfmt, e.n, [(0, data)]⟩
      let s := (own s).updOp g ent.seq fun o => { o with inputs := o.inputs ++ [x] }
      ((s.retime).checkInputs g ent.seq).advanceOp g ent.seq

/-- The result of the operation is written tile by tile in the destination's format, and the command ends (02 R38, R40). -/
def State.writeResult (s : State) (n : Nat) (e : EngCmd) (l : EngLayout) (o : GroupOp) (codes : List Nat) : State :=
  let el := tileEdge l.dgeom * tileEdge l.dgeom
  let tb := tileBytes l.dfmt l.dgeom
  let va := e.vb.toNat + e.count / el * tb
  let t :=
    if e.n ≤ e.count then s.endWhenDone n e.id 1
    else
      match e.chunk with
      | some (v, w) => s.writeChunk n e l va false [0] v w tb el
      | none =>
        let mine := ((codes.drop e.count).take el).map fun x => fromAcc (accFmt l.sfmt) l.dfmt x
        s.takeChunk n e l va false [0] (bytesNum (codesTile l.dfmt l.dgeom mine)) tb el
  if ((t.owner n e.id).eng? e.id).isNone then t.endOp o else t

/-! The event. -/

/-- The layout of a command's sides, once known, or the fault. -/
def State.ackLayout (s : State) (n : Nat) (e : EngCmd) : Except UnitErr EngLayout :=
  match e.layout with
  | some l => .ok l
  | none =>
    match s.engLayout n (s.owner n e.id) e with
    | .error x => .error x
    | .ok l => if { e with layout := some l }.aligned l then .ok l else .error (0x1B, e.va.toNat)

/-- The status word's first write, at issue+2, that has not performed yet, in flight or in a flight record (19 R333). -/
def EngCmd.statusItem (e : EngCmd) (i : Item) : Bool := i.issued = e.issued && i.src = srcE && i.act.performs

/-- The status word's first write has not performed yet. -/
def Core.statusOpen (c : Core) (e : EngCmd) : Bool :=
  c.items.any e.statusItem || c.record.any fun r => r.items.any e.statusItem

/-- The first write of the status word of a command whose core has stopped before it performed: the operation runs on, and the write
goes into the context where the program reads it (06 R105, 19 R333). -/
def State.statusNow (s : State) (n : Nat) (e : EngCmd) : State :=
  let keep (is : List Item) : List Item := is.filter fun i => !e.statusItem i
  let w : Lateral := ⟨n, (s.owner n e.id).launch, e.stw, numBytes 8 0, true, none⟩
  let s := { s with lateral := s.lateral ++ [w] }
  s.updOwner n e.id fun c =>
    { c with items := keep c.items, record := c.record.map fun r => { r with items := keep r.items } }

/-- A command whose core has stopped before its start cycle starts (06 R105); an mcred whose group entry is not valid ends (19 R348). -/
def State.startStopped (s : State) (n : Nat) (e : EngCmd) : State :=
  let absent : Bool := e.op = 0x0C && !(s.fabric.entry e.grp).valid
  (s.updCmd n e.id fun x => { x with started := true, fault := if absent then some (3, 0) else x.fault }).planFree
    (.engineComplete n e.id)

/-- The global sides of a command whose pages the core's TLB lacks: the first is asked for (03 R58). -/
def State.sideProbe (s : State) (n : Nat) (e : EngCmd) : Option State :=
  let sides := (if e.srcVault || e.op = 0x0A then [] else [e.va.toNat]) ++ (if e.dstVault || e.op = 9 then [] else [e.vb.toNat])
  sides.findSome? fun va => match s.ackLook n e.id va [0, 1, 2] false with
    | .wait t => some t
    | _ => none

/-- What a started command does next, by its form (19 R340, R345 to R348). -/
def State.ackMove (s : State) (n : Nat) (e : EngCmd) : State :=
  match s.opOf n e.id, e.layout with
  | some o, some l =>
    match o.result with
    | some codes => s.writeResult n e l o codes
    | none => s
  | some _, none => s
  | none, _ =>
    match s.ackLayout n e with
    | .error x => s.failCmd n e.id x.1 0 e.ackLeft
    | .ok l =>
      match (if e.layout.isNone then s.sideProbe n e else none) with
      | some t => t
      | none =>
        let e := { e with layout := some l }
        let s := s.updCmd n e.id fun x => { x with layout := some l }
        match e.op with
        | 6 => if e.cf % 2 = 0 then s.pullChunk n e l else s.pushChunk n e l
        | 7 => s.pullChunk n e l
        | 8 => s.pushChunk n e l
        | 9 => s.putChunk n e l
        | 0x0A => s.getChunk n e l
        | _ => s.contribute n e l

/-- A command that has failed ends, and with it the operation of its group that it belongs to (02 R38). -/
def State.ackFailed (s : State) (n : Nat) (e : EngCmd) : State :=
  let s' := s.endFailed n e.id
  match s.opOf n e.id, ((s'.owner n e.id).eng? e.id).isNone with
  | some o, true => s'.endOp o
  | _, _ => s'

/-- ENGINE_COMPLETE (19 R333): an acknowledged command that has started, and that no REL.sys holds, goes on with its remote
effects at free moments until it ends. Of a core that has stopped it runs on with what is still to be read and written (06 R105). -/
def execEngineComplete (n id : Nat) (s : State) : Out :=
  match (s.owner n id).eng? id with
  | none => .next s
  | some e =>
    let stopped := !s.ownerGoes n id
    if !ackOp e.op then .next s
    else if (s.owner n id).statusOpen e then
      .next ((if stopped then s.statusNow n e else s).planFree (.engineComplete n id))
    else if !e.started then .next (if stopped then s.startStopped n e else s)
    else if e.failed.isSome then .next (s.ackFailed n e)
    else if e.op = 0x0C && e.fault.isSome && e.layout.isNone then .next (s.failCmd n id ((e.fault.map fun f => f.1).getD 0) 0 1)
    else if e.held then .next s
    else .next (if e.op = 0x0B then s.atomSend n e else s.ackMove n e)

end Sys2Proof.Machine
end

