-- ==== Sys2Proof/Machine/Migrate.lean ====
section
/-! DEFINITION. Page heat, shootdowns and page migration (03 R58 to R67). -/

namespace Sys2Proof.Machine

/-! Heat (03 R62 to R64). -/

/-- The writable bits of HEAT_CFG. -/
def heatCfgMask : Word := 0x1FF00FFFF

/-- DECAY in chip cycles. -/
def Xlate.decay (x : Xlate) : Nat := bits x.heatCfg.toNat 24 8 * Config.msec

/-- HEAT_CFG (03 R64): a change of DECAY begins a new period. -/
def execHeatCfgWrite (val : Word) (s : State) : Out :=
  let old := s.xlate.decay
  let chip := s.chip
  let s := { s with xlate := { s.xlate with heatCfg := val &&& heatCfgMask } }
  let new := s.xlate.decay
  if new = old then .next s
  else
    let s := { s with xlate := { s.xlate with decayAt := chip } }
    .next (if new = 0 then s else s.plan (chip + new) .heatDecay)

/-- HEAT_DECAY (03 R64): every counter is halved at the end of a period, and one that falls below the threshold may post
again. -/
def execHeatDecay (s : State) : Out :=
  let x := s.xlate
  let chip := s.chip
  if x.decay = 0 || chip < x.decayAt + x.decay then .next s
  else
    let halve (h : HeatEntry) : HeatEntry :=
      let k := h.count / 2
      { h with count := k, notified := h.notified && x.heatThr ≤ k }
    .next ({ s with xlate := { x with heat := x.heat.map halve, decayAt := chip } }.plan (chip + x.decay) .heatDecay)

/-- PAGE_HEAT (05 R87, 03 R63): the tellers drain the heat ring, and under FWD copy its entries to the host. -/
def execPageHeat (s : State) : Out :=
  let es := s.xlate.heatRing
  let fwd := s.xlate.heatCfg.getLsbD 32
  let s := { s with xlate := { s.xlate with heatRing := [] } }
  .next (if fwd then es.foldl State.notifyRaw s else s)

/-! Shootdowns (03 R60, R61). -/

/-- What a shootdown covers: a context, or all, and a range of addresses. -/
structure Cover where
  ctx : Option Nat
  lo : Nat
  hi : Nat
  deriving DecidableEq, Repr

/-- A page of a context is covered. -/
def Cover.hits (k : Cover) (ctx base size : Nat) : Bool :=
  (k.ctx.isNone || k.ctx = some ctx) && base < k.hi && k.lo < base + 2 ^ size

/-- What TLBINV_VA and TLBINV_CTL describe (03 R60). -/
def coverOf (va ctl : Nat) : Cover :=
  let ctx := some (ctl % 4096)
  match bits ctl 14 2 with
  | 0 => ⟨ctx, va, va + 4096⟩
  | 1 => ⟨ctx, va, va + 4096 * (bits ctl 16 32 + 1)⟩
  | 2 => ⟨ctx, 0, 2 ^ 57⟩
  | _ => ⟨none, 0, 2 ^ 57⟩

/-- The covered entries leave every core TLB, die TLB and the walker cache, and the walks of covered pages are discarded and start
again (03 R61). -/
def State.dropTlb (s : State) (k : Cover) : State :=
  let hit (e : TlbEntry) : Bool := k.hits e.ctx (e.vpage * 2 ^ e.size) e.size
  let again (ctx : Nat) (a : GlobalAcc) : GlobalAcc :=
    match a.leaf with
    | some x => if a.pa.isNone && k.hits ctx (a.va / 2 ^ x.2 * 2 ^ x.2) x.2 then { a with leaf := none, dieHit := false } else a
    | none => a
  let drop (c : Core) : Core :=
    { c with tlb := c.tlb.filter (fun e => !hit e), globals := c.globals.map (again (s.rootIn c % 4096)) }
  let table (w : WalkEntry) : Bool := k.hits w.ctx (w.prefix_ * 2 ^ (12 + 9 * w.level)) (12 + 9 * w.level)
  { s with
    cores := s.cores.map (fun p => (p.1, drop p.2)),
    xlate := { s.xlate with
      dieTlb := s.xlate.dieTlb.filter (fun p => !hit p.2), walkCache := s.xlate.walkCache.filter fun w => !table w } }

/-- A context's accesses by entries of covered pages that have not performed. Writes that stand parked, or that wait to park or
for the end of a write-block, count only if parked says so. -/
def State.openIn (s : State) (k : Cover) (parked : Bool) (c : Core) : List Nat :=
  let ctx := s.rootIn c % 4096
  let blocked (a : GlobalAcc) : Bool :=
    a.parked.isSome || (a.held && a.wb) || c.holds.any fun h => h.id = a.id && (h.cause = 6 || h.cause = 8)
  (c.globals.filter fun a =>
    a.pa.isSome && !a.performed && (parked || !blocked a) && k.hits ctx (a.va / 2 ^ a.psize * 2 ^ a.psize) a.psize).map fun a => a.id

/-- The accesses of the cores and of saved contexts by entries of covered pages that have not performed. -/
def State.openAll (s : State) (k : Cover) (parked : Bool) : List Nat :=
  (s.cores.flatMap fun p => s.openIn k parked p.2) ++ s.saved.flatMap fun x => s.openIn k parked x.ctx

/-- Accesses translated by an entry that a drop took are still to perform (03 R61): those of the cores and of saved contexts, and the
parked writes of acknowledged commands. -/
def State.inFlight (s : State) (k : Cover) (parked : Bool) (drop : Nat × List Nat) : Bool :=
  (s.openAll k parked).any drop.2.contains
    || (parked && s.xlate.parked.any fun p => p.engine && p.at_ ≤ drop.1 &&
      (s.xlate.migs.find? fun m => m.slot = p.slot).any fun m => k.hits m.ctx m.va m.size)

/-- TLBINV_DB (03 R60, R61): the shootdown joins the queue of 16, or is ignored. -/
def execTlbinvDb (s : State) : Out :=
  let va := s.xlate.tlbinvVa.toNat
  let ctl := s.xlate.tlbinvCtl.toNat
  let bad := va % 4096 ≠ 0 || 2 ^ 57 ≤ va || 2 ^ 48 ≤ ctl || bits ctl 12 2 ≠ 0
  if bad || 16 ≤ s.xlate.shootdowns.length then .next s
  else
    let first := s.xlate.shootdowns.isEmpty
    let s := { s with xlate := { s.xlate with
      issued := (s.xlate.issued + 1) % 2 ^ 64, shootdowns := s.xlate.shootdowns ++ [(va, ctl)] } }
    .next (if first then s.post .shootdownComplete else s)

/-- The drop of a shootdown: its chip cycle, and the accesses by the entries that it takes (03 R61). -/
def State.dropOf (s : State) (k : Cover) (parked : Bool) : Nat × List Nat := (s.chip, s.openAll k parked)

/-- SHOOTDOWN_COMPLETE (03 R61): the entries are dropped once, and the shootdown completes once the accesses that they translated have
performed; the next of the queue follows. -/
def execShootdownComplete (s : State) : Out :=
  match s.xlate.shootdowns with
  | [] => .next s
  | (va, ctl) :: rest =>
    let k := coverOf va ctl
    let d := s.xlate.dropped.getD (s.dropOf k true)
    let s := if s.xlate.dropped.isNone then s.dropTlb k else s
    if s.inFlight k true d then .next ({ s with xlate := { s.xlate with dropped := some d } }.planFree .shootdownComplete)
    else
      let s := { s with xlate := { s.xlate with
        shootdowns := rest, dropped := none, doneCnt := (s.xlate.doneCnt + 1) % 2 ^ 64 } }
      .next (if rest.isEmpty then s else s.planWithin 12500 .shootdownComplete)

/-! Migration (03 R65 to R67). -/

/-- MIGSTAT of a slot. -/
def State.setMigstat (s : State) (m : Nat) (f : Word → Word) : State :=
  { s with xlate := { s.xlate with migstat := s.xlate.migstat.mapIdx fun i w => if i = m then f w else w } }

/-- STATE and ERR of a MIGSTAT word, with PARKED kept. -/
def migWord (w : Word) (state err : Nat) : Word := BitVec.ofNat 64 (w.toNat / 2 ^ 48 * 2 ^ 48 + err * 2 ^ 4 + state)

/-- The root of a context that a migration may use (03 R65): FABROOT, or the one root of the live queues that carry it. -/
def State.migRoot (s : State) (ctx : Nat) : Option Nat :=
  if ctx = 0 then some s.xlate.fabroot
  else
    match ((s.queues.filter fun p => p.2.live && p.2.qroot.toNat % 4096 = ctx).map fun p => p.2.qroot.toNat).eraseDups with
    | [r] => some r
    | _ => none

/-- The migration that the doorbell registers describe, unless it is to be rejected (03 R65). -/
def State.migRequest (s : State) : Option Migration :=
  let va := s.xlate.migVa.toNat
  let ctl := s.xlate.migCtl.toNat
  let pa := s.xlate.migPa.toNat
  let loc := bits ctl 14 2
  let ctx := ctl % 4096
  if va % 4096 ≠ 0 || 2 ^ 57 ≤ va || 2 ^ 18 ≤ ctl || bits ctl 12 2 ≠ 0 || pa % 4096 ≠ 0 || 2 ^ 52 ≤ pa || loc = 3 then none
  else
    match s.migRoot ctx with
    | none => none
    | some root =>
      match s.mem.walk root va with
      | .error _ => none
      | .ok l =>
        let base := va / 2 ^ l.size * 2 ^ l.size
        let clash := s.xlate.migs.any fun m =>
          m.pteAddr = l.addr || (m.ctx = ctx && base < m.va + 2 ^ m.size && m.va < base + 2 ^ l.size)
        if pteWb l.pte || clash || pa % 2 ^ l.size ≠ 0 || !paInSpace loc pa then none
        else some ⟨bits ctl 16 2, ctx, root, base, l.size, l.addr, l.pte, ptePa l.pte, pteLoc l.pte, pa, loc, 1, 0,
          pteHeat l.pte, false, none⟩

/-- A leaf entry with another place and write-block bit. -/
def pteWith (pte pa loc : Nat) (wb : Bool) : Nat :=
  let keep := pte - ptePa pte - pteLoc pte * 2 ^ 7 - b2n (pteWb pte) * 2 ^ 5
  keep + pa + loc * 2 ^ 7 + b2n wb * 2 ^ 5

/-- The Spindle writes a migration's entry. -/
def State.writePte (s : State) (m : Migration) (pa loc : Nat) (wb : Bool) : State :=
  s.writeMem 0 m.pteAddr (numBytes 8 (pteWith m.pte pa loc wb))

/-- Changes a migration. -/
def State.updMig (s : State) (slot : Nat) (f : Migration → Migration) : State :=
  { s with xlate := { s.xlate with migs := s.xlate.migs.map fun m => if m.slot = slot then f m else m } }

/-- The migration in a slot. -/
def State.mig? (s : State) (slot : Nat) : Option Migration := s.xlate.migs.find? fun m => m.slot = slot

/-- The pages of a migration. -/
def Migration.cover (m : Migration) : Cover := ⟨some m.ctx, m.va, m.va + 2 ^ m.size⟩

/-- MIG_DB (03 R65, R67 step 1). -/
def execMigDb (s : State) : Out :=
  let slot := bits s.xlate.migCtl.toNat 16 2
  if (s.mig? slot).isSome then
    .next (s.setMigstat slot fun w => migWord w (w.toNat % 4) 1)
  else
    match s.migRequest with
    | none => .next (s.setMigstat slot fun _ => 0x13#64)
    | some m =>
      let s := s.setMigstat slot fun _ => 1
      let s := { s with xlate := { s.xlate with migs := s.xlate.migs ++ [m] } }
      .next ((s.writePte m m.oldPa m.oldLoc true).post (.migrationCopy slot))

/-- The bytes of a page of one space move to another. -/
def Mem.copyPage (m : Mem) (srcLoc src dstLoc dst n : Nat) : Mem :=
  let cells := Store.blit (m.space dstLoc) (m.space srcLoc) src dst n
  let keep (ls : List Nat) : List Nat := ls.filter fun l => !(dst ≤ 64 * l && 64 * l < dst + n)
  if dstLoc = 0 then { m with hbm := cells, hbmPoison := keep m.hbmPoison }.leaveL2 dst n
  else if dstLoc = 1 then { m with host := cells, hostPoison := keep m.hostPoison }
  else { m with tier := cells, tierPoison := keep m.tierPoison }

/-- A range has a poisoned line. -/
def Mem.badRange (m : Mem) (loc a n : Nat) : Bool := (m.poison loc).any fun l => a ≤ 64 * l && 64 * l < a + n

/-- Every whole tile of a page verifies (03 R67). -/
def Mem.pageOk (m : Mem) (loc a size fmt geom : Nat) : Bool :=
  let tb := tileBytes fmt geom
  geom = 0 || (List.range (2 ^ size / tb)).all fun t => spindleVerifies fmt geom (Store.num (m.space loc) (a + t * tb) tb)

/-- What fails the copy of a migration before its destination is written (03 R65): a host link that has failed since the copy began fails
it too, whether or not it has trained again (03 R67). -/
def State.copyError (s : State) (m : Migration) : Nat :=
  if m.failed ≠ 0 then m.failed
  else if (m.oldLoc = 1 || m.newLoc = 1) && !s.power.hostLink then 5
  else if s.mem.badRange m.oldLoc m.oldPa (2 ^ m.size) then 2
  else if !s.mem.pageOk m.oldLoc m.oldPa m.size (pteFmt m.pte) (pteGeom m.pte) then 3
  else 0

/-- The shootdown of a migration's page has completed: the entries have been dropped and no access by them is left; writes that
stand parked, or frozen for a place, do not hold it up (03 R61, R67). -/
def State.shotDown (s : State) (m : Migration) : Bool × State :=
  let d := m.dropped.getD (s.dropOf m.cover false)
  let s := if m.dropped.isNone then (s.dropTlb m.cover).updMig m.slot fun m => { m with dropped := some d } else s
  (!s.inFlight m.cover false d, s)

/-- MIGRATION_COPY (03 R67 steps 1 and 2): after the shootdown the page is copied; a tile that fails is requested once more, and
whether a destination takes the writes is free (log 35). -/
def execMigrationCopy (slot : Nat) (s : State) : Out :=
  match s.mig? slot with
  | none => .next s
  | some m =>
    if m.step = 1 then
      let r := s.shotDown m
      let s := if r.1 then r.2.updMig slot fun m => { m with step := 2 } else r.2
      .next (s.planFree (.migrationCopy slot))
    else
      let err := s.copyError m
      let n := 2 ^ m.size
      if let some t := s.snoopRanges [(m.oldLoc, m.oldPa, n), (m.newLoc, m.newPa, n)] then .next (t.planFree (.migrationCopy slot))
      else if err = 3 && !m.retried then
        .next ((s.updMig slot fun m => { m with retried := true }).planFree (.migrationCopy slot))
      else
      let (d, s) := s.drawBelow 2
      let err := if err = 0 && d = 1 then 4 else err
      if err ≠ 0 then
        .next ((s.updMig slot fun m => { m with failed := err, step := 4 }).planFree (.migrationReplay slot))
      else .next ({ s with mem := s.mem.copyPage m.oldLoc m.oldPa m.newLoc m.newPa (2 ^ m.size) }.planFree (.migrationRepoint slot))

/-- The address-table entries for bytes of a migrated page name the same bytes at their new place (11 R203). -/
def Core.movePage (m : Migration) (c : Core) : Core :=
  let old := placeKey m.oldLoc m.oldPa
  let move (e : AddrEntry) : AddrEntry :=
    match e.pa with
    | some p => if old ≤ p && p < old + 2 ^ m.size then { e with pa := some (placeKey m.newLoc m.newPa + (p - old)) } else e
    | none => e
  { c with addrTab := c.addrTab.map move }

/-- MIGRATION_REPOINT (03 R67 step 3). -/
def execMigrationRepoint (slot : Nat) (s : State) : Out :=
  match s.mig? slot with
  | none => .next s
  | some m =>
    let s : State := { s with cores := s.cores.map fun p => (p.1, p.2.movePage m) }
    .next (((s.writePte m m.newPa m.newLoc true).updMig slot fun m => { m with step := 3, dropped := none }).planWithin 12500
      (.migrationReplay slot))

/-- Where a migration's parked writes go. -/
def Migration.target (m : Migration) : Nat × Nat := if m.failed = 0 then (m.newLoc, m.newPa) else (m.oldLoc, m.oldPa)

/-- Two parked writes touch one line. -/
def sameLine (a b : Parked) : Bool :=
  a.off / 64 < (b.off + b.len + 63) / 64 && b.off / 64 < (a.off + a.len + 63) / 64

/-- The parked writes of a slot that may replay next: the first of each die, unless one to its line parked before it on another
die (03 R67 step 4). -/
def nextReplays (ps : List Parked) : List Parked :=
  let heads := (List.range 4).filterMap fun d => ps.find? fun p => p.die = d
  heads.filter fun h => !ps.any fun p =>
    p.die ≠ h.die && sameLine p h && (p.at_ < h.at_ || (p.at_ = h.at_ && p.die < h.die))

/-- Removes one parked write. -/
def dropParked (p : Parked) : List Parked → List Parked
  | [] => []
  | x :: r => if x = p then r else x :: dropParked p r

/-- One parked write performs at its physical copy, and its issuer's count falls (03 R66, R67). -/
def State.replayOne (s : State) (m : Migration) (p : Parked) : State :=
  let (loc, base) := m.target
  let s := { s with xlate := { s.xlate with parked := dropParked p s.xlate.parked } }
  let who := if p.core < 256 then (s.owner p.core p.acc).launch else none
  let s := s.writeFor who loc (base + p.off) (s.mem.storeBytes loc (base + p.off) p.len p.kind)
  let key := placeKey loc (base + p.off)
  if p.engine then (if p.core < 256 then s.updOwner p.core p.acc fun c => c.ownWrite s.nextId s.chip key p.len else s)
  else (s.ackDone p.core p.acc).updOwner p.core p.acc fun c => (c.dropGlobal p.acc).ownWrite p.acc s.chip key p.len

/-- Accesses frozen for room in a write-hold buffer, or for the end of a write-block, take their course again under the present
entry, and a command that waited for room goes on (03 R66). -/
def State.retryHeld (s : State) (cause : Nat) : State :=
  let waits := (s.cores.flatMap fun p => (p.2.holds.filter fun h => h.cause = cause).map fun h => (p.1, h.id))
    ++ s.saved.flatMap fun x => (x.ctx.holds.filter fun h => h.cause = cause).map fun h => (x.core, h.id)
  waits.foldl (fun s w =>
    let s := s.updOwner w.1 w.2 fun c => { c with holds := c.holds.filter fun h => !(h.cause = cause && h.id = w.2) }
    if ((s.owner w.1 w.2).eng? w.2).isSome then s.plan (s.chip + 1) (.engineComplete w.1 w.2) else s.replaceGlobal w.1 w.2) s

/-- A migration's next parked write replays, at a free choice among those that may, once the host has given up its lines (03 R48);
false when none is left. -/
def State.replayNext (s : State) (m : Migration) : Bool × State :=
  match nextReplays (s.xlate.parked.filter fun p => p.slot = m.slot) with
  | [] => (false, s)
  | h :: r =>
    let (d, s) := s.drawBelow (r.length + 1)
    let p := (h :: r).getD d h
    (true, match s.snoopRanges [(m.target.1, m.target.2 + p.off, p.len)] with
      | some t => t
      | none => (s.replayOne m p).retryHeld 6)

/-- MIGRATION_REPLAY (03 R67 step 4). -/
def execMigrationReplay (slot : Nat) (s : State) : Out :=
  match s.mig? slot with
  | none => .next s
  | some m =>
    let r := if m.step = 3 then s.shotDown m else (true, s)
    let s := r.2
    if !r.1 then .next (s.planFree (.migrationReplay slot))
    else
      let s := s.updMig slot fun m => { m with step := 4 }
      let t := s.replayNext m
      .next (t.2.planFree (if t.1 then .migrationReplay slot else .migrationFinish slot))

/-- The page's heat counter starts again (03 R67 step 5). -/
def State.coolPage (s : State) (m : Migration) : State :=
  let zero (h : HeatEntry) : HeatEntry :=
    if h.ctx = m.ctx && h.base = m.va && h.size = m.size then { h with count := 0, notified := false, loc := m.newLoc } else h
  { s with xlate := { s.xlate with heat := s.xlate.heat.map zero } }

/-- MIGRATION_FINISH (03 R67 step 5): WB goes to 0 with a shootdown, what parked meanwhile replays, and the slot ends. -/
def execMigrationFinish (slot : Nat) (s : State) : Out :=
  match s.mig? slot with
  | none => .next s
  | some m =>
    let (loc, pa) := m.target
    if m.step ≠ 5 then
      .next (((s.writePte m pa loc false).updMig slot fun m => { m with step := 5, dropped := none }).planWithin 12500 (.migrationFinish slot))
    else
      let r := s.shotDown m
      let s := r.2
      if !r.1 then .next (s.planFree (.migrationFinish slot))
      else
        let t := s.replayNext m
        let s := t.2
        if t.1 then .next (s.planFree (.migrationFinish slot))
        else
          let s := if m.failed = 0 then s.coolPage m else s
          let s := s.setMigstat slot fun w => migWord w (if m.failed = 0 then 2 else 3) m.failed
          let s := { s with xlate := { s.xlate with migs := s.xlate.migs.filter fun x => x.slot ≠ slot } }
          .next ((s.retryHeld 6).retryHeld 8)

end Sys2Proof.Machine
end

