-- ==== Sys2Proof/Machine/HostReg.lean ====
section
/-! DEFINITION. The host's accesses: registers (03 R45, 00 R9), HDM and back-invalidate (03 R47 to R50). -/

namespace Sys2Proof.Machine

/-! HDM (03 R47 to R49). -/

/-- Lines leave the host, and the accesses that waited for them alone go on (03 R48). -/
def State.releaseLines (s : State) (sel : Nat → Bool) : State :=
  let out := s.mem.snoops.filter fun h => sel h.line
  let left := s.mem.snoops.filter fun h => !sel h.line
  let s := { s with mem := { s.mem with hostLines := s.mem.hostLines.filter (fun l => !sel l), snoops := left } }
  let free := ((out.map fun h => (h.core, h.acc)).eraseDups).filter fun p => !left.any fun h => h.core = p.1 && h.acc = p.2
  (free.filter fun p => p.1 < noCore).foldl (fun s p =>
    match (s.owner p.1 p.2).global? p.2 with
    | some a => if a.opened || a.held then s.plan (s.chip + 1) (globalEvent p.1 a) else s
    | none => s.plan (s.chip + 1) (.engineComplete p.1 p.2)) s

/-- A byte lies in the enabled save area (06 R109). -/
def State.inSaveArea (s : State) (a len : Nat) : Bool :=
  let base := s.ctxsave.toNat / 2 ^ 29 * 2 ^ 29
  s.ctxsave.getLsbD 0 && a < base + 2 ^ 29 && base < a + len

/-- HDM_WRITE (03 R49): it performs at its home slice on this chip cycle; into the save area it is dropped (06 R109). -/
def execHdmWrite (pa : Nat) (data : List Byte) (s : State) : Out :=
  if 2 ^ 39 < pa + data.length then .fault (.outsideHdm pa)
  else if !s.power.hostLink then .next s
  else
    let s := if s.inSaveArea pa data.length then s else s.writeMem 0 pa data
    .next (s.emit (.hdmDone pa))

/-- HDM_READ (03 R49, 07 R124, 06 R109): the value last performed; the host may keep the lines (03 R48; log 14). -/
def execHdmRead (pa len : Nat) (s : State) : Out :=
  if 2 ^ 39 < pa + len then .fault (.outsideHdm pa)
  else if !s.power.hostLink then .next s
  else
    let r := s.mem.readNum 0 pa len
    let poison := !r.2.isEmpty || s.inSaveArea pa len
    let (d, s) := s.drawBelow 2
    let lines := (List.range (linesOf pa len)).map fun i => pa / 64 + i
    let keep := lines.filter fun l => d = 1 && !s.mem.hostLines.contains l
    let s := { s with mem := { s.mem with hostLines := s.mem.hostLines ++ keep } }
    .next (s.emit (.hdmData pa (numBytes len r.1) poison))

/-- BACK_INVALIDATE_ANSWER (03 R48): the host has given the line up. -/
def execBackInvalidateAnswer (line : Nat) (s : State) : Out :=
  if !s.power.hostLink then .next s else .next (s.releaseLines fun l => l = line)

/-- BACK_INVALIDATE_TIMEOUT (03 R48): no answer within 10 ms: BILINK, a host-link reset, and the access goes on with the
device's copy. -/
def execBackInvalidateTimeout (line : Nat) (s : State) : Out :=
  if !s.mem.snoops.any fun h => h.line = line && h.since + 10 * Config.msec ≤ s.chip then .next s
  else
    let s := { s with power := { s.power with bilink := true } }
    .next ((s.plan s.chip .hostLinkReset).releaseLines fun l => l = line)

/-- HOST_SNOOP (03 R50): host snoops of the Vephor always miss. -/
def execHostSnoop (s : State) : Out := .next (s.emit .snoopMiss)

/-! Registers (03 R45, 00 R9). -/

/-- The event of a write to a register that has a row of its own, by the offset in the identity page. -/
def idEvent (o : Nat) (v : Word) : List Instr :=
  let x := v.toNat
  match o with
  | 0x108 => [.nqcfgWrite v]
  | 0x118 => [.nqconsWrite v]
  | 0x148 =>
    match x % 16 with
    | 1 => [.fwctlStage v]
    | 2 => [.fwctlActivate v]
    | 3 => [.fwctlAbort v]
    | _ => []
  | 0x180 => [.ctxsaveWrite v]
  | 0x200 => [.relcfgWrite v]
  | 0x338 => [.trccfgWrite v]
  | 0x348 => [.trcconsWrite v]
  | 0x358 => [.sketchSeedWrite v]
  | 0x360 => if bit x 14 then [.skctlWrite v, .skctlClr] else [.skctlWrite v]
  | 0x368 => [.sketchQuery v]
  | 0x380 => if x % 4 = 1 then [.dumpStart v] else []
  | _ => []

/-- The event of a write of DBGCTL (08 R134): nothing with a reserved bit set or for a core that no launch holds. -/
def State.dbgEvent (s : State) (x : Nat) : List Instr :=
  let n := bits x 8 8
  let arg := bits x 16 32
  if 2 ^ 48 ≤ x || bits x 3 5 ≠ 0 || (s.core n).launch.isNone then []
  else
    match x % 8 with
    | 1 => [.dbgStop n]
    | 2 => [.dbgResume n]
    | 3 => [.dbgStep n (if arg = 0 then 1 else arg)]
    | 4 => [.dbgHold (arg % 65536)]
    | 5 => [.dbgRelease (arg % 65536)]
    | _ => []

/-- DBGCTL names core n (08 R134): CORE of DBGSTAT, and SCHED and PC of the core if it stands in a debug stop. -/
def State.nameCore (s : State) (n : Nat) : State :=
  let c := s.core n
  let core := (s.dbg.dbgstat &&& ~~~0xFF00#64) ||| BitVec.ofNat 64 (n % 256 * 256)
  let stat := if s.inDebug n then
      (core &&& 0xFFFF#64) ||| BitVec.ofNat 64 (c.schedcyc % 2 ^ 32 * 2 ^ 32 + c.pc % 2 ^ 16 * 2 ^ 16)
    else core
  { s with dbg := { s.dbg with dbgstat := stat, stoppedCore := n } }

/-- A field of W1C bits of which a 1 in any clears the whole (03 R64, 07 R132). -/
def clearField (x lo n old : Nat) : Nat := if bits x lo n ≠ 0 then 0 else old

/-- A write to a register of the identity page without a row of its own. -/
def State.idWrite (s : State) (o : Nat) (v : Word) : State :=
  let x := v.toNat
  match o with
  | 0x008 => if bit x 3 then { s with power := { s.power with bilink := false } } else s
  | 0x100 => { s with nq := s.nq.setBase v }
  | 0x140 => { s with fw := { s.fw with fwimg := v &&& 0xFFFFFF7FFFFFF000#64 } }
  | 0x148 => if 1 ≤ x % 16 && x % 16 ≤ 3 then s else { s with fw := { s.fw with err := 1 } }
  | 0x188 =>
    if 2 ^ 18 ≤ x || bits x 10 6 ≠ 0 then s
    else if bits x 16 2 = 1 then s.command (x % 1024) 3
    else if bits x 16 2 = 2 then s.command (x % 1024) 4
    else s
  | 0x210 => if x < 128 then { s with reliab := { s.reliab with cardThr := v } } else s
  | 0x218 =>
    let r := s.reliab
    { s with reliab := { r with
      ue := clearField x 48 16 r.ue, late := clearField x 32 16 r.late, ce := clearField x 0 32 r.ce } }
  | 0x220 => if bit x 63 then { s with reliab := { s.reliab with ueaddr := s.reliab.ueaddr &&& 0x7FFFFFFFFFFFFFFF#64 } } else s
  | 0x230 => if x < 65536 && bits x 3 5 = 0 then { s with reliab := { s.reliab with rhsel := v } } else s
  | 0x300 => if (s.dbgEvent x).isEmpty then s else s.nameCore (bits x 8 8)
  | 0x330 => { s with dbg := { s.dbg with trc := s.dbg.trc.setBase v } }
  | 0x378 => { s with dbg := { s.dbg with dumpVa := v } }
  | 0x380 => if x % 4 = 1 then s else { s with dbg := { s.dbg with dumpCtl := v &&& 0xFFFFFFFF07#64 } }
  | 0x390 =>
    if bits x 58 5 ≠ 0 || bits x 41 7 ≠ 0 || bits x 14 18 ≠ 0 || bits x 6 2 ≠ 0 then s
    else { s with dbg := { s.dbg with upsetCtl := v } }
  | 0x398 => { s with dbg := { s.dbg with upsetStat := s.dbg.upsetStat &&& ~~~(v &&& 15#64) } }
  | _ =>
    if 0x310 ≤ o && o < 0x330 && bits x 56 5 = 0 then
      { s with dbg := { s.dbg with bps := s.dbg.bps.mapIdx fun k b => if k = (o - 0x310) / 8 then v else b } }
    else s

/-- A write to the translation page (03 R60). -/
def State.xlateWrite (s : State) (o : Nat) (v : Word) : State :=
  let x := s.xlate
  match o with
  | 0x000 => { s with xlate := { x with fabroot := v.toNat % 2 ^ 52 } }
  | 0x008 => { s with xlate := { x with tlbinvVa := v } }
  | 0x010 => { s with xlate := { x with tlbinvCtl := v } }
  | 0x018 => s.plan s.chip .tlbinvDb
  | 0x030 => s.plan s.chip (.heatCfgWrite v)
  | 0x038 => { s with xlate := { x with
      drop := clearField v.toNat 48 16 x.drop, evict := clearField v.toNat 32 16 x.evict } }
  | 0x040 => { s with xlate := { x with migVa := v } }
  | 0x048 => { s with xlate := { x with migCtl := v } }
  | 0x050 => { s with xlate := { x with migPa := v } }
  | 0x058 => s.plan s.chip .migDb
  | _ => s

/-- A write to a queue page (04 R68 to R74): while the queue is live its configuration stands. -/
def State.queueWrite (s : State) (n o : Nat) (v : Word) : State :=
  let q := s.queue n
  let cfg (f : Queue → Queue) : State := if q.live then s else s.updQueue n f
  match o with
  | 0x000 => cfg fun q => { q with qbase := v }
  | 0x008 => cfg fun q => { q with qcfg := v }
  | 0x010 => cfg fun q => { q with qroot := v }
  | 0x018 => cfg fun q => { q with qrsv := v }
  | 0x020 =>
    if v = 1 then s.command n 1 else if v = 2 then s.command n 2 else s
  | 0x028 => s.plan s.chip (.qtailWrite n v)
  | 0x038 => s.updQueue n fun q =>
      { q with revoked := q.revoked && !v.getLsbD 13, tainted := q.tainted && !v.getLsbD 12 }
  | _ => s

/-- REGISTER_WRITE (03 R45, 00 R9): an access of another size or alignment is an unsupported request; a register with a row of
its own gets its event on this chip cycle. -/
def execRegisterWrite (off size : Nat) (val : Word) (s : State) : Out :=
  if !s.power.hostLink || !s.power.ready then .next s
  else if size ≠ 8 || off % 8 ≠ 0 then .next (s.emit .unsupportedRequest)
  else if off < 0x1000 then
    let evs := if off = 0x300 then s.dbgEvent val.toNat else idEvent off val
    .next (evs.foldl (fun s i => s.plan s.chip i) (s.idWrite off val))
  else if off < 0x2000 then .next (s.xlateWrite (off - 0x1000) val)
  else if 0x14000 ≤ off && off < 0x16000 then
    .next (s.plan s.chip (.groupEntryWrite ((off - 0x14000) / 32) (off % 32 / 8) val))
  else if 0x100000 ≤ off && off < 0x500000 then .next (s.queueWrite ((off - 0x100000) / 4096) (off % 4096) val)
  else .next s

end Sys2Proof.Machine
end

