-- ==== Sys2Proof/Machine/Reliab.lean ====
section
/-! DEFINITION. The rotating scan, escrow, array rows, ECC and the carder (07 R118 to R133, 06 R111, R112). -/

namespace Sys2Proof.Machine

/-! The rotating scan (07 R126 to R129, 06 R111). -/

/-- SCAN_NAME (07 R126): a rotation step names its logical cluster, which migrates when its cores are ready. On a die whose rotation
has stopped, the time of its next in-place scan has come (07 R129). -/
def execScanName (die : Nat) (s : State) : Out :=
  let d := s.scan die
  if d.stopped then .next (s.scanFree die)
  else if d.named.isSome || !s.power.ready || (s.spareOf die).isNone || s.chip < d.nextAt then .next s
  else
    match s.oldestOf die (s.homed die) with
    | some c =>
      let chip := s.chip
      let ivl := s.reliab.scanIvl
      .next ((s.updScan die fun d => { d.atNaming chip ivl with named := some c }).scanStart die)
    | none => .next s

/-- A launch's clusters after a scan of 17d + P that began at t has passed: it counts no longer if the launch last used it
before (07 R127). -/
def Launch.cleared (l : Launch) (p t : Nat) (using_ : Bool) : Launch :=
  if using_ then l else { l with prov := l.prov.filter fun x => !(x.1 = p && x.2 ≤ t) }

/-- A launch holds a core on physical cluster 17d + P. -/
def State.usesNow (s : State) (l : Launch) (p : Nat) : Bool :=
  l.phase.holds && l.pkt.cores.any fun n => (s.core n).launch = some l.id && s.physOf n = p

/-- Every launch whose escrow may now clear writes its record; one under RELEASE that has nothing more to wait for is
forgotten. -/
def State.settleAll (s : State) : State :=
  (s.launches.filter fun l => l.phase = .escrowed).foldl (fun s l => (s.settle l.id).forget l.id) s

/-- The launches whose provisional set holds a failed cluster are tainted and marked (07 R128). -/
def State.taintAll (s : State) (p logical : Nat) : State :=
  let hit := s.launches.filter fun l => s.usesNow l p || l.prov.any fun x => x.1 = p
  hit.foldl (fun s l =>
    let s := s.updLaunch l.id fun l => { l with taint := Nat.lor l.taint (2 ^ logical) }
    if l.escrow = 0 then s
    else if l.recorded then (if l.escrow = 2 then s.revoke l.id else s)
    else if l.phase = .escrowed then s.settle l.id else s) s

/-- The queues, of the first 48, whose records are tainted or revoked (05 R91). -/
def State.taintedQueues (s : State) : Nat :=
  (List.range 48).foldl (fun m q =>
    let x := s.queue q
    if x.tainted || x.revoked then m + 2 ^ q else m) 0

/-- A physical cluster is retired (07 R128, 01 R18): its die has no spare left and its rotation stops. One retired for its rows
taints no launch, and none waits any longer for its scan, which never comes (07 R131). A cluster that was named meanwhile moves no more,
and its cores go on from their scan windows (07 R129). -/
def State.retire (s : State) (die p logical : Nat) (taint : Bool) : State :=
  let key := 17 * die + p
  let s := { s with
    reliab := { s.reliab with retired := key :: s.reliab.retired },
    power := { s.power with nospare := Nat.lor s.power.nospare (2 ^ die) } }
  let s := (s.updScan die fun d => { d with stopped := true, scanning := none, named := none }).rewriteRecord
  let goes (c : Core) : Core := { c with holds := c.holds.filter fun h => h.cause ≠ 7 }
  let s := { s with cores := s.cores.map fun (p : Nat × Core) => if dieOf p.1 = die then (p.1, goes p.2) else p }
  let s :=
    if taint then s.taintAll key (16 * die + logical)
    else { s with launches := s.launches.map fun (l : Launch) => { l with prov := l.prov.filter fun x => x.1 ≠ key } }.settleAll
  let s := s.notifyHost 3 (die + logical * 4) s.taintedQueues
  let s := s.notifyHost 4 die 0
  (s.planNaming die).scanFree die

/-- Contexts of a core as they stand in a new physical cluster: what a save does not keep is gone (06 R107, R111). -/
def Core.moved (c : Core) : Core :=
  { c with
    holds := c.holds.filter fun h => h.cause ≠ 7, addrTab := [], recs := [], tlb := [], array := ArrayState.empty }

/-- The move of a cluster to the spare needs four shadow slots; the oldest saved contexts of the die whose slots of the save area
are free give way to it (06 R111). -/
def State.makeRoom (s : State) (die : Nat) : Option State :=
  let mayGo (x : SavedCtx) : Bool := !x.hbm && !x.restoring && dieOf x.core = die && !s.slotTaken x.core
  let need := 4 - s.shadowFree die
  let old := (sortBy (fun (a b : SavedCtx) => decide (a.savedAt ≤ b.savedAt)) (s.saved.filter mayGo)).foldl (fun xs x =>
    if need ≤ xs.length || xs.any fun y => y.core = x.core then xs else xs ++ [x]) []
  if need = 0 then some s
  else if !s.ctxsave.getLsbD 0 || old.length < need then none
  else
    let s := old.foldl (fun s x => s.saveSlot x.core x.ctx) s
    some { s with saved := s.saved.map fun x => if old.contains x then { x with hbm := true } else x }

/-- The rows of physical core m that wait are replaced by spares in ascending order, with their counters at 0; n is the logical core
it serves or last served (07 R131). DESIGN CHOICE (log 15): a notification of logical row 64, which its field cannot hold, shows row 0. -/
def State.retireRows (s : State) (m n : Nat) : State :=
  let rows := sortBy (fun (a b : Nat) => decide (a ≤ b)) ((s.reliab.pendingRows.filter fun p => p.1 = m).map fun p => p.2)
  if rows.isEmpty then s
  else
    let s := { s with reliab := { s.reliab with pendingRows := s.reliab.pendingRows.filter fun p => p.1 ≠ m } }
    (rows.foldl (fun s r =>
      let s := { s with reliab := { s.reliab with
        spares := s.reliab.spares ++ [(m, r)], rows := Store.write s.reliab.rows (128 * m + r) 0 } }
      s.notifyHost 5 (n + r % 64 * 2 ^ 8) 0) s).rewriteRecord

/-- SCAN_MIGRATION (06 R111, R112): the cluster named on a die starts its move once its four cores are ready and the spare has passed
its scan, and cuts over within 10,000 cycles; the cluster it left is then scanned, or retired for its rows. -/
def execScanMigration (die : Nat) (s : State) : Out :=
  let d := s.scan die
  match d.named, s.spareOf die with
  | some c, some spare =>
    let ns := clusterCores die c
    if !d.moving then
      if d.scanning.isSome || !(ns.all fun n => (s.core n).scanReady) then .next s
      else
        match s.makeRoom die with
        | none => .next (s.planFree (.scanMigration die))
        | some s =>
          let (x, s) := s.drawBelow 9999
          .next (((s.updScan die fun d => { d with moving := true }).busy ns).plan (s.chip + 1 + x) (.scanMigration die))
    else
      let p := s.bound die c
      let chip := s.chip
      let left := ns.map fun n => (s.physCore n, n)
      let ids := (ns.filterMap fun n => (s.core n).launch).eraseDups
      let s := ids.foldl State.touchProv s
      let s := { s with reliab := { s.reliab with bind := setAt s.reliab.bind (16 * die + c) spare } }.rewriteRecord
      let s := ids.foldl State.touchProv s
      let s := ns.foldl (fun s n => if (s.core n).launch.isSome then s.updCore n Core.moved else s) s
      let s := left.foldl (fun s x => s.retireRows x.1 x.2) s
      let s := s.updScan die fun d =>
        { d with named := none, moving := false, rot := (d.rot + 1) % 512, scanning := some p, startedAt := chip,
                 subject := c, inPlace := false }
      let s := s.plan chip .launchClaim
      if left.any fun x => s.reliab.badCores.contains x.1 then .next (s.retire die p c false)
      else .next ((s.planNaming die).plan (chip + 120 * Config.usec) (.scanResult die true))
  | _, _ => .next s

/-- A physical cluster passes the scan that began at its start (07 R127). -/
def State.passScan (s : State) (die p start : Nat) : State :=
  let key := 17 * die + p
  let s := { s with
    reliab := { s.reliab with passed := setAt s.reliab.passed key start },
    launches := s.launches.map fun (l : Launch) => l.cleared key start (s.usesNow l key) }
  s.settleAll

/-- SCAN_RESULT (07 R126 to R129): a passed cluster becomes the spare, so that a migration named meanwhile may begin, and escrow that
it held back clears; a failed one is retired, or leaves its logical cluster without a home if the die had no spare. -/
def execScanResult (die : Nat) (pass : Bool) (s : State) : Out :=
  let d := s.scan die
  match d.scanning with
  | none => .next s
  | some p =>
    let done := s.updScan die fun d => { d with scanning := none, inPlace := false }
    if pass then
      let s := (done.passScan die p d.startedAt).scanStart die
      .next (if d.inPlace then (s.scanFree die).plan s.chip .launchClaim else s)
    else if d.inPlace then
      let s := { done with reliab := { done.reliab with
        homeless := (16 * die + d.subject) :: done.reliab.homeless,
        retired := (17 * die + p) :: done.reliab.retired } }.rewriteRecord
      let s := s.taintAll (17 * die + p) (16 * die + d.subject)
      .next (((s.notifyHost 3 (die + d.subject * 4) s.taintedQueues).scanFree die).plan s.chip .launchClaim)
    else .next (done.retire die p d.subject true)

/-- SCAN_IN_PLACE (07 R129): on a die without a spare the free cluster whose turn it is is scanned where it stands. A scan that no
escrow waits for begins the interval to the next one. -/
def execScanInPlace (die cluster : Nat) (s : State) : Out :=
  if s.inPlaceNow die ≠ some (cluster % 16) then .next s
  else
    let c := cluster % 16
    let chip := s.chip
    let p := s.bound die c
    let needed := s.escrowNeeds (17 * die + p)
    let ivl := s.reliab.scanIvl
    let s := s.updScan die fun d =>
      { (if needed then d else d.atNaming chip ivl) with scanning := some p, startedAt := chip, subject := c, inPlace := true }
    let s := if needed then s else s.planNaming die
    .next ((s.busy (clusterCores die c)).plan (chip + 120 * Config.usec) (.scanResult die true))

/-! Array rows (07 R130, R131). -/

/-- ROW_RETIRE (07 R131): the command boundary of a core has come. -/
def execRowRetire (n : Nat) (s : State) : Out :=
  if (s.core n).launch.isSome then .next s else .next (s.retireRows (s.physCore n) n)

/-- The decay period of the row counters in chip cycles; 0 for none (07 R130, R132). -/
def Reliab.decayPeriod (r : Reliab) : Nat := bits r.relcfg.toNat 16 8 * 100 * Config.msec

/-- ROW_DECAY (07 R130): every counter is halved at the end of a period. -/
def execRowDecay (s : State) : Out :=
  let r := s.reliab
  if r.decayPeriod = 0 || r.decayAt ≠ s.chip then .next s
  else
    let half (c : Nat × BitVec 4) : Nat × BitVec 4 := (c.1, c.2 >>> 1)
    let rows := (r.rows.map half).filter fun c => c.2 ≠ 0
    let at_ := s.chip + r.decayPeriod
    .next ({ s with reliab := { r with rows := rows, decayAt := at_ } }.plan at_ .rowDecay)

/-- RELCFG (07 R130, R132): a change of ROWDECAY starts its periods anew. -/
def execRelcfgWrite (val : Word) (s : State) : Out :=
  let v := val.toNat
  let ivl := v % 2 ^ 16
  if v / 2 ^ 28 ≠ 0 || ivl < 200 || 10000 < ivl then .next s
  else
    let change := bits v 16 8 ≠ bits s.reliab.relcfg.toNat 16 8
    let s := { s with reliab := { s.reliab with relcfg := val } }
    if change then
      let at_ := s.chip + s.reliab.decayPeriod
      let s := { s with reliab := { s.reliab with decayAt := at_ } }
      .next (if s.reliab.decayPeriod = 0 then s else s.plan at_ .rowDecay)
    else .next s

/-! ECC and the carder (07 R118 to R125). -/

/-- The kinds of array (07 R118): how many instances there are, and the base sweep period in ms. Register space, scalars and
predicates, code memory and dictionary, and vault of each physical core; L2 slices; shadow stores; HBM4 stacks; second tier. -/
def sweepKinds : List (Nat × Nat) :=
  [(272, 20), (272, 20), (272, 100), (272, 100), (256, 200), (4, 500), (8, 1800000), (1, 3600000)]

/-- Where the instances of a kind begin in the list of all. -/
def sweepBase (kind : Nat) : Nat := ((sweepKinds.take kind).map fun k => k.1).foldl (· + ·) 0

/-- Every array instance with its kind and number. -/
def sweepInsts : List (Nat × Nat) :=
  (List.range 8).flatMap fun k => (List.range ((sweepKinds.getD k (0, 0)).1)).map fun i => (k, i)

/-- A sweep that begins on a chip cycle. -/
def Sweep.start (chip : Nat) : Sweep :=
  { done := 0, due := 0, eager := false, began := chip, passed := none, fixes := [], rate := 1 }

/-- The sweeps of all array instances. -/
def State.allSweeps (s : State) : List Sweep :=
  s.reliab.sweeps ++ List.replicate (1357 - s.reliab.sweeps.length) (Sweep.start 0)

/-- The slice of a line among the 256 of the package: the die of its address and a home slice there (log 15). -/
def sliceNo (line : Nat) : Nat := 64 * homeDie (64 * line) + Config.sliceOf line % 64

/-- The array instance in which an error lies. -/
def State.arrayOf (s : State) (e : EccSpace) : Nat :=
  match e with
  | .registerState n => s.physCore n
  | .smallFiles n => sweepBase 1 + s.physCore n
  | .codeOrDict n _ _ => sweepBase 2 + s.physCore n
  | .vault n _ => sweepBase 3 + s.physCore n
  | .l2 line _ => sweepBase 4 + sliceNo line
  | .shadow slot _ => sweepBase 5 + slot / 16
  | .hbm line => sweepBase 6 + 64 * line / 2 ^ 36 % 8
  | .tier _ => sweepBase 7

/-- A corrected error is counted, in all and in its array instance (07 R119, R132). -/
def State.countCe (s : State) (e : EccSpace) : State :=
  let chip := s.chip
  let k := s.arrayOf e
  let fix (x : Sweep) : Sweep := { x with fixes := chip :: x.fixes }
  { s with reliab := { s.reliab with
    ce := min (s.reliab.ce + 1) (2 ^ 32 - 1), sweeps := s.allSweeps.mapIdx fun i x => if i = k then fix x else x } }

/-- An uncorrectable error is counted, and recorded if VALID was 0 (07 R132). -/
def State.logUe (s : State) (space addr tag : Nat) (ownerless : Bool) : State :=
  let r := { s.reliab with ue := sat16 (s.reliab.ue + 1) }
  if r.ueaddr.getLsbD 63 then { s with reliab := r }
  else
    { s with reliab := { r with
      ueaddr := BitVec.ofNat 64 (2 ^ 63 + space * 2 ^ 59 + b2n ownerless * 2 ^ 58 + addr % 2 ^ 52)
      ueinfo := BitVec.ofNat 64 (tag * 2 ^ 48 + s.chip % 2 ^ 32) } }

/-- The owning launch ends with code TRAP, class FENCE_E, and the bundle address of the core's PC (07 R123). -/
def State.endOwner (s : State) (id : Option Nat) (n pc : Nat) : State :=
  match id with
  | some id => s.endLaunch id 0x03 (trapDetail n Trap.fenceE.bit pc)
  | none => s

/-- The launch that an owner tag stands for while it has not ended (07 R122, R123). -/
def State.liveOwner (s : State) (tag : Nat) : Option Launch :=
  s.launches.find? fun l => l.owner = tag && tag ≠ 0 && l.phase ≠ .escrowed && l.phase ≠ .ended

/-- The core of a launch that a DETAIL names for an error outside its cores, its lowest, with its PC, in the core or saved. -/
def State.pcOf (s : State) (l : Launch) : Nat × Nat :=
  let n := l.pkt.cores.headD 0
  match s.saved.find? fun x => x.launch = l.id && x.core = n && !x.restoring with
  | some x => (n, x.ctx.pc)
  | none => (n, (s.core n).pc)

/-- The owner of a saved context ends by an error in its slot; a restore from it is abandoned (07 R123, R133). -/
def State.endSaved (s : State) (x : SavedCtx) (space addr : Nat) : State :=
  (s.logUe space addr (s.ownerTag (some x.launch)) false).endOwner (some x.launch) x.core x.ctx.pc

/-- A line of HBM4 is poisoned: what L2 holds of it stays good until it is lost there. -/
def Mem.markHbm (m : Mem) (line : Nat) : Mem :=
  if m.l2.any fun x => x.1 = line then
    { m with l2 := m.l2.map fun x => if x.1 = line then (x.1, { x.2 with bad := true }) else x }
  else m.mark 0 line

/-- The saved context whose slot of the save area holds a line of HBM4 (06 R109). -/
def State.ctxAt (s : State) (line : Nat) : Option SavedCtx :=
  let base := bits s.ctxsave.toNat 29 10 * 2 ^ 29
  s.saved.find? fun x => x.hbm && base + 1966080 * x.core ≤ 64 * line && 64 * line < base + 1966080 * (x.core + 1)

/-- The saved context in a shadow slot: of the contexts of its die in the shadow store, in the order of their saves (log 15). -/
def State.ctxIn (s : State) (slot : Nat) : Option SavedCtx :=
  (s.saved.filter fun x => !x.hbm && dieOf x.core = slot / 16)[slot % 16]?

/-- A line leaves L2: it has been written back (07 R122). -/
def State.dropLine (s : State) (line : Nat) : State := { s with mem := s.mem.leaveL2 (64 * line) 64 }

/-- An uncorrectable error found in a place (07 R123). -/
def State.uncorrectable (s : State) (e : EccSpace) : State :=
  match e with
  | .registerState n | .smallFiles n =>
    let c := s.core n
    (s.logUe 4 n (s.ownerTag c.launch) false).endOwner c.launch n c.pc
  | .codeOrDict n k dict =>
    let c := s.core n
    let s := s.logUe 5 k (s.ownerTag c.launch) false
    s.updCore n fun c =>
      if dict then { c with dictBad := if c.dictBad.contains k then c.dictBad else k :: c.dictBad }
      else { c with codeBad := if c.codeBad.contains k then c.codeBad else k :: c.codeBad }
  | .vault n line =>
    let c := s.core n
    let tag := c.tagOf line
    let s := s.logUe 2 (n * 2 ^ 21 + 64 * line) tag false
    let s := s.updCore n fun c => { c with vault := Store.clear c.vault (64 * line) 64 }
    match s.liveOwner tag with
    | some l => s.endOwner (some l.id) n c.pc
    | none => s
  | .l2 line dirty =>
    match s.mem.l2.find? fun x => dirty && x.1 = line with
    | none => (s.countCe e).dropLine line
    | some x =>
      let s := { s.dropLine line with mem := (s.dropLine line).mem.mark 0 line }
      match s.liveOwner x.2.tag with
      | some l => (s.logUe 1 (64 * line) x.2.tag false).endOwner (some l.id) (s.pcOf l).1 (s.pcOf l).2
      | none => s.logUe 1 (64 * line) x.2.tag true
  | .shadow slot line =>
    let addr := 1966080 * (slot % 16) + 64 * line
    match s.ctxIn slot with
    | some x => s.endSaved x 3 addr
    | none => s.logUe 3 addr 0 false
  | .hbm line =>
    match s.ctxAt line with
    | some x => { s with mem := s.mem.mark 0 line }.endSaved x 0 (64 * line)
    | none => { s with mem := s.mem.markHbm line }.logUe 0 (64 * line) 0 false
  | .tier line => { s with mem := s.mem.mark 2 line }.logUe 6 (64 * line) 0 false

/-- CARDER_SCRUB (07 R118 to R123): the carder or a read finds a single error, which is corrected and counted, or a double
one. -/
def execCarderScrub (space : EccSpace) (double : Bool) (s : State) : Out :=
  .next (if double then s.uncorrectable space else s.countCe space)

/-- The temperature factor of the sweep rate, from a free reading (07 R119). -/
def tempFactor (t : Nat) : Nat := if t < 70 then 1 else if t < 85 then 2 else 4

/-- The error factor of the sweep rate (07 R119). -/
def errorFactor (n : Nat) : Nat := if n = 0 then 1 else if n < 16 then 2 else 4

/-- The sensor that tells the temperature of an array instance: the junctions of the four dies, the eight stacks, the second tier
(07 R119). -/
def sensorOf (inst : Nat × Nat) : Nat :=
  if inst.1 < 4 then inst.2 / 68 else if inst.1 = 4 then inst.2 / 64 else if inst.1 = 5 then inst.2 else if inst.1 = 6 then 4 + inst.2
  else 12

/-- CARD_THR.PCT; 0 and values above 100 count as 100 (07 R132). -/
def Reliab.pct (r : Reliab) : Nat :=
  let p := r.cardThr.toNat % 128
  if p = 0 || 100 < p then 100 else p

/-- Whether a sweep makes no progress in a millisecond, from the free demand on its port in percent: an array in a core only with
every port cycle taken, another while demand exceeds PCT, unless it has fallen 3 periods behind (07 R120). -/
def Sweep.held (x : Sweep) (kind demand pct : Nat) : Bool :=
  if kind < 4 then 100 ≤ demand else pct < demand && !x.eager

/-- A sweep ends in a millisecond at multiplier m. -/
def Sweep.ends (x : Sweep) (base m : Nat) (held : Bool) : Bool := !held && base ≤ x.done + m

/-- A sweep goes on for a millisecond at multiplier m, and begins again once its array has been read (07 R119, R120). -/
def Sweep.tick (x : Sweep) (base m : Nat) (held : Bool) (chip : Nat) : Sweep :=
  if x.ends base m held then
    let over_ := x.done + m - base
    { x with done := over_, due := over_, eager := false, began := chip, passed := some x.began, rate := m }
  else
    let due := x.due + m
    let done := if held then x.done else x.done + m
    { x with done := done, due := due, eager := x.eager || 3 * base ≤ due - done, rate := m }

/-- A sweep ends in this millisecond more than one period late (07 R120). -/
def Sweep.endsLate (x : Sweep) (base m : Nat) (held : Bool) : Bool :=
  x.ends base m held && 2 * base < x.due + m

/-- The stale tags of the arrays whose sweeps have ended become 0: those of the vault of a physical core, and of an L2 slice
(07 R122). -/
def State.clearTags (s : State) (vaults slices : List Nat) : State :=
  let live (t : Nat) : Bool := (s.liveOwner t).isSome
  let clean (c : Core) : Core :=
    { c with
      vaultTag := if live c.vaultTag then c.vaultTag else 0,
      lineTags := c.lineTags.map fun x => (x.1, if live x.2 then x.2 else 0) }
  let wipe (p : Nat × Core) : Nat × Core := if vaults.contains (s.physCore p.1) then (p.1, clean p.2) else p
  let drop (x : Nat × L2Line) : Nat × L2Line :=
    if slices.contains (sliceNo x.1) && !live x.2.tag then (x.1, { x.2 with tag := 0 }) else x
  { s with cores := s.cores.map wipe, mem := { s.mem with l2 := s.mem.l2.map drop } }

/-- Tags return to use once every L2 and vault sweep has passed once since their launches ended (07 R122). -/
def State.freeTags (s : State) : State :=
  let sweeps := (s.reliab.sweeps.drop (sweepBase 3)).take (272 + 256)
  let stale (t : Nat × Nat) : Bool := !(sweeps.all fun x => x.passed.any fun b => t.2 ≤ b)
  { s with reliab := { s.reliab with oldTags := s.reliab.oldTags.filter stale } }

/-- What a millisecond makes of the sweep of an array instance: kind, number, the sweep, whether it ended and whether late. -/
structure SweepStep where
  kind : Nat
  inst : Nat
  sweep : Sweep
  ended : Bool
  late : Bool

/-- The step of instance i, whose free temperature and demand follow the k-th free value (log 15). -/
def Sweep.step (x : Sweep) (inst : Nat × Nat) (i k pct chip : Nat) : SweepStep :=
  let base := (sweepKinds.getD inst.1 (0, 1)).2
  let recent := x.fixes.filter fun t => chip < t + 100 * Config.msec
  let m := min 16 (tempFactor (Config.freeReading (k + sensorOf inst)) * errorFactor recent.length)
  let held := x.held inst.1 (Config.freeReading (k + 13 + i)) pct
  ⟨inst.1, inst.2, ({ x with fixes := recent }).tick base m held chip, x.ends base m held, x.endsLate base m held⟩

/-- CARDER_RATE (07 R119, R120): every millisecond the multiplier of each array instance is formed anew and its sweep goes on. The
temperatures and the demand on the ports are free (log 15). -/
def execCarderRate (s : State) : Out :=
  let chip := s.chip
  let all : List SweepStep := (sweepInsts.zip s.allSweeps).mapIdx fun i p => p.2.step p.1 i s.fresh s.reliab.pct chip
  let late := (all.filter fun x => x.late).length
  let done (kind : Nat) : List Nat := (all.filter fun x => x.ended && x.kind = kind).map fun x => x.inst
  let tags := s.reliab.oldTags.length
  let next : List Sweep := all.map SweepStep.sweep
  let s := { s with
    fresh := s.fresh + 1370,
    reliab := { s.reliab with sweeps := next, late := sat16 (s.reliab.late + late) } }
  let s := (s.clearTags (done 3) (done 4)).freeTags
  let s := if s.reliab.oldTags.length < tags then s.plan chip .launchClaim else s
  .next (s.plan (chip + Config.msec) .carderRate)

end Sys2Proof.Machine
end

