-- ==== Sys2Proof/Machine/Boot.lean ====
section
/-! DEFINITION. Bring-up, limits and reset domains (01 R20 to R25). -/

namespace Sys2Proof.Machine

/-- An event that the package entered in the agenda for itself; the others come from outside. -/
def ownEvent (i : Instr) : Bool :=
  match i with
  | .wait _ | .waitPoll _ | .waitTimeout _ | .signal _ | .copyPacket _ | .copyPacketDone _ | .query _ | .launch _ => true
  | .launchClaim | .launchRelease | .launchComplete | .tellerTrapEvent _ | .linkEvent _ => true
  | .qcmdCreate _ | .qcmdDestroy _ | .preemptResume _ => true
  | .preemptStop _ | .ladderT1 | .ladderT2 | .contextSaveDone | .contextRestart => true
  | .portRxTimeout _ | .heartbeatSend _ | .portReplayLimit _ | .ackTimeout _ | .groupTimerExpiry _ => true
  | .routeUpdate port _ _ => port = 24
  | .fabricWrite p | .fabricAtomic p | .ack p => p.port = 24
  | .tlbWalkDone .. | .shootdownComplete | .heatDecay | .pageHeat => true
  | .migrationCopy _ | .migrationRepoint _ | .migrationReplay _ | .migrationFinish _ => true
  | .scanName _ | .scanwaitExpiry _ | .scanMigration _ | .scanInPlace .. | .rowRetire _ | .rowDecay | .carderRate => true
  | .scanResult _ ok => ok
  | .dbgStepDone _ | .sketchQueryDone | .dumpComplete | .backInvalidateTimeout _ => true
  | .globalResultArrive .. | .remoteWritePerform .. | .globalStorePerform .. | .relPerform _ | .engineComplete .. => true
  | .flagWaitSatisfy _ | .rdvRoundRelease .. | .allowanceExpiry _ => true
  | .quiesceTmo | .fwHandover | .heartbeatDeadline | .rollbackDeadline => true
  | _ => false

/-! Bring-up (01 R23). -/

/-- A failing physical cluster is retired at boot: its logical cluster moves to the spare, or loses its home (01 R23 step 5). -/
def State.bootRetire (s : State) (x : Nat) : State :=
  let die := x / 17
  let p := x % 17
  if 4 ≤ die || s.reliab.retired.contains x then s
  else
    let holder := (s.homed die).find? fun c => s.bound die c = p
    let spare := s.spareOf die
    let s := { s with
      reliab := { s.reliab with retired := x :: s.reliab.retired },
      power := { s.power with nospare := Nat.lor s.power.nospare (2 ^ die) } }
    let s := s.updScan die fun d => { d with stopped := true }
    match holder, spare with
    | some c, some q => { s with reliab := { s.reliab with bind := setAt s.reliab.bind (16 * die + c) q } }
    | some c, none => { s with reliab := { s.reliab with homeless := (16 * die + c) :: s.reliab.homeless } }
    | none, _ => s

/-- The scan of all clusters: failing spares first, so that none is taken for a home. -/
def State.bootScan (s : State) (failing : List Nat) : State :=
  let spare (x : Nat) : Bool := s.spareOf (x / 17) = some (x % 17)
  (failing.filter spare ++ failing.filter fun x => !spare x).foldl State.bootRetire s

/-- What L2 holds is lost by its reset (01 R24): a line dirty there has been written back before, or keeps in HBM4 what stood there;
which of the two is free (log 11). -/
def State.loseL2 (s : State) : State :=
  let k := s.fresh
  let lost := (s.mem.l2.mapIdx fun i x => (i, x)).filter fun p => Config.freeTime (k + p.1) % 2 = 0
  let back (m : Mem) (p : Nat × (Nat × L2Line)) : Mem :=
    let line := p.2.1
    let m := { m with
      hbm := Store.put m.hbm (64 * line) (numBytes 64 p.2.2.under), hbmPoison := m.hbmPoison.filter fun l => l ≠ line }
    if p.2.2.bad then m.mark 0 line else m
  { s with fresh := k + s.mem.l2.length, mem := { lost.foldl back s.mem with l2 := [] } }

/-- An event that a Spindle reset of its own chip cycle replaces: the reset of an inner domain, but for the loss of MAIN48, which
outlasts it (01 R25). -/
def innerReset (i : Instr) : Bool :=
  match i with
  | .hostLinkReset | .thermalTrip => true
  | _ => false

/-- What a Spindle reset clears: everything but the flash contents, the memories outside the cores and what the world holds (01
R24). CHIPCYC counts from the reset (09 R154), so events of the world move with it, but for those that tellers have taken; a reset
of an inner domain due on the same chip cycle is replaced (01 R25). The supplies are the world's: MAIN48 stays present or absent (01
R20). The record in use gives the package number, the routes, the spare map and the retirements (01 R22, 02 R29). -/
def State.cleared (s : State) : State :=
  let r := s.record
  let chip := s.chip
  let s := s.loseL2
  let stands (e : Nat × Instr) : Bool := !ownEvent e.2 && !(innerReset e.2 && e.1 ≤ chip)
  let agenda := s.tellers.taken.foldl (fun a i => dropInstr i a) s.agenda
  { State.reset with
    agenda := (agenda.filter stands).map fun e => (e.1 - chip, e.2),
    fresh := s.fresh, nextId := s.nextId, out := s.out, flash := s.flash,
    power := { Power.reset with
      hostLink := false, main48 := s.power.main48, holds := s.power.holds.filter fun h => h = 4 && !s.power.main48 },
    mem := { s.mem with hostLines := [], snoops := [] },
    fabric := { Fabric.reset with fabid := r.fabid, routes := r.routes },
    fw := { Firmware.reset with
      actver := s.fw.actver, actslot := s.fw.actslot, otherValid := s.fw.otherValid, otherVer := s.fw.otherVer,
      actImage := s.fw.actImage, otherImage := s.fw.otherImage },
    reliab := { Reliab.reset with bind := r.bind, retired := r.retired, homeless := r.homeless, spares := r.spares } }

/-- A die whose record leaves it without a spare does not rotate, and DEVSTAT.NOSPARE says so (01 R18, 07 R129). -/
def State.stopBare (s : State) : State :=
  (List.range 4).foldl (fun s die =>
    if (s.spareOf die).isSome then s
    else
      let s := { s with power := { s.power with nospare := Nat.lor s.power.nospare (2 ^ die) } }
      s.updScan die fun d => { d with stopped := true }) s

/-- A port of the record trains at bring-up (01 R23 step 6). -/
def State.bootPort (s : State) (p : Nat × Nat × Nat) : State :=
  let chip := s.chip
  let s := s.updPort p.1 fun x =>
    { x with state := 2, peerPkg := p.2.1 % 2048, peerPort := p.2.2 % 32, lastRx := chip, lastTx := chip }
  (s.plan (chip + 100 * Config.usec) (.portRxTimeout p.1)).plan (chip + 10 * Config.usec) (.heartbeatSend p.1)

/-- The standing work of the package once it is ready: scans, row decay, the carder. -/
def State.startWork (s : State) : State :=
  let chip := s.chip
  let ivl := s.reliab.scanIvl
  let s := (List.range 4).foldl (fun s d => (s.updScan d fun x => x.atNaming chip ivl).planNaming d) s
  let at_ := chip + s.reliab.decayPeriod
  ({ s with reliab := { s.reliab with decayAt := at_ } }.plan at_ .rowDecay).plan (chip + Config.msec) .carderRate

/-- The slots of the record as their verification reads them (01 R23 step 2). -/
def State.readSlots (s : State) (b : BootInput) : State :=
  { s with flash := [
    { s.flash.getD 0 FlashRecord.factory with seq := b.recA }, { s.flash.getD 1 FlashRecord.factory with seq := b.recB }] }

/-- The image that is not active takes the active role (01 R23 step 3). DESIGN CHOICE (log 11): the active mark in flash moves to it, so
that ACTSLOT and ACTVER keep naming it at later boots, and the image that failed is invalid; the manual does not say whether the mark
moves. -/
def Firmware.fallBack (f : Firmware) : Firmware :=
  { f with
    actslot := 1 - f.actslot, actver := f.otherVer, otherVer := f.actver, otherValid := false,
    actImage := f.otherImage, otherImage := f.actImage }

/-- Steps 5 to 7 of a bring-up, once MAIN48 is there: the scans, the ports that the record lists, and READY (01 R22, R23). -/
def State.finishBoot (s : State) (b : BootInput) : State :=
  let chip := s.chip
  let s := s.stopBare.bootScan b.failing
  let s := if b.failing.isEmpty then s else s.rewriteRecord
  let s := { s with reliab := { s.reliab with passed := (List.range 68).map fun p => (p, chip) } }
  let s := (b.ports.filter fun p => p.1 < 24 && s.record.ports.contains p.1).foldl State.bootPort s
  { s with power := { s.power with hostLink := true, ready := true } }.startWork

/-- Steps 1 to 7 of a bring-up, or recovery mode (01 R23). Without MAIN48 step 4 does not succeed: the side-band works (05 R99), and the
later steps wait for the rail. -/
def State.bringUp (s : State) (b : BootInput) : State :=
  let s := (s.readSlots b).cleared
  let s := { s with power := { s.power with boot := some b } }
  if !b.pufOk || (b.recA.isNone && b.recB.isNone) || (!b.imgActive && !b.imgOther) then
    { s with power := { s.power with recovery := true } }
  else
    let s := if b.imgActive then s else { s with fw := s.fw.fallBack }
    if s.power.main48 then s.finishBoot b else s

/-- POWER_UP (01 R20, R23): at power-up. -/
def execPowerUp (b : BootInput) (s : State) : Out :=
  .next ({ s with
    power := { s.power with
      stby12 := true, main48 := b.main48,
      holds := if b.main48 then s.power.holds else s.power.holds.filter (· ≠ 4) ++ [4] } }.bringUp b)

/-- STBY12_LOSS (01 R20, R24): everything goes but the flash contents, until the next power-up. -/
def execStby12Loss (s : State) : Out :=
  let s := s.cleared
  .next { s with
    power := { s.power with stby12 := false }, mem := { Mem.reset with host := s.mem.host, hostPoison := s.mem.hostPoison } }

/-! The compute domain (01 R24, R25). -/

/-- A launch that a compute reset reaches: it runs, or its contexts are saved, in the shadow store or in HBM4 (06 R114). -/
def State.reachedBy (_ : State) (l : Launch) : Bool := l.phase.holds || l.phase = .saved

/-- Migrations of pages are abandoned; what their MIGSTAT then shows is free (03 R67; log 22). -/
def State.dropMigrations (s : State) : State :=
  let s := s.xlate.migs.foldl (fun s m =>
    let (d, s) := s.drawBelow 64
    s.setMigstat m.slot fun w => migWord w (d % 4) (d / 4)) s
  { s with xlate := { s.xlate with migs := [], parked := [] } }

/-- The logical core that a physical core serves, if any. -/
def State.servedBy (s : State) (m : Nat) : Option Nat := (List.range 256).find? fun n => s.physCore n = m

/-- A compute reset (01 R24, R25): every core, engine, vault, shadow store and L2 slice is reset, saved contexts in HBM4 are
discarded too (06 R114), and the launches it reaches end with a code; migrations of clusters are abandoned. DESIGN CHOICE (log 11): the
health counters of the array rows (07 R130) stand, since the manual does not count them to the cores. -/
def State.computeReset (s : State) (code : Nat) : State :=
  let hit := s.launches.filter s.reachedBy
  let s := s.breakDump.dropMigrations
  let s := hit.foldl (fun s l =>
    let s := s.updLaunch l.id fun l => { l with dumping := false }
    if l.dumping then s.endLaunch l.id l.code l.detail else s.endLaunch l.id code 0) s
  let s := s.loseL2
  let s := { s with
    cores := s.cores.map (fun (p : Nat × Core) => (p.1, Core.idle)), saved := [],
    mem := { s.mem with snoops := [] }, dbg := { s.dbg with upsets := [], step := none } }
  let s := (List.range 4).foldl (fun s d =>
    if (s.scan d).named.isSome then (s.updScan d fun x => { x with named := none, moving := false }).planNaming d else s.scanFree d) s
  let s := (s.reliab.pendingRows.filterMap fun p => s.servedBy p.1).foldl (fun (s : State) n => s.planOnce s.chip (.rowRetire n)) s
  (s.plan s.chip .launchClaim).kickAll

/-- THERMAL_TRIP (01 R21). -/
def execThermalTrip (s : State) : Out := .next (s.computeReset 0x08)

/-- MAIN48_LOSS (01 R20, R21): MAIN48 below 40 V for more than 1 ms. Until the rail is back no launch is dispatched or claimed, and
the sensors that need it are unavailable (05 R99; log 11). -/
def execMain48Loss (s : State) : Out :=
  let s := s.computeReset 0x09
  .next { s with power := { s.power with main48 := false, holds := s.power.holds.filter (· ≠ 4) ++ [4] } }

/-! Admission (01 R21, 05 R91). -/

/-- POWER_LIMIT_HOLD (01 R21): no LAUNCH packet is dispatched while the condition holds. -/
def execPowerLimitHold (cond : Nat) (s : State) : Out :=
  if s.power.holds.contains cond then .next s
  else
    let s := { s with power := { s.power with holds := s.power.holds ++ [cond] } }
    .next (s.notifyHost 6 1 cond)

/-- MAIN48 is back: launches are claimed again, or a bring-up that waited for it goes on (01 R20, R23). -/
def State.main48Back (s : State) : State :=
  let s := { s with power := { s.power with main48 := true } }
  match s.power.ready, s.power.recovery, s.power.boot with
  | false, false, some b => if s.power.stby12 then s.finishBoot b else s
  | _, _, _ => (s.plan s.chip .launchClaim).kickAll

/-- ADMISSION_RESUME (01 R21): the condition has been clear for 10 ms. Condition 4 is the return of MAIN48, of which the manual posts no
notification (log 11). -/
def execAdmissionResume (cond : Nat) (s : State) : Out :=
  if !s.power.holds.contains cond then .next s
  else
    let s := { s with power := { s.power with holds := s.power.holds.filter (· ≠ cond) } }
    if cond = 4 then .next s.main48Back
    else .next (s.notifyHost 6 0 cond).kickAll

/-! The host link (01 R24, R25). -/

/-- HOST_LINK_RESET: the CXL interface and its transactions in flight; the host's copies of lines are lost (03 R48), and a migration that
copies from or to host memory fails (03 R67). -/
def execHostLinkReset (s : State) : Out :=
  let fails (m : Migration) : Bool := m.step = 2 && (m.oldLoc = 1 || m.newLoc = 1)
  let s := { s with
    power := { s.power with hostLink := false },
    xlate := { s.xlate with migs := s.xlate.migs.map fun (m : Migration) => if fails m then { m with failed := 5 } else m } }
  .next ((s.releaseLines fun _ => true).emit .hostLinkDown)

/-- HOST_LINK_RETRAIN: what was posted while the link was down is delivered (01 R25). -/
def execHostLinkRetrain (s : State) : Out :=
  if !s.power.ready then .next s
  else
    let waits := s.power.msixWait
    let s := { s with power := { s.power with hostLink := true, msixWait := [] } }
    .next (waits.foldl (fun s v => s.emit (.msix v)) s)

end Sys2Proof.Machine
end

