-- ==== Sys2Proof/Machine/Firmware.lean ====
section
/-! DEFINITION. The notification queue's registers, live firmware update and the side-band (05 R89 to R99). -/

namespace Sys2Proof.Machine

/-- NQCFG (05 R89). -/
def execNqcfgWrite (val : Word) (s : State) : Out :=
  .next { s with nq := s.nq.configure (~~~0x31F#64) 16 val }

/-- NQCONS (05 R89). -/
def execNqconsWrite (val : Word) (s : State) : Out := .next { s with nq := s.nq.consume val }

/-! Live firmware update (05 R92 to R95). -/

/-- The bytes of an image. -/
def FwImage.bytes (i : FwImage) : List Byte := (List.range i.len).map (Store.read i.data)

/-- The image of a list of bytes. -/
def FwImage.ofBytes (d : List Byte) : FwImage := ⟨d.length, Store.put [] 0 d⟩

/-- Changes the firmware state; a change of STATE posts a notification and raises vector 49 (05 R90, R91). -/
def State.setFw (s : State) (f : Firmware → Firmware) : State :=
  let old := s.fw.state
  let s := { s with fw := f s.fw }
  if s.fw.state = old then s
  else (s.notifyHost 7 (s.fw.state + s.fw.err * 16) (s.fw.actver + s.fw.pendver * 2 ^ 16)).msix 49

/-- A command that is not accepted changes only ERR (05 R92). -/
def State.fwBusy (s : State) : State := { s with fw := { s.fw with err := 1 } }

/-- A reserved bit of FWCTL is set. -/
def fwReserved (v : Word) : Bool := bits v.toNat 4 44 ≠ 0

/-- HBDL of a command in ms; 0 means 500. -/
def hbdlOf (v : Word) : Nat := if bits v.toNat 48 16 = 0 then 500 else bits v.toNat 48 16

/-- STAGE (05 R92, R93): the tellers begin to copy and verify the image, which the side-band has transferred or which lies at FWIMG.
DESIGN CHOICE (log 23): ERR stands until the staging has succeeded or failed. -/
def State.fwStage (s : State) (v : Word) (sent : Option FwImage) : State :=
  if fwReserved v || s.fw.staging || !([0, 4, 5, 6].contains s.fw.state) then s.fwBusy
  else { s with fw := { s.fw with staging := true, component := sent } }

/-- ACTIVATE (05 R93): the tellers take every queue's lock. -/
def State.fwActivate (s : State) (v : Word) : State :=
  if fwReserved v || s.fw.state ≠ 1 then s.fwBusy
  else
    let chip := s.chip
    let s := s.setFw fun f => { f with state := 2, hbdl := hbdlOf v, since := chip }
    (s.plan (chip + 100 * Config.msec) .quiesceTmo).planFree .fwHandover

/-- ABORT (05 R92): the staged image is given up. -/
def State.fwAbort (s : State) (v : Word) : State :=
  if fwReserved v || s.fw.state ≠ 1 then s.fwBusy
  else s.setFw fun f => { f with state := 0, pendver := 0 }

def execFwctlStage (val : Word) (s : State) : Out := .next (s.fwStage val none)
def execFwctlActivate (val : Word) (s : State) : Out := .next (s.fwActivate val)
def execFwctlAbort (val : Word) (s : State) : Out := .next (s.fwAbort val)

/-- The image that the tellers copy (05 R92, R93, R97): the component that the side-band has transferred, or the one at FWIMG, whose bits
[38:12] give its address and [63:40] its length in 4 KiB. DESIGN CHOICE (log 23): FWIMG and the HBM4 bytes are read when the staging
ends. -/
def State.stagedImage (s : State) : FwImage :=
  let v := s.fw.fwimg.toNat
  let len := bits v 40 24 * 4096
  s.fw.component.getD ⟨len, Store.blit [] s.mem.hbm (bits v 12 27 * 4096) 0 len⟩

/-- FW_STAGED (05 R93): the image is copied into the inactive slot, its signature and its security version are checked, and it is staged;
or it is refused, and the slot is then invalid and nothing staged. Of several failures the first in the order of the step counts: the
flash, the signature, the version (DESIGN CHOICE, log 23). -/
def execFwStaged (flashOk : Bool) (s : State) : Out :=
  let image := s.stagedImage
  let ver := Config.imageVersion image.bytes % 65536
  let fail (err : Nat) : State :=
    s.setFw fun f =>
      { f with
        state := 6, err := err, staging := false, component := none, pendver := 0, otherValid := false, otherImage := image }
  if !s.fw.staging then .next s
  else if !flashOk then .next (fail 7)
  else if !Config.imageSigned image.bytes then .next (fail 2)
  else if Config.imageSvn image.bytes < s.record.minSvn then .next (fail 3)
  else
    .next (s.setFw fun f =>
      { f with
        state := 1, err := 0, staging := false, component := none, pendver := ver, otherValid := true, otherVer := ver,
        otherImage := image })

/-- The queues' locks are released: what waited goes on (05 R93). -/
def State.unlockQueues (s : State) : State :=
  let waits := s.queues.filter fun p => p.2.cmdWaits && p.2.disp = .none
  (waits.foldl (fun s p => s.cmdGo p.1) s).kickAll

/-- The section types of the hand-over structure (05 R94). -/
def handoverTypes : List Nat := [1, 2, 3, 4, 5, 6, 7]

/-- The total length in bytes of the hand-over structure: header, directory and sections (05 R94). -/
def Handover.len (h : Handover) : Nat :=
  16 + 16 * h.sections.length + (h.sections.map fun x => x.len).foldl (· + ·) 0

/-- The header of the hand-over structure, 16 bytes (05 R94). -/
def Handover.header (h : Handover) : BitVec 128 :=
  BitVec.ofNat 128 (h.magic % 2 ^ 16 * 2 ^ 112 + h.hvmaj % 256 * 2 ^ 104 + h.hvmin % 256 * 2 ^ 96 + h.len % 2 ^ 32 * 2 ^ 64
    + h.fromver % 2 ^ 16 * 2 ^ 48 + h.tover % 2 ^ 16 * 2 ^ 32 + h.sections.length % 2 ^ 16 * 2 ^ 16)

/-- The directory entries of the hand-over structure, 16 bytes each (05 R94). -/
def Handover.directory (h : Handover) : List (BitVec 128) :=
  h.sections.map fun x => BitVec.ofNat 128 (x.type % 2 ^ 16 * 2 ^ 112 + x.off % 2 ^ 32 * 2 ^ 64 + x.len % 2 ^ 32 * 2 ^ 32
    + x.crc.toNat)

/-- The bytes of the hand-over structure in the Spindle's SRAM: header, directory entries, sections (05 R94). -/
def Handover.bytes (h : Handover) : List Byte :=
  numBytes 16 h.header.toNat ++ h.directory.flatMap (fun x => numBytes 16 x.toNat)
    ++ h.sections.flatMap fun x => numBytes x.len x.content

/-- A new image of a version that supports some major versions rejects a structure (05 R94). -/
def Handover.rejectedBy (h : Handover) (ver : Nat) (supports : Nat → Bool) : Bool :=
  h.magic ≠ 0x4856 || h.tover ≠ ver || !supports h.hvmaj || h.sections.any fun x =>
    x.crc ≠ Config.crc32 x.len x.content || (!handoverTypes.contains x.type && !bit x.type 15)

/-- Sections of given types one after another from an offset, their lengths and bytes free (log 23). -/
def freeSections (k off : Nat) : List Nat → List HandoverSection
  | [] => []
  | t :: r =>
    let len := Config.freeReading k % 2 ^ 16
    let content := Config.freeReading (k + 1) % 2 ^ (8 * len)
    ⟨t, off, len, Config.crc32 len content, content⟩ :: freeSections (k + 2) (off + len) r

/-- The structure that the old image writes: its layout version and what its sections hold are free (log 23). -/
def State.writeHandover (s : State) : Handover × State :=
  let k := s.fresh
  (⟨0x4856, Config.freeReading k % 256, Config.freeReading (k + 1) % 256, s.fw.actver, s.fw.pendver,
    freeSections (k + 2) (16 + 16 * handoverTypes.length) handoverTypes⟩, { s with fresh := k + 16 })

/-- FW_HANDOVER (05 R93, R94): once every lock is held the old image writes the hand-over structure and the new image starts;
whether it supports the structure's major version is free (log 23). DESIGN CHOICE (log 23): a restarted old image that hands over before
its own first heartbeat owes that heartbeat no more. -/
def execFwHandover (s : State) : Out :=
  if s.fw.state ≠ 2 then .next s
  else if !(s.queues.all fun p => s.locked p.1) then .next (s.planFree .fwHandover)
  else
    let chip := s.chip
    let (d, s) := s.drawBelow 2
    let (x, s) := s.drawBelow (s.fw.hbdl * Config.msec)
    let (h, s) := s.writeHandover
    let rejected := h.rejectedBy s.fw.pendver fun _ => d ≠ 0
    let s := s.setFw fun f => { f with state := 3, since := chip, rejected := rejected, beatBy := none, handover := some h }
    .next (s.plan (chip + if rejected then x + 1 else s.fw.hbdl * Config.msec) .heartbeatDeadline)

/-- QUIESCE_TMO (05 R93): a lock is still missing after 100 ms. -/
def execQuiesceTmo (s : State) : Out :=
  if s.fw.state ≠ 2 || s.chip < s.fw.since + 100 * Config.msec || s.queues.all (fun p => s.locked p.1) then .next s
  else .next (s.setFw fun f => { f with state := 1, err := 4 }).unlockQueues

/-- FW_HEARTBEAT (05 R93, R95): the first heartbeat of the new image, before its deadline, commits the update; that of the old
image after a roll-back keeps it running. -/
def execFwHeartbeat (s : State) : Out :=
  let f := s.fw
  if f.state = 3 then
    if f.rejected || f.since + f.hbdl * Config.msec ≤ s.chip then .next s
    else
      .next (s.setFw fun f =>
        { f with
          state := 4, actver := f.pendver, otherVer := f.actver, actslot := 1 - f.actslot, pendver := 0,
          actImage := f.otherImage, otherImage := f.actImage }).unlockQueues
  else
    match f.beatBy with
    | some t => if s.chip < t then .next { s with fw := { f with beatBy := none } } else .next s
    | none => .next s

/-- HEARTBEAT_DEADLINE (05 R95): the new image has rejected the structure, or its heartbeat has not come: roll-back. What it took and did
not finish is presented again to the old image. -/
def execHeartbeatDeadline (s : State) : Out :=
  let f := s.fw
  let chip := s.chip
  if f.state ≠ 3 || !(f.rejected || f.since + f.hbdl * Config.msec ≤ chip) then .next s
  else
    let t := chip + f.hbdl * Config.msec
    let s := s.setFw fun f => { f with state := 5, err := if f.rejected then 5 else 6, beatBy := some t }
    .next ((s.plan t .rollbackDeadline).presentAgain .heartbeatDeadline).unlockQueues

/-- A Spindle reset: the bring-up runs again (01 R23, R24). It finds the record slots and images of the flash as they now are, the image
that runs being the one marked active, and the clusters and links as the last bring-up found them (log 11). -/
def State.spindleReset (s : State) : State :=
  let b := s.power.boot.getD BootInput.standard
  s.bringUp { b with
    recA := (s.flash.getD 0 FlashRecord.factory).seq, recB := (s.flash.getD 1 FlashRecord.factory).seq,
    imgActive := true, imgOther := s.fw.otherValid }

/-- ROLLBACK_DEADLINE (05 R95): the restarted old image has sent no heartbeat: the Spindle resets its domain. -/
def execRollbackDeadline (s : State) : Out :=
  if s.fw.beatBy.any fun t => t ≤ s.chip then .next s.spindleReset else .next s

/-! The side-band (05 R96 to R99). -/

/-- A side-band request: nothing without STBY12; an error in recovery mode (05 R99). -/
def State.request (s : State) (f : State → State) : Out :=
  if !s.power.stby12 then .next s
  else if s.power.recovery then .next (s.emit (.sideband 1 []))
  else .next (f s)

/-- A plain answer. -/
def State.reply (s : State) (data : List Nat) : State := s.emit (.sideband 0 data)

/-- A signature whose bytes are free (log 16). -/
def State.sign (s : State) : State :=
  { s.emit (.signature (Config.freeSignature s.fresh)) with fresh := s.fresh + 1 }

/-- MODID (01 R19). -/
def State.modid (s : State) : Nat :=
  0x4E56 * 2 ^ 48 + 0x9600 * 2 ^ 32 + Config.silRev * 2 ^ 24 + s.record.cfgVer % 256 * 2 ^ 16
    + (256 - 4 * s.reliab.homeless.length)

/-- DEVSTAT (03 R46). -/
def State.devstat (s : State) : Nat :=
  s.power.nospare * 2 ^ 4 + b2n s.power.bilink * 2 ^ 3 + b2n (1 ≤ s.fw.state && s.fw.state ≤ 3) * 2 ^ 2
    + b2n s.power.recovery * 2 + b2n s.power.ready

/-- GET_VERSION: SPDM 1.2 and 1.3 (05 R97). -/
def execGetVersion (s : State) : Out := s.request fun s => s.reply [0x12, 0x13]

/-- GET_CAPABILITIES (05 R97): certificates, challenge, measurements with signature; no secure sessions. -/
def execGetCapabilities (s : State) : Out := s.request fun s => s.reply [1, 1, 1, 0]

/-- NEGOTIATE_ALGORITHMS (05 R97): ECDSA P-384 with SHA-384. -/
def execNegotiateAlgorithms (s : State) : Out := s.request fun s => s.reply [384, 384]

/-- GET_DIGESTS (05 R97): the digest of the one certificate slot. -/
def execGetDigests (s : State) : Out := s.request fun s => (s.reply [1]).sign

/-- GET_CERTIFICATE (05 R97, 01 R22): the chain whose leaf key is the PUF-derived identity key. -/
def execGetCertificate (s : State) : Out := s.request fun s => (s.reply [0]).sign

/-- CHALLENGE (05 R97). -/
def execChallenge (s : State) : Out := s.request fun s => s.sign.reply []

/-- A configuration record as numbers: its fields in order, each list after its length. -/
def FlashRecord.words (r : FlashRecord) : List Nat :=
  let counted (l : List Nat) : List Nat := l.length :: l
  let pairs (l : List (Nat × Nat)) : List Nat := counted (l.flatMap fun p => [p.1, p.2])
  [r.seq.getD 0, r.cfgVer, r.fabid, r.minSvn] ++ pairs (r.routes.map fun p => (p.1, p.2.toNat)) ++ pairs r.bind ++ counted r.retired
    ++ counted r.homeless ++ pairs r.spares ++ counted r.ports ++ counted r.thermal

/-- The SHA-384 digest of a configuration record (05 R96). -/
def FlashRecord.digest (r : FlashRecord) : Nat := (sha384 (Config.recordBytes r.words)).toNat

/-- The SHA-384 digest of a firmware image (05 R96). -/
def FwImage.digest (i : FwImage) : Nat := (sha384 i.bytes).toNat

/-- GET_MEASUREMENTS (05 R96): the blocks of the state on this chip cycle, each an index and its digest, but for the one byte of index
0x10, and the signature. -/
def execGetMeasurements (s : State) : Out :=
  s.request fun s =>
    let staged := if s.fw.pendver = 0 then [] else [0x04, s.fw.otherImage.digest]
    (s.reply ([0x01, (sha384 Config.bootRom).toNat, 0x02, s.record.digest, 0x03, s.fw.actImage.digest] ++ staged
      ++ [0x10, s.fw.state])).sign

/-- An MCTP control message (05 R97). -/
def execMctpControl (s : State) : Out := s.request fun s => s.reply [0x00, 0x01, 0x05]

/-- A PLDM Type 0 request (05 R97): the types supported. -/
def execPldmBaseRequest (s : State) : Out := s.request fun s => s.reply [0, 2, 4, 5]

/-- The PLDM identity response (01 R19). -/
def execPldmIdentity (s : State) : Out := s.request fun s => s.reply [s.modid]

/-- The FRU record (05 R98): MODID in its OEM field. -/
def execPldmFruRead (s : State) : Out := s.request fun s => s.reply [0x4E56, s.modid]

/-- A free reading of a numeric sensor (log 18). -/
def State.reading (s : State) : State := { s.reply [Config.freeReading s.fresh] with fresh := s.fresh + 1 }

/-- A PLDM Type 2 sensor (05 R98, R99): numeric sensors of the main domain are unavailable without MAIN48. -/
def execPldmSensorRead (sensor : Sensor) (s : State) : Out :=
  let main (s : State) : State := if s.power.main48 then s.reading else s.emit (.sideband 2 [])
  s.request fun s =>
    match sensor with
    | .main48Power | .junction _ | .stack _ => main s
    | .coolant | .stby12 => s.reading
    | .devstat => s.reply [s.devstat]
    | .portState n => s.reply [(s.port n).state]
    | .scanState die =>
      let d := s.scan die
      s.reply [d.named.getD 31, b2n d.scanning.isSome, b2n d.stopped, d.rot]

/-- Effecter: launch-admission hold (05 R98). -/
def execPldmAdmissionHold (hold : Bool) (s : State) : Out :=
  s.request fun s =>
    let rest := s.power.holds.filter (· ≠ 3)
    let s := { s with power := { s.power with holds := if hold then rest ++ [3] else rest } }.reply []
    if hold then s else s.kickAll

/-- Effecter: compute reset; every running launch ends with POWER_LOSS (05 R98). -/
def execPldmComputeReset (s : State) : Out := s.request fun s => (s.reply []).computeReset 0x09

/-- Effecter: Spindle reset (05 R98, 01 R24). -/
def execPldmSpindleReset (s : State) : Out := s.request fun s => (s.reply []).spindleReset

/-- What recovery mode takes into the flash through PLDM Type 5 (01 R23, 05 R99): a firmware image, into the slot that is not active, or a
configuration record whose signature verifies, into the slot that is not in use (log 11). -/
def State.recover (s : State) (part : PldmPart) : Option State :=
  match part with
  | .image data =>
    some { s with
      fw := { s.fw with
        otherValid := true, otherVer := Config.imageVersion data % 65536, otherImage := FwImage.ofBytes data } }
  | .record true seq r => some { s with flash := s.flash.set (1 - s.recordSlot) { toConfigRecord := r, seq := some seq } }
  | _ => none

/-- The image that a PLDM Type 5 request transfers. -/
def sentImage (part : PldmPart) : Option FwImage :=
  match part with
  | .image data => some (FwImage.ofBytes data)
  | _ => none

/-- A PLDM Type 5 update drives the states of FWCTL (05 R92, R97); in recovery mode a record or an image is taken into the
flash and every other request is answered with an error (01 R23, 05 R99). -/
def execPldmFwUpdate (req : PldmUpdate) (s : State) : Out :=
  if !s.power.stby12 then .next s
  else if s.power.recovery then
    match s.recover req.part with
    | some t => .next (t.reply [])
    | none => .next (s.emit (.sideband 1 []))
  else
    match req.val.toNat % 16 with
    | 1 => .next ((s.fwStage req.val (sentImage req.part)).reply [])
    | 2 => .next ((s.fwActivate req.val).reply [])
    | 3 => .next ((s.fwAbort req.val).reply [])
    | _ => .next (s.fwBusy.reply [])

end Sys2Proof.Machine
end

