-- ==== Sys2Proof/Machine/Debug.lean ====
section
/-! DEFINITION. The debugger: stops, RESUME and STEP, the trace ring, the sketch registers and core dumps (08 R134 to
R144). -/

namespace Sys2Proof.Machine

/-! Stops (08 R134, R136). -/

/-- DBGCTL STOP (08 R134, R136). -/
def execDbgStop (n : Nat) (s : State) : Out :=
  if (s.core n).launch.isNone || s.inDebug n then .next s else .next (s.enterDebug n 1 0)

/-- A core goes on after a stop that lasted d cycles, at chip cycle t: the moments it waits for move by d, and the loads in flight are
issued again (08 R136, 09 R166). -/
def Core.debugGo (c : Core) (t d : Nat) : Core :=
  let wait (w : FlagWait) : FlagWait :=
    match w.resume with
    | some r => { w with resume := some (r + d) }
    | none => if c.flags.getLsbD w.flag = w.val then { w with resume := some (t + 2) } else w
  let hold (h : Hold) : Hold := if h.cause = 7 then { h with id := h.id + d } else h
  if c.mode = .debug then
    { c with mode := .running, flagWait := c.flagWait.map wait, holds := c.holds.map hold }.reissueGlobals
  else c

/-- Rounds of a launch whose release fell in its stop are released as long after RESUME as they would have been without it,
and those still to come move with the rest. -/
def State.resumeRounds (s : State) (id d : Nat) : State :=
  let chip := s.chip
  let moved (e : Nat × Instr) : Nat × Instr :=
    match e.2 with
    | .rdvRoundRelease l g => if l = id then (e.1 + d, .rdvRoundRelease l g) else e
    | _ => e
  let s := { s with agenda := s.agenda.map moved }
  let due := s.rounds.filter fun r => r.launch = id && r.left.isSome
  let s := { s with rounds := s.rounds.map fun (r : Round) => if r.launch = id then { r with left := none } else r }
  due.foldl (fun s r => s.plan (chip + r.left.getD 0) (.rdvRoundRelease id r.group)) s

/-- RESUME of a launch (08 R136): every core goes on on this chip cycle, and the moments fixed for it move by the length of the
stop; the ladder's clock, by the part of it that followed the request (06 R106, 08 R147). -/
def State.debugResume (s : State) (l : Launch) : State :=
  match l.dbgAt with
  | none => s
  | some t0 =>
    let chip := s.chip
    let d := chip - t0
    let moved (q : Nat) : Nat := q + (chip - max t0 q)
    let later (p : Nat × Nat) : Nat × Nat := if t0 < p.2 then (p.1, p.2 + d) else p
    let s := s.updLaunch l.id fun l =>
      { l with dbgAt := none, stopAt := l.stopAt.map moved, restarts := l.restarts.map later }
    let s := l.pkt.cores.foldl (fun s n =>
      if (s.core n).launch = some l.id then s.updCore n fun c => c.debugGo chip d else s) s
    let s := s.resumeRounds l.id d
    let s := if l.restarts.isEmpty then s
      else (l.restarts.map later).foldl (fun s p => s.plan (max chip p.2) .contextRestart) s
    let s := match l.stopAt, l.ladder with
      | some q, true => (s.plan (max chip (moved q + l.t1Cycles)) .ladderT1).plan (max chip (moved q + l.t2Cycles)) .ladderT2
      | _, _ => s
    let s := l.pkt.cores.foldl (fun s n =>
      match (s.core n).holds.find? fun h => h.cause = 7 with
      | some h => s.plan (max chip (h.id + Config.scanWait)) (.scanwaitExpiry n)
      | none => s) s
    ((l.pkt.cores.map dieOf).eraseDups).foldl State.scanStart s

/-- A dump of the launch of core n runs: a RESUME of it waits (08 R142). -/
def State.dumpsLaunch (s : State) (n : Nat) : Bool :=
  s.dbg.dump.any fun d => (s.core n).launch = some d.launch

/-- DBGCTL RESUME (08 R134, R136, R142). -/
def execDbgResume (n : Nat) (s : State) : Out :=
  if s.dumpsLaunch n then .next (s.plan (s.chip + 1) (.dbgResume n))
  else
    match s.launchOf n with
    | some l => .next (s.debugResume l)
    | none => .next s

/-- DBGCTL STEP (08 R134, R136): RESUME, and a stop once SCHEDCYC has advanced by ARG. -/
def execDbgStep (n arg : Nat) (s : State) : Out :=
  if s.dumpsLaunch n then .next (s.plan (s.chip + 1) (.dbgStep n arg))
  else
    match s.launchOf n with
    | some l =>
      let target := (s.core n).schedcyc + max arg 1
      let s := s.debugResume l
      .next { s with dbg := { s.dbg with step := some (n, l.id, target) } }
    | none => .next s

/-- The end of a STEP (08 R136). -/
def execDbgStepDone (n : Nat) (s : State) : Out :=
  match s.dbg.step with
  | some (m, id, target) =>
    if m = n && (s.core n).launch = some id && target ≤ (s.core n).schedcyc then .next (s.enterDebug n 3 0) else .next s
  | none => .next s

/-! The trace ring (08 R138). -/

/-- TRCCFG (08 R138, 05 R89): bits 31 to 9 and 7 to 5 are reserved, LOG is 8 to 24. -/
def execTrccfgWrite (val : Word) (s : State) : Out :=
  .next { s with dbg := { s.dbg with trc := s.dbg.trc.configure 0xFFFFFEE0#64 24 val } }

/-- TRCCONS (08 R138, 05 R89). -/
def execTrcconsWrite (val : Word) (s : State) : Out :=
  .next { s with dbg := { s.dbg with trc := s.dbg.trc.consume val } }

/-! Sketches (08 R139, R140). -/

/-- SKETCH_SEED (08 R140, R147): every counter is cleared, and a query under way returns 0 with VALID. -/
def execSketchSeedWrite (val : Word) (s : State) : Out :=
  let d := { s.dbg with seed := val, sketch := [] }
  .next { s with dbg := if d.skq.isSome then { d with skq := none, skqest := 0x8000000000000000#64 } else d }

/-- SKCTL (08 R140): FRZ, DIE, CLASS and KEY; a change of KEY clears every counter. -/
def execSkctlWrite (val : Word) (s : State) : Out :=
  let d := { s.dbg with skctl := val &&& 0x8F81#64 }
  .next { s with dbg := if val.getLsbD 0 = s.dbg.skctl.getLsbD 0 then d else { d with sketch := [] } }

/-- SKCTL.CLR (08 R140): every counter of every die is cleared. -/
def execSkctlClr (s : State) : Out := .next { s with dbg := { s.dbg with sketch := [] } }

/-- SKQKEY (08 R140): a query begins, or begins anew, and ends within a microsecond. -/
def execSketchQuery (x : Word) (s : State) : Out :=
  let (d, s) := s.drawBelow 1250
  .next ({ s with dbg := { s.dbg with skq := some x, skqest := 0 } }.plan (s.chip + 1 + d) .sketchQueryDone)

/-- The end of a query (08 R140): its four counters are read as the chip cycle before this one has left them. -/
def execSketchQueryDone (s : State) : Out :=
  match s.dbg.skq with
  | some x =>
    let ctl := s.dbg.skctl.toNat
    let est := s.sketchEst (bits ctl 10 2) (bits ctl 7 3) x.toNat
    .next { s with dbg := { s.dbg with skq := none, skqest := BitVec.ofNat 64 (2 ^ 63 + est) } }
  | none => .next s

/-! Dumps (08 R142 to R144). -/

/-- DUMPCTL with CMD START (08 R142): rejected, or begun; a dump that is busy goes on undisturbed (log 24). -/
def execDumpStart (val : Word) (s : State) : Out :=
  let x := val.toNat
  let n := bits x 8 8
  let reserved := 2 ^ 40 ≤ x || bits x 3 5 ≠ 0
  if s.dbg.dump.isSome then .next s
  else
    let s := { s with dbg := { s.dbg with dumpCtl := val &&& 0xFFFFFFFF07#64 } }
    match s.launchOf n with
    | some l =>
      match l.dbgAt with
      | some t =>
        if reserved || s.dumpBad then .next { s with dbg := { s.dbg with dumpStat := 5 } }
        else
          let limit := bits x 16 24 * 4096
          let d : Dump := ⟨n, l.id, l.queue, limit, false, t, 0⟩
          .next ({ s with dbg := { s.dbg with dump := some d, dumpStat := 1 } }.planFree .dumpComplete)
      | none => .next { s with dbg := { s.dbg with dumpStat := 5 } }
    | none => .next { s with dbg := { s.dbg with dumpStat := 5 } }

/-- A dump goes on (08 R142, R144): it begins once the atomics in flight of its core have completed (09 R166), and when it has
ended, a launch that AUTO held back ends too. -/
def execDumpComplete (s : State) : Out :=
  match s.dbg.dump with
  | none => .next s
  | some d =>
    if d.off = 0 && (s.core d.core).atomicsOpen then .next (s.planFree .dumpComplete)
    else
      let t := s.dumpStep d
      match t.dbg.dump, d.auto, t.launch? d.launch with
      | none, true, some l =>
        .next ((t.updLaunch l.id fun l => { l with dumping := false }).endLaunch l.id l.code l.detail)
      | _, _, _ => .next t

end Sys2Proof.Machine
end

