-- ==== Sys2Proof/Machine/SpecFun.lean ====
section
/-! DEFINITION. Correctly rounded square roots and special functions (12 R223, 18 R321, R322). A function value is enclosed
in an interval of numbers over 2^p; the result is decided when both ends round alike, and the precision rises until they
do (log 17). -/

namespace Sys2Proof.Machine

/-! Square roots. -/

/-- Newton steps from above. -/
def isqrtLoop (fuel n x : Nat) : Nat :=
  match fuel with
  | 0 => x
  | k + 1 => let y := (x + n / x) / 2; if y < x then isqrtLoop k n y else x

/-- ⌊√n⌋. -/
def isqrt (n : Nat) : Nat := if n = 0 then 0 else isqrtLoop (n.log2 + 8) n (2 ^ (n.log2 / 2 + 1))

/-- A value that rounds as √(n/d) does, in every format and mode and under every draw: the root to more than 100 bits, with
a half of the last place when it is inexact. -/
def sqrtFrac (n d : Nat) : Nat × Nat :=
  let t := 130 + (d.log2 - n.log2) / 2 + 1
  let x := n * 4 ^ t / d
  let s := isqrt x
  let exact := s * s * d = n * 4 ^ t
  (2 * s + (if exact then 0 else 1), 2 ^ (t + 1))

/-! Intervals of integers over 2^p. -/

/-- lo and hi enclose a value times 2^p. -/
structure Ival where
  lo : Int
  hi : Int
  deriving DecidableEq, Repr

/-- num/den over 2^p. -/
def Ival.ofFrac (p : Nat) (num : Int) (den : Nat) : Ival :=
  let x := num * 2 ^ p
  ⟨x.fdiv den, -((-x).fdiv den)⟩

def Ival.add (a b : Ival) : Ival := ⟨a.lo + b.lo, a.hi + b.hi⟩
def Ival.sub (a b : Ival) : Ival := ⟨a.lo - b.hi, a.hi - b.lo⟩

/-- The product over 2^p. -/
def Ival.mul (p : Nat) (a b : Ival) : Ival :=
  let xs := [a.lo * b.lo, a.lo * b.hi, a.hi * b.lo, a.hi * b.hi]
  let mn := xs.foldl min (a.lo * b.lo)
  let mx := xs.foldl max (a.lo * b.lo)
  ⟨mn.fdiv (2 ^ p), -((-mx).fdiv (2 ^ p))⟩

/-- The quotient by a positive number. -/
def Ival.divNat (a : Ival) (n : Nat) : Ival := ⟨a.lo.fdiv n, -((-a.hi).fdiv n)⟩

def Ival.scale (a : Ival) (n : Int) : Ival := if 0 ≤ n then ⟨a.lo * n, a.hi * n⟩ else ⟨a.hi * n, a.lo * n⟩

/-- The magnitude bound of an interval. -/
def Ival.mag (a : Ival) : Int := max a.hi (-a.lo)

/-- Sums a series term n of which follows from its predecessor by step; the remainder after the last term is bounded by
tail times its magnitude plus one. -/
def seriesSum (step : Nat → Ival → Ival) (tail : Int) (fuel n : Nat) (term acc : Ival) : Ival :=
  match fuel with
  | 0 => acc
  | k + 1 =>
    let acc := acc.add term
    if term.mag ≤ 2 || k = 0 then
      let r := tail * (term.mag + 2)
      ⟨acc.lo - r, acc.hi + r⟩
    else seriesSum step tail k (n + 1) (step n term) acc

/-- atanh(1/q)·2^p for q at least 3. -/
def atanhInv (p q : Nat) : Ival :=
  let go (fuel : Nat) : Ival :=
    let rec loop (fuel n : Nat) (t acc : Ival) : Ival :=
      match fuel with
      | 0 => acc
      | k + 1 =>
        let acc := acc.add (t.divNat (2 * n + 1))
        if t.mag ≤ 2 then ⟨acc.lo - 4, acc.hi + 4⟩ else loop k (n + 1) (t.divNat (q * q)) acc
    loop fuel 0 (Ival.ofFrac p 1 q) ⟨0, 0⟩
  go (p + 8)

/-- atan(1/q)·2^p for q at least 2. -/
def atanInv (p q : Nat) : Ival :=
  let rec loop (fuel n : Nat) (t acc : Ival) : Ival :=
    match fuel with
    | 0 => acc
    | k + 1 =>
      let u := t.divNat (2 * n + 1)
      let acc := if n % 2 = 0 then acc.add u else acc.sub u
      if t.mag ≤ 2 then ⟨acc.lo - 4, acc.hi + 4⟩ else loop k (n + 1) (t.divNat (q * q)) acc
  loop (p + 8) 0 (Ival.ofFrac p 1 q) ⟨0, 0⟩

/-- ln 2. -/
def ln2Ival (p : Nat) : Ival := (atanhInv p 3).scale 2

/-- π by Machin's formula. -/
def piIval (p : Nat) : Ival := ((atanInv p 5).scale 16).sub ((atanInv p 239).scale 4)

/-- e^r for an interval within -1 to 1. -/
def expSmall (p : Nat) (r : Ival) : Ival :=
  seriesSum (fun n t => (t.mul p r).divNat (n + 1)) 2 (p + 8) 0 ⟨2 ^ p, 2 ^ p⟩ ⟨0, 0⟩

/-- e^(num/den) as an interval over 2^p times 2^k, for arguments of magnitude below 2^12. -/
def expIval (p : Nat) (num : Int) (den : Nat) : Ival × Int :=
  let q := p + 16
  let k := (num * 1000000).fdiv (den * 693147)
  let r := (Ival.ofFrac q num den).sub ((ln2Ival q).scale k)
  let e := expSmall q r
  (⟨e.lo.fdiv (2 ^ 16), -((-e.hi).fdiv (2 ^ 16))⟩, k)

/-- ln of num/den > 0. -/
def logIval (p num den : Nat) : Ival :=
  let e := ilog2 (3 * num) (4 * den) + 1
  let (n, d) := if 0 ≤ e then (num, den * 2 ^ e.toNat) else (num * 2 ^ (-e).toNat, den)
  let z := Ival.ofFrac p ((n : Int) - d) (n + d)
  let z2 := z.mul p z
  let rec loop (fuel i : Nat) (t acc : Ival) : Ival :=
    match fuel with
    | 0 => acc
    | k + 1 =>
      let acc := acc.add (t.divNat (2 * i + 1))
      if t.mag ≤ 2 then ⟨acc.lo - 4, acc.hi + 4⟩ else loop k (i + 1) (t.mul p z2) acc
  ((loop (p + 8) 0 z ⟨0, 0⟩).scale 2).add ((ln2Ival p).scale e)

/-- sin and cos of an interval within -1 to 1. -/
def sinSmall (p : Nat) (r : Ival) : Ival :=
  let r2 := r.mul p r
  seriesSum (fun n t => (t.mul p r2).divNat ((2 * n + 2) * (2 * n + 3)) |>.scale (-1)) 1 (p + 8) 0 r ⟨0, 0⟩
def cosSmall (p : Nat) (r : Ival) : Ival :=
  let r2 := r.mul p r
  seriesSum (fun n t => (t.mul p r2).divNat ((2 * n + 1) * (2 * n + 2)) |>.scale (-1)) 1 (p + 8) 0 ⟨2 ^ p, 2 ^ p⟩ ⟨0, 0⟩

/-- sin or cos of num/den, reduced exactly by multiples of π/2 (18 R321). -/
def trigIval (p : Nat) (cosine : Bool) (num : Int) (den : Nat) : Ival :=
  let extra := (num.natAbs / den).log2 + 8
  let q := p + extra
  let half := (piIval q).divNat 2
  let x := num * 2 ^ q
  let k := (2 * x + half.lo * den).fdiv (2 * half.lo * den)
  let r := (Ival.ofFrac q num den).sub (half.scale k)
  let r : Ival := ⟨r.lo.fdiv (2 ^ extra), -((-r.hi).fdiv (2 ^ extra))⟩
  match ((k + (if cosine then 1 else 0)) % 4).toNat with
  | 0 => sinSmall p r
  | 1 => cosSmall p r
  | 2 => (sinSmall p r).scale (-1)
  | _ => (cosSmall p r).scale (-1)

/-- 2/√π. -/
def twoOverSqrtPi (p : Nat) : Ival :=
  let pi := piIval (2 * p)
  let lo := isqrt pi.lo.toNat
  let hi := isqrt pi.hi.toNat + 1
  let x : Int := 2 ^ (2 * p + 1)
  ⟨x.fdiv hi, -((-x).fdiv lo)⟩

/-! A function value as two fractions that enclose it. -/

/-- The ends of an enclosure as exact values. -/
abbrev Ends := EV × EV

/-- An interval over 2^(p-k). -/
def Ival.ends (a : Ival) (p : Nat) (k : Int) : Ends :=
  let f (x : Int) : EV := EV.pow2 (x < 0) x.natAbs (k - p)
  (f a.lo, f a.hi)

/-- A value just above or below a dyadic fraction, rounding alike everywhere between it and the fraction's neighbours. -/
def nudge (num : Int) (den : Nat) (up : Bool) : Ends :=
  let v := num * 2 ^ 3000 + (if up then 1 else -1)
  let e : EV := .fin (v < 0) v.natAbs (den * 2 ^ 3000)
  (e, e)

/-- A value too large, or too small, to be told from another in any format. -/
def hugeEnds : Ends := (.fin false (2 ^ 2000) 1, .fin false (2 ^ 2000) 1)
def tinyEnds : Ends := (.fin false 1 (2 ^ 3000), .fin false 1 (2 ^ 3000))

/-- e^(num/den), num not 0. -/
def expEnds (p : Nat) (num : Int) (den : Nat) : Ends :=
  if 2000 * den ≤ num.natAbs then (if num < 0 then tinyEnds else hugeEnds)
  else if num.natAbs * 2 ^ 130 ≤ den then nudge 1 1 (0 < num)
  else let (e, k) := expIval p num den; e.ends p k

/-- The negation of an enclosure. -/
def Ends.negate (e : Ends) : Ends := (e.2.negate, e.1.negate)

/-- The functions of 18 R320 at a finite, non-zero argument num/den, for the codes of 14 R256 (5 exp to 11 erf), and code 12
for (2/√π)·e^(-a²), the G of erf. -/
def fnEnds (code p : Nat) (num : Int) (den : Nat) : Ends :=
  let a := num.natAbs
  let small := a * 2 ^ 130 ≤ den
  let onPos (e : Ends) : Ends := if num < 0 then Ends.negate e else e
  match code with
  | 5 => expEnds p num den
  | 6 => (logIval (p + 80) a den).ends (p + 80) 0
  | 7 => if small then nudge num den (num < 0) else (trigIval (p + 140) false num den).ends (p + 140) 0
  | 8 => if small then nudge 1 1 false else (trigIval (p + 140) true num den).ends (p + 140) 0
  | 9 =>
    if small then nudge num den (num < 0)
    else if 64 * den ≤ a then onPos (nudge 1 1 false)
    else
      let q := p + 260
      let (e, k) := expIval q (2 * a) den
      let f (x : Int) : EV :=
        let y := x.toNat * 2 ^ k.toNat
        .fin false (y - 2 ^ q) (y + 2 ^ q)
      onPos (f e.lo, f e.hi)
  | 10 =>
    if small then (let v := nudge num den (0 < num)
                   let h (x : EV) : EV := .fin false ((2 ^ 3000 : Int) + x.num.sign).toNat (2 ^ 3001)
                   (h v.1, h v.2))
    else if num < 0 && 2000 * den ≤ a then tinyEnds
    else if 0 < num && 128 * den ≤ a then nudge 1 1 false
    else
      let q := p + 160
      let (e, k) := expIval q a den
      let g (x : Int) : Nat := x.toNat * 2 ^ k.toNat
      if num < 0 then (.fin false (2 ^ q) (g e.hi + 2 ^ q), .fin false (2 ^ q) (g e.lo + 2 ^ q))
      else (.fin false (g e.lo) (g e.lo + 2 ^ q), .fin false (g e.hi) (g e.hi + 2 ^ q))
  | 11 =>
    if 8 * den ≤ a then onPos (nudge 1 1 false)
    else
      let q := p + 140
      let x := Ival.ofFrac q a den
      let x2 := x.mul q x
      let s := seriesSum (fun n t => (t.mul q x2).scale 2 |>.divNat (2 * n + 3)) 2 (8 * q) 0 ⟨2 ^ q, 2 ^ q⟩ ⟨0, 0⟩
      let (e, k) := expIval q (-((a * a : Nat) : Int)) (den * den)
      let f := ((e.mul q s).mul q (twoOverSqrtPi q))
      let r (y : Int) : EV := (evMul (EV.pow2 false y.toNat (k - q)) (.fin false a den)).1
      onPos (r f.lo, r f.hi)
  | _ =>
    if 2000 * (den * den) ≤ a * a then tinyEnds
    else
      let q := p + 8
      if a * a * 2 ^ (p + 400) ≤ den * den then (let c := twoOverSqrtPi q; (⟨c.lo - 1, c.hi⟩ : Ival).ends q 0)
      else
        let (e, k) := expIval q (-((a * a : Nat) : Int)) (den * den)
        (e.mul q (twoOverSqrtPi q)).ends q k

/-- Rounds a transcendental value: the first precision at which both ends round alike, inexact and of one sign (18 R321). -/
def roundEnds (f : FpFmt) (mode : Nat) (enc : Nat → Ends) (ps : List Nat) (fallback : Nat) : Nat × FpFlags :=
  match ps with
  | [] => (Config.freeEncoding fallback % 2 ^ f.bits, { FpFlags.none with inexact := true })
  | p :: r =>
    let e := enc p
    let lo := roundFp f mode 0 e.1
    let hi := roundFp f mode 0 e.2
    if lo = hi && (lo.2.inexact) then lo else roundEnds f mode enc r fallback

/-- The precisions tried. -/
def precisions : List Nat := [80, 160, 320, 640, 1280]

/-- Coefficient 0 of a special function or auxiliary at a finite argument that is neither 0 nor an exact case. -/
def roundFn (f : FpFmt) (mode code : Nat) (v : EV) : Nat × FpFlags :=
  roundEnds f mode (fun p => fnEnds code p v.num v.den) precisions (code + 16 * (v.num.natAbs + v.den))

end Sys2Proof.Machine
end

