-- ==== Sys2Proof/Machine/VInt.lean ====
section
/-! DEFINITION. The V slots: integer forms, predicate logic, lane movement and the flag file (17 R310 to R315,
18 R325, R326). -/

namespace Sys2Proof.Machine

/-! Integer forms (17 R310, R311). -/

/-- sub is s: 0 signed, 1 unsigned. -/
def intSigned (v : VArgs) : Bool := v.sub = 0

/-- The exact value of operand B of a lane: the immediate or the source (17 R310). -/
def intB (v : VArgs) (bs : List Nat) (l : Nat) : Int :=
  if v.b then intVal (intSigned v) 11 v.sb else intVal (intSigned v) (4 * widthOf v.sw) (bs.getD l 0)

/-- Footprints of an integer form with two sources: an immediate is no ply address (10 R171). -/
def intFoot (v : VArgs) : List (Nat × Nat) :=
  [(v.dst, widthOf v.dw), (v.sa, widthOf v.sw)] ++ (if v.b then [] else [(v.sb, widthOf v.sw)])

/-- clamp (17 R311). -/
def clampInt (lo hi r : Int) : Int := if r < lo then lo else if hi < r then hi else r

/-- An integer form of two sources whose result f A B lands n cycles after issue as N bits. -/
def intBinary (f : Bool → Nat → Int → Int → Int) (n : Nat) (v : VArgs) (s : State) : Out :=
  vRun v neverIllegal (fun _ => intFoot v) (fun _ => 1)
    (fun _ m c =>
      let w := widthOf v.sw
      let nb := 4 * widthOf v.dw
      let as := c.plyVals v.sa w
      let bs := if v.b then [] else c.plyVals v.sb w
      c.landVec v n (widthOf v.dw) m (laneMap m fun l =>
        intCode nb (f (intSigned v) nb (intVal (intSigned v) (4 * w) (as.getD l 0)) (intB v bs l)))) s

/-- Wrapped addition. -/
def execViAdd (v : VArgs) (s : State) : Out := intBinary (fun _ _ a b => a + b) 2 v s
def execViSub (v : VArgs) (s : State) : Out := intBinary (fun _ _ a b => a - b) 2 v s
def execViMul (v : VArgs) (s : State) : Out := intBinary (fun _ _ a b => a * b) 3 v s

/-- Saturating forms. -/
def execViAddSat (v : VArgs) (s : State) : Out :=
  intBinary (fun g n a b => clampInt (intMin g n) (intMax g n) (a + b)) 2 v s
def execViSubSat (v : VArgs) (s : State) : Out :=
  intBinary (fun g n a b => clampInt (intMin g n) (intMax g n) (a - b)) 2 v s
def execViMulSat (v : VArgs) (s : State) : Out :=
  intBinary (fun g n a b => clampInt (intMin g n) (intMax g n) (a * b)) 3 v s

def execViMin (v : VArgs) (s : State) : Out := intBinary (fun _ _ a b => if b < a then b else a) 2 v s
def execViMax (v : VArgs) (s : State) : Out := intBinary (fun _ _ a b => if a < b then b else a) 2 v s

/-- Bitwise forms act on wrap(A) and wrap(B). -/
def execViAnd (v : VArgs) (s : State) : Out :=
  intBinary (fun _ n a b => (Nat.land (intCode n a) (intCode n b) : Nat)) 2 v s
def execViOr (v : VArgs) (s : State) : Out :=
  intBinary (fun _ n a b => (Nat.lor (intCode n a) (intCode n b) : Nat)) 2 v s
def execViXor (v : VArgs) (s : State) : Out :=
  intBinary (fun _ n a b => (Nat.xor (intCode n a) (intCode n b) : Nat)) 2 v s
def execViAndn (v : VArgs) (s : State) : Out :=
  intBinary (fun _ n a b => (Nat.land (intCode n a) (2 ^ n - 1 - intCode n b) : Nat)) 2 v s

/-- Shifts by B mod 64. -/
def execViShl (v : VArgs) (s : State) : Out := intBinary (fun _ _ a b => a * 2 ^ (b % 64).toNat) 2 v s
def execViShr (v : VArgs) (s : State) : Out := intBinary (fun _ _ a b => a.fdiv (2 ^ (b % 64).toNat)) 2 v s

/-- mulh: the product's bits from 4·SW up. -/
def execViMulh (v : VArgs) (s : State) : Out :=
  intBinary (fun _ _ a b => (a * b).fdiv (2 ^ (4 * widthOf v.sw))) 3 v s

/-- The condition of an integer compare (14 R256). -/
def intCond (cond : Nat) (a b : Int) : Bool :=
  match cond with
  | 0 => a == b
  | 1 => a != b
  | 2 => a < b
  | 3 => a ≤ b
  | 4 => b < a
  | _ => b ≤ a

/-- cmp: a predicate lands at issue+2. -/
def execViCmp (v : VArgs) (s : State) : Out :=
  let w := widthOf v.sw
  vRun v neverIllegal (fun _ => [(v.sa, w)] ++ (if v.b then [] else [(v.sb, w)])) (fun _ => 1)
    (fun _ m c =>
      let as := c.plyVals v.sa w
      let bs := if v.b then [] else c.plyVals v.sb w
      c.landBits v 2 m fun l => intCond v.dw (intVal (intSigned v) (4 * w) (as.getD l 0)) (intB v bs l)) s

/-- An integer form of one source. -/
def intUnary (f : Nat → Int → Int) (mask : Core → LaneMask → LaneMask) (v : VArgs) (s : State) : Out :=
  vRun v neverIllegal (fun _ => [(v.dst, widthOf v.dw), (v.sa, widthOf v.sw)]) (fun _ => 1)
    (fun _ m c =>
      let w := widthOf v.sw
      let nb := 4 * widthOf v.dw
      let as := c.plyVals v.sa w
      let m := mask c m
      c.landVec v 2 (widthOf v.dw) m (laneMap m fun l =>
        intCode nb (f nb (intVal (intSigned v) (4 * w) (as.getD l 0))))) s

/-- sel: wrap(A) where the predicate is 1. -/
def execViSel (v : VArgs) (s : State) : Out := intUnary (fun _ a => a) (fun c m => m &&& c.pred v.sb) v s
def execViAbs (v : VArgs) (s : State) : Out := intUnary (fun _ a => a.natAbs) (fun _ m => m) v s
def execViNeg (v : VArgs) (s : State) : Out := intUnary (fun _ a => -a) (fun _ m => m) v s

/-- mov of a source or of the immediate. -/
def execViMov (v : VArgs) (s : State) : Out :=
  if v.b then
    vRun v neverIllegal (fun _ => [(v.dst, widthOf v.dw)]) (fun _ => 1)
      (fun _ m c => c.landVec v 2 (widthOf v.dw) m
        (laneMap m fun _ => intCode (4 * widthOf v.dw) (intVal (intSigned v) 11 v.sb))) s
  else intUnary (fun _ a => a) (fun _ m => m) v s

/-! Predicate logic (17 R312). -/

/-- A function of two predicates, lane by lane. -/
def predLogic (f : LaneMask → LaneMask → LaneMask) (v : VArgs) (s : State) : Out :=
  vRun v neverIllegal (fun _ => []) (fun _ => 1)
    (fun _ m c => c.push 1 (srcV v.port) (.land (.pred v.dst m (f (c.pred v.sa) (c.pred v.sb))))) s

def execPand (v : VArgs) (s : State) : Out := predLogic (fun a b => a &&& b) v s
def execPor (v : VArgs) (s : State) : Out := predLogic (fun a b => a ||| b) v s
def execPxor (v : VArgs) (s : State) : Out := predLogic (fun a b => a ^^^ b) v s
def execPandn (v : VArgs) (s : State) : Out := predLogic (fun a b => a &&& ~~~b) v s
def execPorn (v : VArgs) (s : State) : Out := predLogic (fun a b => a ||| ~~~b) v s
def execPmov (v : VArgs) (s : State) : Out := predLogic (fun a _ => a) v s

/-! Lane movement (17 R313, R315). -/

/-- The source position of perm; none is a zero fill. -/
def permSource (mode p i : Nat) : Option Nat :=
  match mode with
  | 0 => some p
  | 1 => some ((i + p) % 16)
  | 2 => some (Nat.xor i p)
  | 3 => if p ≤ i then some (i - p) else none
  | 4 => if i + p < 16 then some (i + p) else none
  | _ => some (15 - i)

/-- perm: whole plies of a source lane of the group, at issue+2. -/
def execPerm (v : VArgs) (s : State) : Out :=
  let w := widthOf v.dw
  vRun v neverIllegal (fun _ => [(v.dst, w), (v.sa, w)]) (fun _ => 1)
    (fun _ m c =>
      let as := c.plyVals v.sa w
      c.landVec v 2 w m (laneMap m fun l =>
        match permSource (v.sb / 256) (v.sb % 16) (l % 16) with
        | some i => as.getD (l / 16 * 16 + i) 0
        | none => 0)) s

/-- The source group of xcopy. -/
def xcopySource (mode p g : Nat) : Nat :=
  match mode with
  | 0 => (g + p) % 8
  | 1 => Nat.xor g p
  | _ => p

/-- xcopy: whole plies of the same position of a source group, at issue+8. -/
def execXcopy (v : VArgs) (s : State) : Out :=
  let w := widthOf v.dw
  vRun v neverIllegal (fun _ => [(v.dst, w), (v.sa, w)]) (fun _ => 1)
    (fun _ m c =>
      let as := c.plyVals v.sa w
      c.landVec v 8 w m (laneMap m fun l => as.getD (16 * xcopySource (v.sb / 512) (v.sb % 8) (l / 16) + l % 16) 0)) s

/-! The flag file (18 R325, R326). -/

/-- The packed flag word of a lane (10 R177). -/
def Core.flagWord (c : Core) (l : Nat) : Nat :=
  (List.range 40).foldr (fun b acc => (if (Store.read c.flagFile b).getLsbD l then 1 else 0) + 2 * acc) 0

/-- flgrd: ten plies at issue+2. -/
def execFlgrd (v : VArgs) (s : State) : Out :=
  vRun v neverIllegal (fun _ => [(v.dst, 10)]) (fun _ => 1)
    (fun _ m c => c.landVec v 2 10 m (laneMap m fun l => c.flagWord l)) s

/-- flgclr: the clear lands at issue+1. -/
def execFlgclr (v : VArgs) (s : State) : Out :=
  vRun v neverIllegal (fun _ => [(v.sa, 10)]) (fun _ => 1)
    (fun _ m c =>
      let ms := c.plyVals v.sa 10
      let clear := (List.range 40).map fun b => (b, maskOf (ms.map fun x => x.testBit b) &&& m)
      c.push 1 (srcV v.port) (.land (.flags [] (clear.filter fun p => p.2 != 0)))) s

end Sys2Proof.Machine
end

