-- ==== Sys2Proof/Machine/VFloat.lean ====
section
/-! DEFINITION. The V slots: floating-point arithmetic on jets, compare, select, conversion and reduction (12 R222 to R224,
17 R302 to R309, R314). -/

namespace Sys2Proof.Machine

/-! Exact expressions with the flags they raise (12 R222). -/

/-- A value of an expression and the flags raised so far. -/
structure FV where
  v : EV
  fl : FpFlags
  deriving DecidableEq, Repr

/-- A source read: a signalling NaN raises invalid (17 R303). -/
def fvSrc (v : EV) : FV := ⟨if v.isNan then .nan false else v, { FpFlags.none with invalid := v.isSig }⟩

/-- Flags with invalid added. -/
def invalidIf (b : Bool) (f : FpFlags) : FpFlags := { f with invalid := f.invalid || b }

/-- An exact sum. -/
def fvSum (mode : Nat) (xs : List FV) : FV :=
  let r := evSum mode (xs.map fun x => x.v)
  ⟨r.1, invalidIf r.2 (xs.foldl (fun f x => f.or x.fl) FpFlags.none)⟩

/-- An exact product. -/
def fvMul (a b : FV) : FV :=
  let r := evMul a.v b.v
  ⟨r.1, invalidIf r.2 (a.fl.or b.fl)⟩

/-- An exact quotient. -/
def fvDiv (a b : FV) : FV :=
  let r := evDiv a.v b.v
  let f := invalidIf r.2.1 (a.fl.or b.fl)
  ⟨r.1, { f with divZero := f.divZero || r.2.2 }⟩

/-- Negation. -/
def fvNeg (a : FV) : FV := ⟨a.v.negate, a.fl⟩

/-- A product with the constant num/den, which is not 0. -/
def fvScale (num : Int) (den : Nat) (a : FV) : FV := fvMul ⟨.fin (num < 0) num.natAbs den, FpFlags.none⟩ a

/-- Rounds a coefficient once. -/
def fvRound (f : FpFmt) (mode r : Nat) (x : FV) : Coef :=
  let y := roundFp f mode r x.v
  (y.1, x.fl.or y.2)

/-- Coefficient j of a list of values, 0 beyond its end. -/
def nth (xs : List EV) (j : Nat) : EV := xs.getD j EV.zero

/-- Coefficients in ascending order: step gives coefficient j from those already rounded (12 R222). -/
def seriesFrom (f : FpFmt) (mode : Nat) (draw : Nat → Nat) (step : Nat → List EV → FV) (n j : Nat) (done : List EV) :
    List Coef :=
  match n with
  | 0 => []
  | k + 1 =>
    let x := fvRound f mode (draw j) (step j done)
    x :: seriesFrom f mode draw step k (j + 1) (done ++ [decodeFp f x.1])

/-- The sum over i from lo to hi of a term, in ascending order; no term is the empty list (12 R222). -/
def terms (lo hi : Nat) (f : Nat → FV) : List FV := ((List.range (hi + 1)).drop lo).map f

/-! Jet arithmetic (12 R223). -/

/-- The products of a convolution. -/
def convTerms (a b : List EV) (lo hi j : Nat) : List FV :=
  terms lo hi fun i => fvMul (fvSrc (nth a i)) (fvSrc (nth b (j - i)))

/-- x minus a sum; x alone when the sum has no terms (12 R217). -/
def minusSum (mode : Nat) (x : FV) (ts : List FV) : FV :=
  if ts.isEmpty then x else fvSum mode [x, fvNeg (fvSum mode ts)]

def stepAdd (mode : Nat) (a b : List EV) (j : Nat) (_ : List EV) : FV :=
  fvSum mode [fvSrc (nth a j), fvSrc (nth b j)]
def stepSub (mode : Nat) (a b : List EV) (j : Nat) (_ : List EV) : FV :=
  fvSum mode [fvSrc (nth a j), fvNeg (fvSrc (nth b j))]
def stepMul (mode : Nat) (a b : List EV) (j : Nat) (_ : List EV) : FV := fvSum mode (convTerms a b 0 j j)
def stepFma (mode : Nat) (a b c : List EV) (j : Nat) (_ : List EV) : FV :=
  fvSum mode [fvSum mode (convTerms a b 0 j j), fvSrc (nth c j)]
def stepDiv (mode : Nat) (a b : List EV) (j : Nat) (d : List EV) : FV :=
  fvDiv (minusSum mode (fvSrc (nth a j))
      (if j = 0 then [] else terms 0 (j - 1) fun i => fvMul (fvSrc (nth d i)) (fvSrc (nth b (j - i)))))
    (fvSrc (nth b 0))

/-- The root of coefficient 0 (17 R305). -/
def fvSqrt (v : EV) : FV :=
  let x := fvSrc v
  match v with
  | .inf false => x
  | .inf true => ⟨.nan false, invalidIf true x.fl⟩
  | .fin s n d =>
    if n = 0 then x
    else if s then ⟨.nan false, invalidIf true x.fl⟩
    else let r := sqrtFrac n d; ⟨.fin false r.1 r.2, x.fl⟩
  | .nan _ => x

def stepSqrt (mode : Nat) (a : List EV) (j : Nat) (d : List EV) : FV :=
  if j = 0 then fvSqrt (nth a 0)
  else fvDiv (minusSum mode (fvSrc (nth a j))
      (if j = 1 then [] else terms 1 (j - 1) fun i => fvMul (fvSrc (nth d i)) (fvSrc (nth d (j - i)))))
    (fvScale 2 1 (fvSrc (nth d 0)))

/-! Running a float form. -/

/-- The exact coefficients of a lane. -/
def laneVals (f : FpFmt) (js : List (List Nat)) (l : Nat) : List EV := (laneJet js l).map (decodeFp f)

/-- Footprints of a form whose operands are whole jets. -/
def jetFoot (v : VArgs) (srcs : List Nat) (k : Nat) : List (Nat × Nat) :=
  (v.dst :: srcs).map fun p => (p, (k + 1) * fmtPlies v.sub)

/-- A float form whose coefficients of a lane come from its sources' codes: lands n(c) cycles after issue. -/
def floatRun (v : VArgs) (srcs : List Nat) (occ : Nat → Nat) (more : Nat)
    (f : Rnd → Nat → Nat → List (List Nat) → List Coef) (s : State) : Out :=
  let w := fmtPlies v.sub
  vRun v neverIllegal (jetFoot v srcs) occ
    (fun k m c =>
      let r := c.rnd v.port 7 (rsAllowed v.sub)
      let js := srcs.map fun p => c.jetVals p w k
      c.landJet v (occ k + more) w k m fun l => f r k l (js.map fun j => laneJet j l)) s

/-- A form of two jets by a step of 12 R223. -/
def floatBinary2 (occ : Nat → Nat) (more : Nat) (step : Nat → List EV → List EV → Nat → List EV → FV) (v : VArgs)
    (s : State) : Out :=
  let f := fpFmt v.sub
  floatRun v [v.sa, v.sb] occ more
    (fun r k l js =>
      let a := (js.getD 0 []).map (decodeFp f)
      let b := (js.getD 1 []).map (decodeFp f)
      seriesFrom f r.mode (r.draw l) (step r.mode a b) (k + 1) 0 []) s

/-- Occupancies (17 R300). -/
def occLin (k : Nat) : Nat := ceilDiv (k + 1) 4
def occQuad (k : Nat) : Nat := ceilDiv ((k + 1) * (k + 2)) 8
def occDiv (v : VArgs) (k : Nat) : Nat := occQuad k + (if v.sub = 0 then 7 else 3)

def execVfAdd (v : VArgs) (s : State) : Out := floatBinary2 occLin 3 stepAdd v s
def execVfSub (v : VArgs) (s : State) : Out := floatBinary2 occLin 3 stepSub v s
def execVfMul (v : VArgs) (s : State) : Out := floatBinary2 occQuad 4 stepMul v s
def execVfDiv (v : VArgs) (s : State) : Out := floatBinary2 (occDiv v) 6 stepDiv v s

/-- fma: the addend is the destination at issue (17 R302). -/
def execVfFma (v : VArgs) (s : State) : Out :=
  let f := fpFmt v.sub
  floatRun v [v.sa, v.sb, v.dst] occQuad 4
    (fun r k l js =>
      let x (i : Nat) : List EV := (js.getD i []).map (decodeFp f)
      seriesFrom f r.mode (r.draw l) (stepFma r.mode (x 0) (x 1) (x 2)) (k + 1) 0 []) s

/-- sqrt (17 R305). -/
def execSqrt (v : VArgs) (s : State) : Out :=
  let f := fpFmt v.sub
  floatRun v [v.sa] (occDiv v) 6
    (fun r k l js =>
      seriesFrom f r.mode (r.draw l) (stepSqrt r.mode ((js.getD 0 []).map (decodeFp f))) (k + 1) 0 []) s

/-! min, max, abs, neg (17 R304, R305). -/

/-- The choice of min (less := true) or max on two codes of coefficient 0: 0 for a, 1 for b, 2 for a canonical NaN. -/
def chooseMinMax (less : Bool) (a b : EV) : Nat :=
  match a.isNan, b.isNan with
  | true, true => 2
  | true, false => 1
  | false, true => 0
  | false, false =>
    if a.isZero && b.isZero then
      (if a.isNeg = b.isNeg then 0 else if a.isNeg = less then 0 else 1)
    else if evLt a b then (if less then 0 else 1)
    else if evLt b a then (if less then 1 else 0)
    else 0

/-- The jet that min or max carries, bit for bit. -/
def minMaxJet (f : FpFmt) (less : Bool) (a b : List Nat) : List Coef :=
  let a0 := decodeFp f (a.headD 0)
  let b0 := decodeFp f (b.headD 0)
  let cs := match chooseMinMax less a0 b0 with
    | 0 => a
    | 1 => b
    | _ => f.nan :: a.tail
  match cs with
  | [] => []
  | c :: r => (c, invalidIf (a0.isSig || b0.isSig) FpFlags.none) :: r.map fun x => (x, FpFlags.none)

def execVfMin (v : VArgs) (s : State) : Out :=
  floatRun v [v.sa, v.sb] occLin 3
    (fun _ _ _ js => minMaxJet (fpFmt v.sub) true (js.getD 0 []) (js.getD 1 [])) s
def execVfMax (v : VArgs) (s : State) : Out :=
  floatRun v [v.sa, v.sb] occLin 3
    (fun _ _ _ js => minMaxJet (fpFmt v.sub) false (js.getD 0 []) (js.getD 1 [])) s

/-- A coefficient with its sign changed or kept; a NaN becomes canonical. -/
def signCoef (f : FpFmt) (flip : Bool) (code : Nat) : Coef :=
  let x := decodeFp f code
  if x.isNan then (f.nan, invalidIf x.isSig FpFlags.none)
  else (if flip then Nat.xor code (2 ^ (f.bits - 1)) else code, FpFlags.none)

/-- abs: the sign of coefficient 0 decides; a NaN there counts as sign 0. -/
def execVfAbs (v : VArgs) (s : State) : Out :=
  let f := fpFmt v.sub
  floatRun v [v.sa] occLin 1
    (fun _ _ _ js =>
      let a := js.getD 0 []
      a.map (signCoef f (decodeFp f (a.headD 0)).isNeg)) s

def execVfNeg (v : VArgs) (s : State) : Out :=
  floatRun v [v.sa] occLin 1 (fun _ _ _ js => (js.getD 0 []).map (signCoef (fpFmt v.sub) true)) s

/-! Compare and select (17 R306, R307). -/

/-- The truth of a condition and its invalid. -/
def floatCond (cond : Nat) (a b : EV) : Bool × Bool :=
  let un := a.isNan || b.isNan
  let sig := a.isSig || b.isSig
  match cond with
  | 0 => (!un && evEq a b, sig)
  | 1 => (un || !evEq a b, sig)
  | 2 => (!un && evLt a b, un)
  | 3 => (!un && !evLt b a, un)
  | 4 => (!un && evLt b a, un)
  | 5 => (!un && !evLt a b, un)
  | 6 => (un, sig)
  | _ => (!un, sig)

/-- cmp: coefficient 0 only, the predicate and the flags land at issue+2. -/
def execVfCmp (v : VArgs) (s : State) : Out :=
  let w := fmtPlies v.sub
  let f := fpFmt v.sub
  vRun v neverIllegal (fun _ => [(v.sa, w), (v.sb, w)]) (fun _ => 1)
    (fun _ m c =>
      let as := c.plyVals v.sa w
      let bs := c.plyVals v.sb w
      let res := lanes.map fun l =>
        if m.getLsbD l then floatCond v.dw (decodeFp f (as.getD l 0)) (decodeFp f (bs.getD l 0)) else (false, false)
      (c.landBits v 2 m fun l => (res.getD l (false, false)).1).landFlagCodes v 2 0 m
        (res.map fun x => [if x.2 then 16 else 0])) s

/-- sel: whole jets bit for bit where the predicate is 1. -/
def execVfSel (v : VArgs) (s : State) : Out :=
  let w := fmtPlies v.sub
  vRun v neverIllegal (jetFoot v [v.sa]) occLin
    (fun k m c =>
      let js := c.jetVals v.sa w k
      let m := m &&& c.pred v.sb
      c.landVec v (occLin k + 1) (w * (k + 1)) m (laneMap m fun l => joinJet w (laneJet js l))) s

/-! Conversion (17 R308, R309). -/

/-- The exact value of a source coefficient. -/
def cvtSource (v : VArgs) (code : Nat) : EV :=
  if v.sb % 8 = 7 then EV.ofInt (intVal (v.sub = 0) (4 * widthOf v.sw) code) else decodeFp (fpFmt (v.sb % 8)) code

/-- The conversion of one coefficient. -/
def cvtCoef (v : VArgs) (mode r code : Nat) : Conv :=
  let x := cvtSource v code
  let pol := v.sb / 64 % 4
  if v.sb / 8 % 8 = 7 then convInt (v.sub = 0) (4 * widthOf v.dw) mode pol x
  else convFloat (fpFmt (v.sb / 8 % 8)) mode pol r x

/-- cvt: under policy 11 a trap case in an active lane makes the landing a CVT trap. -/
def execCvt (v : VArgs) (s : State) : Out :=
  let dw := widthOf v.dw
  let sw := widthOf v.sw
  vRun v neverIllegal (fun k => [(v.dst, (k + 1) * dw), (v.sa, (k + 1) * sw)]) occLin
    (fun k m c =>
      let r := c.rnd v.port (v.sb / 256) (rsAllowed (v.sb / 8 % 8))
      let js := c.jetVals v.sa sw k
      let res : List (List Conv) := lanes.map fun l =>
        if m.getLsbD l then (laneJet js l).zipIdx.map fun x => cvtCoef v r.mode (r.draw l x.2) x.1 else []
      let n := occLin k + 3
      let d : Dest := .plies v.dst (dw * (k + 1)) m (res.map fun cs => joinJet dw (cs.map fun x => x.code))
      let trap := res.any fun cs => cs.any fun x => x.trap
      let c := c.push n (srcV v.port) (if trap then .landTrap d else .land d)
      c.landFlagCodes v n k m (res.map fun cs => cs.map fun x => x.flags.code)) s

/-! Reduction within a group (17 R314). -/

/-- One level of the tree: comb at positions i and i+sp for every i a multiple of 2·sp. -/
def redLevel {α : Type} (comb : Nat → α → α → α) (sp : Nat) (t : List (Option α)) : List (Option α) :=
  t.mapIdx fun i x =>
    if i % (2 * sp) = 0 then
      match x, t.getD (i + sp) none with
      | some a, some b => some (comb i a b)
      | some a, none => some a
      | none, y => y
    else x

/-- The tree over the sixteen positions of a group. -/
def redTree {α : Type} (comb : Nat → α → α → α) (t : List (Option α)) : Option α :=
  ([1, 2, 4, 8].foldl (fun t sp => redLevel comb sp t) t).headD none

/-- A jet with the flags gathered so far at each position. -/
def redJoin (f : FpFmt) (op : Nat) (r : Rnd) (g i : Nat) (a b : List Coef) : List Coef :=
  let av := a.map fun x => x.1
  let bv := b.map fun x => x.1
  let res := match op with
    | 0 => seriesFrom f r.mode (r.draw (16 * g + i)) (stepAdd r.mode (av.map (decodeFp f)) (bv.map (decodeFp f))) a.length 0 []
    | _ => minMaxJet f (op = 1) av bv
  res.mapIdx fun j x => (x.1, (x.2.or (a.getD j (0, FpFlags.none)).2).or (b.getD j (0, FpFlags.none)).2)

/-- comb of the integer types; the bitwise ones act on two's complement. -/
def redInt (sgn : Bool) (op : Nat) (a b : Int) : Int :=
  match op with
  | 1 => if b < a then b else a
  | 2 => if a < b then b else a
  | 4 => intVal sgn 64 (Nat.land (intCode 64 a) (intCode 64 b))
  | 5 => intVal sgn 64 (Nat.lor (intCode 64 a) (intCode 64 b))
  | 6 => intVal sgn 64 (Nat.xor (intCode 64 a) (intCode 64 b))
  | _ => a + b

/-- The positions of a group that are present. -/
def present {α : Type} (m : LaneMask) (g : Nat) (f : Nat → α) : List (Option α) :=
  (List.range 16).map fun i => if m.getLsbD (16 * g + i) then some (f (16 * g + i)) else none

/-- red. -/
def execRed (v : VArgs) (s : State) : Out :=
  let op := v.sb / 256
  let ty := v.sb / 32 % 8
  let dw := widthOf v.dw
  let sw := widthOf v.sw
  if ty < 4 then
    let f := fpFmt ty
    vRun v neverIllegal (fun k => [(v.dst, (k + 1) * dw), (v.sa, (k + 1) * sw)]) occLin
      (fun k m c =>
        let r := c.rnd v.port 7 (rsAllowed ty)
        let js := c.jetVals v.sa sw k
        let gs := (List.range 8).map fun g =>
          (redTree (redJoin f op r g) (present m g fun l => (laneJet js l).map fun x => (x, FpFlags.none))).getD []
        c.landJet v (occLin k + 7) dw k m fun l => gs.getD (l / 16) []) s
  else
    vRun v neverIllegal (fun _ => [(v.dst, dw), (v.sa, sw)]) (fun _ => 1)
      (fun _ m c =>
        let sgn : Bool := ty = 4
        let as := c.plyVals v.sa sw
        let gs := (List.range 8).map fun g =>
          let x := (redTree (fun _ => redInt sgn op) (present m g fun l => intVal sgn (4 * sw) (as.getD l 0))).getD 0
          intCode (4 * dw) (if op = 3 then clampInt (intMin sgn (4 * dw)) (intMax sgn (4 * dw)) x else x)
        c.landVec v 4 dw m (laneMap m fun l => gs.getD (l / 16) 0)) s

end Sys2Proof.Machine
end

