-- ==== Sys2Proof/Machine/VJet.lean ====
section
/-! DEFINITION. The V slots: jets and special functions (12 R224, 18 R317 to R324). -/

namespace Sys2Proof.Machine

/-! Jet forms (18 R317 to R319). -/

/-- The coefficient number J of a jet form. -/
def jetJ (v : VArgs) : Nat := v.sb % 8

/-- A jet form with a coefficient number: ILLEGAL above the order (18 R317). -/
def jetIllegal (v : VArgs) (c : Core) : Bool := c.jord < jetJ v

/-- The encoding of 1 in a format. -/
def oneCode (f : FpFmt) : Nat := f.bias * 2 ^ f.fb

/-- jseed: the series of the identity at a. -/
def execJseed (v : VArgs) (s : State) : Out :=
  let w := fmtPlies v.sub
  vRun v neverIllegal (fun k => [(v.dst, (k + 1) * w), (v.sa, w)]) occLin
    (fun k m c =>
      let as := c.plyVals v.sa w
      c.landVec v (occLin k + 1) (w * (k + 1)) m (laneMap m fun l =>
        joinJet w ((as.getD l 0 :: if k = 0 then [] else [oneCode (fpFmt v.sub)])))) s

/-- jset: one coefficient of the destination. -/
def execJset (v : VArgs) (s : State) : Out :=
  let w := fmtPlies v.sub
  vRun v (jetIllegal v) (fun k => [(v.dst, (k + 1) * w), (v.sa, w)]) (fun _ => 1)
    (fun _ m c =>
      let as := c.plyVals v.sa w
      c.push 2 (srcV v.port) (.land (.plies (v.dst + jetJ v * w) w m (laneMap m fun l => as.getD l 0)))) s

/-- jget: one coefficient, bit for bit. -/
def execJget (v : VArgs) (s : State) : Out :=
  let w := fmtPlies v.sub
  vRun v (jetIllegal v) (fun k => [(v.dst, w), (v.sa, (k + 1) * w)]) (fun _ => 1)
    (fun _ m c =>
      let as := c.plyVals (v.sa + jetJ v * w) w
      c.landVec v 2 w m (laneMap m fun l => as.getD l 0)) s

/-- jget.d: the derivative J!·a_J, rounded once; its flags go to position 0. -/
def execJgetD (v : VArgs) (s : State) : Out :=
  let w := fmtPlies v.sub
  let f := fpFmt v.sub
  vRun v (jetIllegal v) (fun k => [(v.dst, w), (v.sa, (k + 1) * w)]) (fun _ => 1)
    (fun _ m c =>
      let r := c.rnd v.port 7 (rsAllowed v.sub)
      let as := c.plyVals (v.sa + jetJ v * w) w
      c.landJet v 4 w 0 m fun l =>
        [fvRound f r.mode (r.draw l 0) (fvScale ([1, 1, 2, 6, 24, 120, 720, 5040].getD (jetJ v) 1) 1 (fvSrc (decodeFp f (as.getD l 0))))]) s

/-- A jet form on whole jets. -/
def jetRun (v : VArgs) (more : Nat) (g : Nat → Nat → List EV → Option FV) (s : State) : Out :=
  let f := fpFmt v.sub
  floatRun v [v.sa] occLin more
    (fun r k l js =>
      let a := (js.getD 0 []).map (decodeFp f)
      (List.range (k + 1)).map fun j =>
        match g k j a with
        | some x => fvRound f r.mode (r.draw l j) x
        | none => (0, FpFlags.none)) s

/-- jdif: the derivative's series. -/
def execJdif (v : VArgs) (s : State) : Out :=
  jetRun v 4 (fun k j a => if j < k then some (fvScale (j + 1 : Nat) 1 (fvSrc (nth a (j + 1)))) else none) s

/-- jint: the integral's series from 0. -/
def execJint (v : VArgs) (s : State) : Out :=
  jetRun v 6 (fun _ j a => if j = 0 then none else some (fvScale 1 j (fvSrc (nth a (j - 1))))) s

/-! Special functions (18 R320 to R324). -/

/-- Coefficient 0 of a special function, with its special arguments (18 R322). -/
def fnZero (f : FpFmt) (mode code : Nat) (a : EV) : Coef :=
  let x := fvSrc a
  let nan : Coef := (f.nan, invalidIf true FpFlags.none)
  let exact (v : EV) : Coef := roundFp f mode 0 v
  let one : EV := .fin false 1 1
  match a with
  | .nan _ => (f.nan, x.fl)
  | .inf neg =>
    match code, neg with
    | 3, s => exact (.fin s 0 1)
    | 4, false => exact EV.zero
    | 5, false => exact (.inf false)
    | 5, true => exact EV.zero
    | 6, false => exact (.inf false)
    | 9, s => exact (.fin s 1 1)
    | 10, false => exact one
    | 10, true => exact EV.zero
    | 11, s => exact (.fin s 1 1)
    | 12, _ => exact EV.zero
    | _, _ => nan
  | .fin s n d =>
    if n = 0 then
      match code with
      | 3 | 4 => (infCode f s, { FpFlags.none with divZero := true })
      | 5 => exact one
      | 6 => (infCode f true, { FpFlags.none with divZero := true })
      | 8 => exact one
      | 10 => exact (.fin false 1 2)
      | 12 => roundFn0 f mode
      | _ => exact a
    else
      match code with
      | 3 => exact (.fin s d n)
      | 4 => if s then nan else (let r := sqrtFrac d n; exact (.fin false r.1 r.2))
      | 6 => if s then nan else if n = d then exact EV.zero else roundFn f mode 6 a
      | c => roundFn f mode c a
where
  /-- 2/√π, the value of G at 0. -/
  roundFn0 (f : FpFmt) (mode : Nat) : Coef :=
    roundEnds f mode (fun p => (twoOverSqrtPi p).ends p 0) precisions 12

/-- Σ over i from 1 to j of i·x_i·y_(j-i), over j, with a sign (12 R224). -/
def weighted (mode : Nat) (num : Int) (x y : List EV) (j : Nat) : FV :=
  fvScale num j (fvSum mode (terms 1 j fun i => fvScale (i : Nat) 1 (fvMul (fvSrc (nth x i)) (fvSrc (nth y (j - i))))))

/-- An auxiliary held exactly: its values with the flags met in forming each. -/
abbrev ExactAux := List FV

/-- Coefficient j of w for tanh and sigmoid (12 R224). -/
def auxW (mode code : Nat) (fs : List EV) (j : Nat) : FV :=
  let sq := fvSum mode (terms 0 j fun i => fvMul (fvSrc (nth fs i)) (fvSrc (nth fs (j - i))))
  if code = 9 then (if j = 0 then fvSum mode [fvSrc (.fin false 1 1), fvNeg sq] else fvNeg sq)
  else fvSum mode [fvSrc (nth fs j), fvNeg sq]

/-- Coefficient j of h for erf (12 R224). -/
def auxH (mode : Nat) (a : List EV) (j : Nat) : FV :=
  fvNeg (fvSum mode (terms 0 j fun i => fvMul (fvSrc (nth a i)) (fvSrc (nth a (j - i)))))

/-- Adds flags to a coefficient. -/
def addFlags (x : Coef) (f : FpFlags) : Coef := (x.1, x.2.or f)

/-- The recurrence of a special function (12 R224, 18 R323): from coefficient j on, with the result's coefficients so far and
the auxiliary's. The result coefficient is formed first, then the auxiliary's, whose flags join position j. -/
def fnSeries (f : FpFmt) (mode code : Nat) (a : List EV) (n j : Nat) (fs aux hs : List EV) : List Coef :=
  match n with
  | 0 => []
  | k + 1 =>
    let dec (x : Coef) : EV := decodeFp f x.1
    let rnd (x : FV) : Coef := fvRound f mode 0 x
    let go (x : Coef) (auxv hv : EV) (fl : FpFlags) : List Coef :=
      addFlags x fl :: fnSeries f mode code a k (j + 1) (fs ++ [dec x]) (aux ++ [auxv]) (hs ++ [hv])
    if j = 0 then
      let x := fnZero f mode code (nth a 0)
      match code with
      | 7 => let c := fnZero f mode 8 (nth a 0); go x (dec c) EV.zero c.2
      | 8 => let s := fnZero f mode 7 (nth a 0); go x (dec s) EV.zero s.2
      | 9 | 10 => let w := auxW mode code [dec x] 0; go x w.v EV.zero w.fl
      | 11 =>
        let h := auxH mode a 0
        let g := fnZero f mode 12 (nth a 0)
        go x (dec g) h.v (h.fl.or g.2)
      | _ => go x EV.zero EV.zero FpFlags.none
    else
      match code with
      | 3 =>
        go (rnd (fvDiv (fvNeg (fvSum mode (terms 1 j fun i => fvMul (fvSrc (nth a i)) (fvSrc (nth fs (j - i))))))
          (fvSrc (nth a 0)))) EV.zero EV.zero FpFlags.none
      | 4 =>
        let num := fvSum mode (terms 1 j fun i =>
          fvScale ((i : Int) - 2 * j) 2 (fvMul (fvSrc (nth a i)) (fvSrc (nth fs (j - i)))))
        go (rnd (fvDiv num (fvScale (j : Nat) 1 (fvSrc (nth a 0))))) EV.zero EV.zero FpFlags.none
      | 5 => go (rnd (weighted mode 1 a fs j)) EV.zero EV.zero FpFlags.none
      | 6 =>
        let ts := if j = 1 then [] else terms 1 (j - 1) fun i =>
          fvScale (i : Nat) 1 (fvMul (fvSrc (nth fs i)) (fvSrc (nth a (j - i))))
        let num := if ts.isEmpty then fvSrc (nth a j)
          else fvSum mode [fvSrc (nth a j), fvNeg (fvScale 1 j (fvSum mode ts))]
        go (rnd (fvDiv num (fvSrc (nth a 0)))) EV.zero EV.zero FpFlags.none
      | 7 =>
        let x := rnd (weighted mode 1 a aux j)
        let c := rnd (weighted mode (-1) a fs j)
        go x (dec c) EV.zero c.2
      | 8 =>
        let x := rnd (weighted mode (-1) a aux j)
        let s := rnd (weighted mode 1 a fs j)
        go x (dec s) EV.zero s.2
      | 9 | 10 =>
        let x := rnd (weighted mode 1 a aux j)
        let w := auxW mode code (fs ++ [dec x]) j
        go x w.v EV.zero w.fl
      | _ =>
        let x := rnd (weighted mode 1 a aux j)
        let h := auxH mode a j
        let g := rnd (weighted mode 1 (hs ++ [h.v]) aux j)
        go x (dec g) h.v (h.fl.or g.2)

/-- Occupancy of a special function (18 R324). -/
def fnOcc (v : VArgs) (code k : Nat) : Nat :=
  let f64 : Bool := v.sub = 0
  let c0 := if code ≤ 4 then (if f64 then 7 else 3) else (if f64 then 12 else 4)
  c0 + (if code ≤ 6 then 1 else 2) * ceilDiv (k * (k + 1)) 8

/-- A special function: RS acts as RNE (18 R321). -/
def specialFn (code : Nat) (v : VArgs) (s : State) : Out :=
  let f := fpFmt v.sub
  floatRun v [v.sa] (fnOcc v code) 6
    (fun r k _ js =>
      fnSeries f (if r.mode = 4 then 0 else r.mode) code ((js.getD 0 []).map (decodeFp f)) (k + 1) 0 [] [] []) s

def execRcp (v : VArgs) (s : State) : Out := specialFn 3 v s
def execRsqrt (v : VArgs) (s : State) : Out := specialFn 4 v s
def execExp (v : VArgs) (s : State) : Out := specialFn 5 v s
def execLog (v : VArgs) (s : State) : Out := specialFn 6 v s
def execSin (v : VArgs) (s : State) : Out := specialFn 7 v s
def execCos (v : VArgs) (s : State) : Out := specialFn 8 v s
def execTanh (v : VArgs) (s : State) : Out := specialFn 9 v s
def execSigmoid (v : VArgs) (s : State) : Out := specialFn 10 v s
def execErf (v : VArgs) (s : State) : Out := specialFn 11 v s

end Sys2Proof.Machine
end

