-- ==== Sys2Proof/Machine/XSlot.lean ====
section
/-! DEFINITION. The X slot (16 R281 to R285): one meaning per form over one shared operation. -/

namespace Sys2Proof.Machine

/-- The scalars an X form reads: SA, SB under I = 0, and the destination of ins and movh. -/
def xSources (x : XArgs) (readsDst : Bool) : List Nat :=
  [x.sa, if x.imm then 0 else x.sb, if readsDst then x.dst else 0]

/-- Operands A, B and the destination's value, and the core after its pops (16 R281, 10 R184). -/
def xOperands (x : XArgs) (readsDst : Bool) (c : Core) : Word × Word × Word × Core :=
  let r := c.readScalars (xSources x readsDst)
  (r.1.getD 0 0, xOperandB x (r.1.getD 1 0), r.1.getD 2 0, r.2)

/-- A scalar form: f of A, B and the old destination lands in s[DST] at issue+lat (16 R281). -/
def xScalar (x : XArgs) (readsDst : Bool) (lat : Nat) (f : Word → Word → Word → Word) (s : State) : Out :=
  slotRun x.guard noChecks
    (fun s => s.onCur fun c =>
      let o := xOperands x readsDst c
      o.2.2.2.push lat srcX (.land (.scalar x.dst (f o.1 o.2.1 o.2.2.1)))) s

/-- A compare: the bit lands in every lane of p[DST] at issue+1 (16 R283). -/
def xCompare (x : XArgs) (f : Word → Word → Bool) (s : State) : Out :=
  slotRun x.guard noChecks
    (fun s => s.onCur fun c =>
      let o := xOperands x false c
      o.2.2.2.push 1 srcX (.land (.pred x.dst (BitVec.allOnes 128) (allLanes (f o.1 o.2.1))))) s

/-- Position of a bit field (14 R252). -/
def xPos (x : XArgs) : Nat := x.layout % 64

/-- Length of a bit field (14 R252). -/
def xLen (x : XArgs) : Nat := x.layout / 64 % 64 + 1

/-- Bits [63:32] replaced for movh: the literal or zext(SB, 32) (16 R284). -/
def xHigh (x : XArgs) : Nat := (x.lit.getD x.sb) % 2 ^ 32

/-- Number of 1 bits. -/
def popCount (v : Nat) : Nat := (List.range 64).foldl (fun n i => if v.testBit i then n + 1 else n) 0

/-- Number of leading zeros of a 64-bit value. -/
def leadingZeros (v : Nat) : Nat := if v = 0 then 64 else 63 - v.log2

/-- The index of loop level n, counted from the first pushed; 0 if the level is empty (09 R149). -/
def Core.loopIndex (c : Core) (n : Nat) : Word :=
  match c.loops.reverse[n]? with
  | some l => BitVec.ofNat 64 l.index
  | none => 0

def execXAdd (x : XArgs) (s : State) : Out := xScalar x false 1 (fun a b _ => a + b) s
def execXSub (x : XArgs) (s : State) : Out := xScalar x false 1 (fun a b _ => a - b) s
def execXMul (x : XArgs) (s : State) : Out := xScalar x false 3 (fun a b _ => a * b) s
def execMulhu (x : XArgs) (s : State) : Out :=
  xScalar x false 3 (fun a b _ => BitVec.ofNat 64 (a.toNat * b.toNat / 2 ^ 64)) s
def execMulhs (x : XArgs) (s : State) : Out :=
  xScalar x false 3 (fun a b _ => BitVec.ofInt 64 ((a.toInt * b.toInt) / 2 ^ 64)) s
def execXAnd (x : XArgs) (s : State) : Out := xScalar x false 1 (fun a b _ => a &&& b) s
def execXOr (x : XArgs) (s : State) : Out := xScalar x false 1 (fun a b _ => a ||| b) s
def execXXor (x : XArgs) (s : State) : Out := xScalar x false 1 (fun a b _ => a ^^^ b) s
def execXShl (x : XArgs) (s : State) : Out := xScalar x false 1 (fun a b _ => a <<< (b.toNat % 64)) s
def execXShr (x : XArgs) (s : State) : Out := xScalar x false 1 (fun a b _ => a >>> (b.toNat % 64)) s
def execSar (x : XArgs) (s : State) : Out := xScalar x false 1 (fun a b _ => a.sshiftRight (b.toNat % 64)) s
def execXMin (x : XArgs) (s : State) : Out := xScalar x false 1 (fun a b _ => if a.toInt ≤ b.toInt then a else b) s
def execXMax (x : XArgs) (s : State) : Out := xScalar x false 1 (fun a b _ => if a.toInt ≤ b.toInt then b else a) s
def execMinu (x : XArgs) (s : State) : Out := xScalar x false 1 (fun a b _ => if a.toNat ≤ b.toNat then a else b) s
def execMaxu (x : XArgs) (s : State) : Out := xScalar x false 1 (fun a b _ => if a.toNat ≤ b.toNat then b else a) s
def execCeq (x : XArgs) (s : State) : Out := xCompare x (fun a b => a == b) s
def execCne (x : XArgs) (s : State) : Out := xCompare x (fun a b => a != b) s
def execClt (x : XArgs) (s : State) : Out := xCompare x (fun a b => a.toInt < b.toInt) s
def execCltu (x : XArgs) (s : State) : Out := xCompare x (fun a b => a.toNat < b.toNat) s
def execCle (x : XArgs) (s : State) : Out := xCompare x (fun a b => a.toInt ≤ b.toInt) s
def execCleu (x : XArgs) (s : State) : Out := xCompare x (fun a b => a.toNat ≤ b.toNat) s

/-- ext (16 R284): zext of A[pos+len-1:pos]. -/
def execExt (x : XArgs) (s : State) : Out :=
  xScalar x false 1 (fun a _ _ => BitVec.ofNat 64 (a.toNat / 2 ^ xPos x % 2 ^ xLen x)) s

/-- exts (16 R284): sext of A[pos+len-1:pos]. -/
def execExts (x : XArgs) (s : State) : Out :=
  xScalar x false 1 (fun a _ _ => sextNat (xLen x) (a.toNat / 2 ^ xPos x)) s

/-- ins (16 R284): bits [pos+len-1:pos] of the destination replaced by A[len-1:0]. -/
def execIns (x : XArgs) (s : State) : Out :=
  xScalar x true 1 (fun a _ d =>
    let m := BitVec.ofNat 64 ((2 ^ xLen x - 1) * 2 ^ xPos x)
    (d &&& ~~~m) ||| (BitVec.ofNat 64 (a.toNat % 2 ^ xLen x * 2 ^ xPos x) &&& m)) s

/-- movh (16 R284): bits [63:32] of the destination replaced. -/
def execMovh (x : XArgs) (s : State) : Out :=
  xScalar x true 1 (fun _ _ d => BitVec.ofNat 64 (d.toNat % 2 ^ 32 + xHigh x * 2 ^ 32)) s

/-- rdi (16 R285): the index of loop level SA; no scalar is read. -/
def execRdi (x : XArgs) (s : State) : Out :=
  slotRun x.guard noChecks
    (fun s => s.onCur fun c => c.push 1 srcX (.land (.scalar x.dst (c.loopIndex x.sa)))) s

def execPopc (x : XArgs) (s : State) : Out := xScalar x false 1 (fun a _ _ => BitVec.ofNat 64 (popCount a.toNat)) s
def execClz (x : XArgs) (s : State) : Out :=
  xScalar x false 1 (fun a _ _ => BitVec.ofNat 64 (leadingZeros a.toNat)) s

end Sys2Proof.Machine
end

