-- ==== Sys2Proof/Machine/Dispatch.lean ====
section
/-! DEFINITION. The dispatch: one arm for each constructor of Instr. -/

namespace Sys2Proof.Machine

def exec (i : Instr) (s : State) : Host.Outcome State Fault Refusal :=
  match i with
  | .powerUp b => Sys2Proof.Machine.execPowerUp b s
  | .powerLimitHold cond => Sys2Proof.Machine.execPowerLimitHold cond s
  | .admissionResume cond => Sys2Proof.Machine.execAdmissionResume cond s
  | .hdmWrite pa data => Sys2Proof.Machine.execHdmWrite pa data s
  | .hdmRead pa len => Sys2Proof.Machine.execHdmRead pa len s
  | .backInvalidateAnswer line => Sys2Proof.Machine.execBackInvalidateAnswer line s
  | .backInvalidateTimeout line => Sys2Proof.Machine.execBackInvalidateTimeout line s
  | .registerWrite off size val => Sys2Proof.Machine.execRegisterWrite off size val s
  | .qcmdCreate q => Sys2Proof.Machine.execQcmdCreate q s
  | .qcmdDestroy q => Sys2Proof.Machine.execQcmdDestroy q s
  | .qtailWrite q val => Sys2Proof.Machine.execQtailWrite q val s
  | .launch q => Sys2Proof.Machine.execLaunch q s
  | .wait q => Sys2Proof.Machine.execWait q s
  | .waitPoll q => Sys2Proof.Machine.execWaitPoll q s
  | .waitTimeout q => Sys2Proof.Machine.execWaitTimeout q s
  | .signal q => Sys2Proof.Machine.execSignal q s
  | .copyPacket q => Sys2Proof.Machine.execCopyPacket q s
  | .copyPacketDone q => Sys2Proof.Machine.execCopyPacketDone q s
  | .query q => Sys2Proof.Machine.execQuery q s
  | .tellerTrapEvent core => Sys2Proof.Machine.execTellerTrapEvent core s
  | .linkEvent port => Sys2Proof.Machine.execLinkEvent port s
  | .packageLoss pkg mask => Sys2Proof.Machine.execPackageLoss pkg mask s
  | .nqcfgWrite val => Sys2Proof.Machine.execNqcfgWrite val s
  | .nqconsWrite val => Sys2Proof.Machine.execNqconsWrite val s
  | .fwctlStage val => Sys2Proof.Machine.execFwctlStage val s
  | .fwStaged flashOk => Sys2Proof.Machine.execFwStaged flashOk s
  | .fwctlActivate val => Sys2Proof.Machine.execFwctlActivate val s
  | .fwctlAbort val => Sys2Proof.Machine.execFwctlAbort val s
  | .pldmSensorRead sensor => Sys2Proof.Machine.execPldmSensorRead sensor s
  | .pldmAdmissionHold hold => Sys2Proof.Machine.execPldmAdmissionHold hold s
  | .pldmFwUpdate req => Sys2Proof.Machine.execPldmFwUpdate req s
  | .flitCrcReplay port => Sys2Proof.Machine.execFlitCrcReplay port s
  | .portReplayLimit port => Sys2Proof.Machine.execPortReplayLimit port s
  | .portRxTimeout port => Sys2Proof.Machine.execPortRxTimeout port s
  | .heartbeatSend port => Sys2Proof.Machine.execHeartbeatSend port s
  | .heartbeat port p => Sys2Proof.Machine.execHeartbeat port p s
  | .portLaneLoss port => Sys2Proof.Machine.execPortLaneLoss port s
  | .portTrained port peerPkg peerPort => Sys2Proof.Machine.execPortTrained port peerPkg peerPort s
  | .fabricWrite p => Sys2Proof.Machine.execFabricWrite p s
  | .readReq p => Sys2Proof.Machine.execReadReq p s
  | .readData p => Sys2Proof.Machine.execReadData p s
  | .fabricAtomic p => Sys2Proof.Machine.execFabricAtomic p s
  | .ack p => Sys2Proof.Machine.execAck p s
  | .ackTimeout tag => Sys2Proof.Machine.execAckTimeout tag s
  | .reduceContrib p => Sys2Proof.Machine.execReduceContrib p s
  | .reduceResult p => Sys2Proof.Machine.execReduceResult p s
  | .groupTimerExpiry g => Sys2Proof.Machine.execGroupTimerExpiry g s
  | .debugHold p => Sys2Proof.Machine.execDebugHold p s
  | .debugRelease p => Sys2Proof.Machine.execDebugRelease p s
  | .routeUpdate port p table => Sys2Proof.Machine.execRouteUpdate port p table s
  | .groupEntryWrite g word val => Sys2Proof.Machine.execGroupEntryWrite g word val s
  | .tlbWalkDone core id => Sys2Proof.Machine.execTlbWalkDone core id s
  | .heatCfgWrite val => Sys2Proof.Machine.execHeatCfgWrite val s
  | .migrationCopy m => Sys2Proof.Machine.execMigrationCopy m s
  | .migrationRepoint m => Sys2Proof.Machine.execMigrationRepoint m s
  | .migrationReplay m => Sys2Proof.Machine.execMigrationReplay m s
  | .migrationFinish m => Sys2Proof.Machine.execMigrationFinish m s
  | .preemptStop q => Sys2Proof.Machine.execPreemptStop q s
  | .preemptResume q => Sys2Proof.Machine.execPreemptResume q s
  | .ctxsaveWrite val => Sys2Proof.Machine.execCtxsaveWrite val s
  | .scanName die => Sys2Proof.Machine.execScanName die s
  | .scanwaitExpiry core => Sys2Proof.Machine.execScanwaitExpiry core s
  | .scanMigration die => Sys2Proof.Machine.execScanMigration die s
  | .scanResult die pass => Sys2Proof.Machine.execScanResult die pass s
  | .scanInPlace die cluster => Sys2Proof.Machine.execScanInPlace die cluster s
  | .rowRetire core => Sys2Proof.Machine.execRowRetire core s
  | .relcfgWrite val => Sys2Proof.Machine.execRelcfgWrite val s
  | .carderScrub space double => Sys2Proof.Machine.execCarderScrub space double s
  | .dbgStop core => Sys2Proof.Machine.execDbgStop core s
  | .dbgResume core => Sys2Proof.Machine.execDbgResume core s
  | .dbgStep core arg => Sys2Proof.Machine.execDbgStep core arg s
  | .dbgStepDone core => Sys2Proof.Machine.execDbgStepDone core s
  | .dbgHold epoch => Sys2Proof.Machine.execDbgHold epoch s
  | .dbgRelease epoch => Sys2Proof.Machine.execDbgRelease epoch s
  | .trccfgWrite val => Sys2Proof.Machine.execTrccfgWrite val s
  | .trcconsWrite val => Sys2Proof.Machine.execTrcconsWrite val s
  | .sketchSeedWrite val => Sys2Proof.Machine.execSketchSeedWrite val s
  | .skctlWrite val => Sys2Proof.Machine.execSkctlWrite val s
  | .sketchQuery x => Sys2Proof.Machine.execSketchQuery x s
  | .dumpStart val => Sys2Proof.Machine.execDumpStart val s
  | .globalResultArrive core id => Sys2Proof.Machine.execGlobalResultArrive core id s
  | .remoteWritePerform core id => Sys2Proof.Machine.execRemoteWritePerform core id s
  | .relPerform core => Sys2Proof.Machine.execRelPerform core s
  | .engineComplete core id => Sys2Proof.Machine.execEngineComplete core id s
  | .flagWaitSatisfy core => Sys2Proof.Machine.execFlagWaitSatisfy core s
  | .rdvRoundRelease l group => Sys2Proof.Machine.execRdvRoundRelease l group s
  | .allowanceExpiry core => Sys2Proof.Machine.execAllowanceExpiry core s
  | .br g neg pred target => Sys2Proof.Machine.execBr g neg pred target s
  | .brs g neg fault sk target => Sys2Proof.Machine.execBrs g neg fault sk target s
  | .call g target => Sys2Proof.Machine.execCall g target s
  | .ret g => Sys2Proof.Machine.execRet g s
  | .loop g imm n last => Sys2Proof.Machine.execLoop g imm n last s
  | .spool g sk bm1 table => Sys2Proof.Machine.execSpool g sk bm1 table s
  | .rep g imm n => Sys2Proof.Machine.execRep g imm n s
  | .rdv g sv sd nm1 group => Sys2Proof.Machine.execRdv g sv sd nm1 group s
  | .selv g table => Sys2Proof.Machine.execSelv g table s
  | .setf g val core flag => Sys2Proof.Machine.execSetf g val core flag s
  | .waitf g val flag => Sys2Proof.Machine.execWaitf g val flag s
  | .ppt g => Sys2Proof.Machine.execPpt g s
  | .pptScan g => Sys2Proof.Machine.execPptScan g s
  | .relPkg g => Sys2Proof.Machine.execRelPkg g s
  | .relSys g => Sys2Proof.Machine.execRelSys g s
  | .fenceE g => Sys2Proof.Machine.execFenceE g s
  | .rfence g => Sys2Proof.Machine.execRfence g s
  | .movc g ss reg => Sys2Proof.Machine.execMovc g ss reg s
  | .rdc g sd reg => Sys2Proof.Machine.execRdc g sd reg s
  | .brk g => Sys2Proof.Machine.execBrk g s
  | .eret g => Sys2Proof.Machine.execEret g s
  | .halt g => Sys2Proof.Machine.execHalt g s
  | .xAdd x => Sys2Proof.Machine.execXAdd x s
  | .xSub x => Sys2Proof.Machine.execXSub x s
  | .xMul x => Sys2Proof.Machine.execXMul x s
  | .mulhu x => Sys2Proof.Machine.execMulhu x s
  | .mulhs x => Sys2Proof.Machine.execMulhs x s
  | .xAnd x => Sys2Proof.Machine.execXAnd x s
  | .xOr x => Sys2Proof.Machine.execXOr x s
  | .xXor x => Sys2Proof.Machine.execXXor x s
  | .xShl x => Sys2Proof.Machine.execXShl x s
  | .xShr x => Sys2Proof.Machine.execXShr x s
  | .sar x => Sys2Proof.Machine.execSar x s
  | .xMin x => Sys2Proof.Machine.execXMin x s
  | .xMax x => Sys2Proof.Machine.execXMax x s
  | .minu x => Sys2Proof.Machine.execMinu x s
  | .maxu x => Sys2Proof.Machine.execMaxu x s
  | .ceq x => Sys2Proof.Machine.execCeq x s
  | .cne x => Sys2Proof.Machine.execCne x s
  | .clt x => Sys2Proof.Machine.execClt x s
  | .cltu x => Sys2Proof.Machine.execCltu x s
  | .cle x => Sys2Proof.Machine.execCle x s
  | .cleu x => Sys2Proof.Machine.execCleu x s
  | .ext x => Sys2Proof.Machine.execExt x s
  | .exts x => Sys2Proof.Machine.execExts x s
  | .ins x => Sys2Proof.Machine.execIns x s
  | .movh x => Sys2Proof.Machine.execMovh x s
  | .rdi x => Sys2Proof.Machine.execRdi x s
  | .popc x => Sys2Proof.Machine.execPopc x s
  | .clz x => Sys2Proof.Machine.execClz x s
  | .ldV m => Sys2Proof.Machine.execLdV m s
  | .ldC m => Sys2Proof.Machine.execLdC m s
  | .ldD m => Sys2Proof.Machine.execLdD m s
  | .ldG m => Sys2Proof.Machine.execLdG m s
  | .stV m => Sys2Proof.Machine.execStV m s
  | .stC m => Sys2Proof.Machine.execStC m s
  | .stD m => Sys2Proof.Machine.execStD m s
  | .stG m => Sys2Proof.Machine.execStG m s
  | .ldsV m => Sys2Proof.Machine.execLdsV m s
  | .ldsG m => Sys2Proof.Machine.execLdsG m s
  | .chksV m => Sys2Proof.Machine.execChksV m s
  | .chksG m => Sys2Proof.Machine.execChksG m s
  | .ldply m => Sys2Proof.Machine.execLdply m s
  | .stply m => Sys2Proof.Machine.execStply m s
  | .ldcb m => Sys2Proof.Machine.execLdcb m s
  | .ldxV m => Sys2Proof.Machine.execLdxV m s
  | .ldxG m => Sys2Proof.Machine.execLdxG m s
  | .stxV m => Sys2Proof.Machine.execStxV m s
  | .stxG m => Sys2Proof.Machine.execStxG m s
  | .atomAdd a => Sys2Proof.Machine.execAtomAdd a s
  | .atomSwap a => Sys2Proof.Machine.execAtomSwap a s
  | .atomAnd a => Sys2Proof.Machine.execAtomAnd a s
  | .atomOr a => Sys2Proof.Machine.execAtomOr a s
  | .atomXor a => Sys2Proof.Machine.execAtomXor a s
  | .atomMax a => Sys2Proof.Machine.execAtomMax a s
  | .atomMin a => Sys2Proof.Machine.execAtomMin a s
  | .atomCas a => Sys2Proof.Machine.execAtomCas a s
  | .vfAdd v => Sys2Proof.Machine.execVfAdd v s
  | .vfSub v => Sys2Proof.Machine.execVfSub v s
  | .vfMul v => Sys2Proof.Machine.execVfMul v s
  | .vfFma v => Sys2Proof.Machine.execVfFma v s
  | .vfDiv v => Sys2Proof.Machine.execVfDiv v s
  | .vfMin v => Sys2Proof.Machine.execVfMin v s
  | .vfMax v => Sys2Proof.Machine.execVfMax v s
  | .sqrt v => Sys2Proof.Machine.execSqrt v s
  | .vfAbs v => Sys2Proof.Machine.execVfAbs v s
  | .vfNeg v => Sys2Proof.Machine.execVfNeg v s
  | .rcp v => Sys2Proof.Machine.execRcp v s
  | .rsqrt v => Sys2Proof.Machine.execRsqrt v s
  | .exp v => Sys2Proof.Machine.execExp v s
  | .log v => Sys2Proof.Machine.execLog v s
  | .sin v => Sys2Proof.Machine.execSin v s
  | .cos v => Sys2Proof.Machine.execCos v s
  | .tanh v => Sys2Proof.Machine.execTanh v s
  | .sigmoid v => Sys2Proof.Machine.execSigmoid v s
  | .erf v => Sys2Proof.Machine.execErf v s
  | .vfCmp v => Sys2Proof.Machine.execVfCmp v s
  | .vfSel v => Sys2Proof.Machine.execVfSel v s
  | .cvt v => Sys2Proof.Machine.execCvt v s
  | .pand v => Sys2Proof.Machine.execPand v s
  | .por v => Sys2Proof.Machine.execPor v s
  | .pxor v => Sys2Proof.Machine.execPxor v s
  | .pandn v => Sys2Proof.Machine.execPandn v s
  | .porn v => Sys2Proof.Machine.execPorn v s
  | .pmov v => Sys2Proof.Machine.execPmov v s
  | .perm v => Sys2Proof.Machine.execPerm v s
  | .red v => Sys2Proof.Machine.execRed v s
  | .xcopy v => Sys2Proof.Machine.execXcopy v s
  | .jseed v => Sys2Proof.Machine.execJseed v s
  | .jset v => Sys2Proof.Machine.execJset v s
  | .jget v => Sys2Proof.Machine.execJget v s
  | .jgetD v => Sys2Proof.Machine.execJgetD v s
  | .jdif v => Sys2Proof.Machine.execJdif v s
  | .jint v => Sys2Proof.Machine.execJint v s
  | .flgrd v => Sys2Proof.Machine.execFlgrd v s
  | .flgclr v => Sys2Proof.Machine.execFlgclr v s
  | .viAdd v => Sys2Proof.Machine.execViAdd v s
  | .viSub v => Sys2Proof.Machine.execViSub v s
  | .viMul v => Sys2Proof.Machine.execViMul v s
  | .viAddSat v => Sys2Proof.Machine.execViAddSat v s
  | .viSubSat v => Sys2Proof.Machine.execViSubSat v s
  | .viMulSat v => Sys2Proof.Machine.execViMulSat v s
  | .viMin v => Sys2Proof.Machine.execViMin v s
  | .viMax v => Sys2Proof.Machine.execViMax v s
  | .viAnd v => Sys2Proof.Machine.execViAnd v s
  | .viOr v => Sys2Proof.Machine.execViOr v s
  | .viXor v => Sys2Proof.Machine.execViXor v s
  | .viAndn v => Sys2Proof.Machine.execViAndn v s
  | .viShl v => Sys2Proof.Machine.execViShl v s
  | .viShr v => Sys2Proof.Machine.execViShr v s
  | .viCmp v => Sys2Proof.Machine.execViCmp v s
  | .viSel v => Sys2Proof.Machine.execViSel v s
  | .viMov v => Sys2Proof.Machine.execViMov v s
  | .viAbs v => Sys2Proof.Machine.execViAbs v s
  | .viNeg v => Sys2Proof.Machine.execViNeg v s
  | .viMulh v => Sys2Proof.Machine.execViMulh v s
  | .zero t => Sys2Proof.Machine.execZero t s
  | .push t => Sys2Proof.Machine.execPush t s
  | .shift t => Sys2Proof.Machine.execShift t s
  | .assayBeat t => Sys2Proof.Machine.execAssayBeat t s
  | .acc t => Sys2Proof.Machine.execAcc t s
  | .shiftAcc t => Sys2Proof.Machine.execShiftAcc t s
  | .assayAcc t => Sys2Proof.Machine.execAssayAcc t s
  | .drain t => Sys2Proof.Machine.execDrain t s
  | .copy e => Sys2Proof.Machine.execCopy e s
  | .tcopy e => Sys2Proof.Machine.execTcopy e s
  | .transp e => Sys2Proof.Machine.execTransp e s
  | .convE e => Sys2Proof.Machine.execConvE e s
  | .gather e => Sys2Proof.Machine.execGather e s
  | .scatter e => Sys2Proof.Machine.execScatter e s
  | .hget e => Sys2Proof.Machine.execHget e s
  | .hput e => Sys2Proof.Machine.execHput e s
  | .fput e => Sys2Proof.Machine.execFput e s
  | .fget e => Sys2Proof.Machine.execFget e s
  | .fatom e => Sys2Proof.Machine.execFatom e s
  | .mcred e => Sys2Proof.Machine.execMcred e s
  | .globalStorePerform core id => Sys2Proof.Machine.execGlobalStorePerform core id s
  | .stby12Loss => Sys2Proof.Machine.execStby12Loss s
  | .thermalTrip => Sys2Proof.Machine.execThermalTrip s
  | .main48Loss => Sys2Proof.Machine.execMain48Loss s
  | .hostLinkReset => Sys2Proof.Machine.execHostLinkReset s
  | .hostLinkRetrain => Sys2Proof.Machine.execHostLinkRetrain s
  | .fwHandover => Sys2Proof.Machine.execFwHandover s
  | .quiesceTmo => Sys2Proof.Machine.execQuiesceTmo s
  | .fwHeartbeat => Sys2Proof.Machine.execFwHeartbeat s
  | .heartbeatDeadline => Sys2Proof.Machine.execHeartbeatDeadline s
  | .rollbackDeadline => Sys2Proof.Machine.execRollbackDeadline s
  | .getVersion => Sys2Proof.Machine.execGetVersion s
  | .getCapabilities => Sys2Proof.Machine.execGetCapabilities s
  | .negotiateAlgorithms => Sys2Proof.Machine.execNegotiateAlgorithms s
  | .getDigests => Sys2Proof.Machine.execGetDigests s
  | .getCertificate => Sys2Proof.Machine.execGetCertificate s
  | .challenge => Sys2Proof.Machine.execChallenge s
  | .getMeasurements => Sys2Proof.Machine.execGetMeasurements s
  | .mctpControl => Sys2Proof.Machine.execMctpControl s
  | .pldmBaseRequest => Sys2Proof.Machine.execPldmBaseRequest s
  | .pldmIdentity => Sys2Proof.Machine.execPldmIdentity s
  | .pldmFruRead => Sys2Proof.Machine.execPldmFruRead s
  | .pldmSpindleReset => Sys2Proof.Machine.execPldmSpindleReset s
  | .pldmComputeReset => Sys2Proof.Machine.execPldmComputeReset s
  | .tlbinvDb => Sys2Proof.Machine.execTlbinvDb s
  | .shootdownComplete => Sys2Proof.Machine.execShootdownComplete s
  | .heatDecay => Sys2Proof.Machine.execHeatDecay s
  | .pageHeat => Sys2Proof.Machine.execPageHeat s
  | .migDb => Sys2Proof.Machine.execMigDb s
  | .launchClaim => Sys2Proof.Machine.execLaunchClaim s
  | .launchRelease => Sys2Proof.Machine.execLaunchRelease s
  | .launchComplete => Sys2Proof.Machine.execLaunchComplete s
  | .ladderT1 => Sys2Proof.Machine.execLadderT1 s
  | .ladderT2 => Sys2Proof.Machine.execLadderT2 s
  | .contextSaveDone => Sys2Proof.Machine.execContextSaveDone s
  | .contextRestart => Sys2Proof.Machine.execContextRestart s
  | .rowDecay => Sys2Proof.Machine.execRowDecay s
  | .carderRate => Sys2Proof.Machine.execCarderRate s
  | .skctlClr => Sys2Proof.Machine.execSkctlClr s
  | .sketchQueryDone => Sys2Proof.Machine.execSketchQueryDone s
  | .dumpComplete => Sys2Proof.Machine.execDumpComplete s
  | .hostSnoop => Sys2Proof.Machine.execHostSnoop s
  | .nop => Sys2Proof.Machine.execNop s

end Sys2Proof.Machine
end

