-- ==== Sys2Proof/Machine/Step.lean ====
section
/-! DEFINITION. One step of the machine, and the state in which a given instruction is the next to run. -/

namespace Sys2Proof.Machine

/-- One step (log 1): the first event that is due, or else one chip cycle of every core. -/
def step (s : State) : Out := stepWith exec s

/-- A core at its release with nothing in its code but one bundle at halfword 0 (04 R80, 14 R249). -/
def Core.withBundle (c : Core) (bundle : Nat) : Core :=
  let halves := 0xFFFF :: (List.range 24).map fun h => bundle / 2 ^ (16 * h) % 2 ^ 16
  { c with
    mode := .running, holds := [], flagWait := none, rdvWait := none, causes := [], allowDue := false,
    lagCheck := false, atPoint := false, atScan := false, done := 0,
    rep := none, xfer := none, pc := 0, code := Store.put [] 0 (halves.map (BitVec.ofNat 16)),
    codeLen := 65536, codeBad := [] }

/-- Core 0 holds the instruction of a table word as its next bundle, its literals zero, and no event is due before it
(14 R249; log 4). -/
def State.withFetchWord (s : State) (nbits w : Nat) : State :=
  let chip := s.chip
  let later := s.agenda.map fun e => if e.1 ≤ chip then (chip + 1, e.2) else e
  { s.setCore 0 ((s.core 0).withBundle (w % 2 ^ nbits)) with agenda := later }

end Sys2Proof.Machine
end

