-- ==== Sys2Proof/Safety.lean ====
section
/-! DEFINITION. What counts as a safe run: a run of steps that neither faults nor is refused. -/

namespace Sys2Proof.Machine

/-- The state after k steps, if none of them stops. -/
def run (k : Nat) (s : State) : Option State :=
  match k with
  | 0 => some s
  | k + 1 =>
    match step s with
    | .next t => run k t
    | _ => none

/-- A run of k steps is safe: no step faults or is refused. -/
def Safe (k : Nat) (s : State) : Prop := (run k s).isSome = true

/-- A property of states that every step keeps. -/
def Kept (p : State → Prop) : Prop := ∀ s t : State, p s → step s = .next t → p t

/-- The canonical form of every memory: HBM4, the second tier, the host's, each vault, a saved one included, and the row
counters of the arrays (log 2). -/
def State.memOk (s : State) : Bool :=
  s.mem.wf && s.cores.all (fun p => Store.wf p.2.vault) && s.saved.all (fun x => Store.wf x.ctx.vault)
    && Store.wf s.reliab.rows

/-! The frames of statements. -/

/-- Two cores agree in every register a program can name and in their memories (10 R170 to R189, 11 R191). -/
structure Core.SameRegs (c d : Core) : Prop where
  scalars : d.scalars = c.scalars
  preds : d.preds = c.preds
  plies : d.plies = c.plies
  flagFile : d.flagFile = c.flagFile
  ctrl : d.ctrl = c.ctrl
  flags : d.flags = c.flags
  codebook : d.codebook = c.codebook
  code : d.code = c.code
  dict : d.dict = c.dict
  vault : d.vault = c.vault
  corrcnt : d.corrcnt = c.corrcnt

/-- The machine after the present core has read its operands (c is the core after the pops) and holds one more pending item,
due n schedule cycles on (09 R165). -/
def State.pending (s : State) (c : Core) (n src : Nat) (a : Act) : State := s.setCore s.cur (c.push n src a)

/-- No transfer is pending and the present bundle may hold one that is taken: it is not at the LAST of a level still to return,
nor in a spool's body before the last bundle of the last pass (09 R151, 15 R268, R269). -/
structure Core.mayTransfer (c : Core) : Prop where
  free : c.xfer = none
  last : ∀ l ∈ c.loops, l.last = c.pc → l.remaining = 0
  body : ∀ l ∈ c.loops.head?, l.spool = none ∨ ¬(l.first ≤ c.pc ∧ c.pc ≤ l.last) ∨ (c.pc = l.last ∧ l.remaining = 0)

/-- The ld and st forms of a vault level, and the atomic of an operation number (16 R289, R295). -/
def ldOf (l : Level) (m : MArgs) : Instr := match l with | .own => .ldV m | .cluster => .ldC m | .die => .ldD m
def stOf (l : Level) (m : MArgs) : Instr := match l with | .own => .stV m | .cluster => .stC m | .die => .stD m
def atomRow (op : Nat) (a : AtomArgs) : Option Instr :=
  [Instr.atomAdd a, .atomSwap a, .atomAnd a, .atomOr a, .atomXor a, .atomMax a, .atomMin a, .atomCas a][op]?

/-- A range of n bytes at a vault address is legal for the present core: bits [63:27] are 0, it ends within the vault, and the
target is the core itself or one that its launch holds (11 R191). -/
def State.VaultOk (s : State) (l : Level) (v n : Nat) : Prop :=
  v < 2 ^ 27 ∧ v % 2 ^ 21 + n ≤ 1572864 ∧ s.holdsCore s.cur (vaultTarget s.cur l v) = true

/-- The offset d at which an access of a level samples or performs: own for the own vault, 9 in the cluster, a cycle from 12 to
32 on the die (11 R192). -/
def Level.Offsets (l : Level) (own d : Nat) : Prop :=
  match l with | .own => d = own | .cluster => d = 9 | .die => 12 ≤ d ∧ d ≤ 32

/-- The offset at which a result of a level lands (11 R192). -/
def Level.landAt (l : Level) : Nat := match l with | .own => 6 | .cluster => 14 | .die => 40

/-- The guard of an instruction that runs its slot by the uniform view of its guard (09 R153); none for the other rows. -/
def uniformGuard (i : Instr) : Option Guard :=
  match i with
  | .br g _ _ _ | .brs g _ _ _ _ | .call g _ | .ret g | .loop g _ _ _ | .spool g _ _ _ | .rep g _ _ | .rdv g _ _ _ _
  | .selv g _ | .setf g _ _ _ | .waitf g _ _ | .ppt g | .pptScan g | .relPkg g | .relSys g | .rfence g | .movc g _ _
  | .rdc g _ _ | .brk g | .eret g | .halt g => some g
  | .xAdd x | .xSub x | .xMul x | .mulhu x | .mulhs x | .xAnd x | .xOr x | .xXor x | .xShl x | .xShr x | .sar x
  | .xMin x | .xMax x | .minu x | .maxu x | .ceq x | .cne x | .clt x | .cltu x | .cle x | .cleu x | .ext x | .exts x
  | .ins x | .movh x | .rdi x | .popc x | .clz x => some x.guard
  | .ldV m | .ldC m | .ldD m | .ldG m | .stV m | .stC m | .stD m | .stG m | .ldsV m | .ldsG m | .chksV m | .chksG m
  | .ldply m | .stply m | .ldcb m => some m.guard
  | .ldxV m | .ldxG m | .stxV m | .stxG m => some m.guard
  | .atomAdd a | .atomSwap a | .atomAnd a | .atomOr a | .atomXor a | .atomMax a | .atomMin a | .atomCas a => some a.guard
  | .zero t | .push t | .shift t | .assayBeat t | .drain t => some t.guard
  | .copy e | .tcopy e | .transp e | .convE e | .gather e | .scatter e | .hget e | .hput e | .fput e | .fget e
  | .fatom e | .mcred e => some e.guard
  | _ => none

/-- The fields of a V form. -/
def vArgs (i : Instr) : Option VArgs := (i.vOp).map fun p => p.2

/-- A V form runs: it has an active lane, its operands lie within the ply array, and its slot is free (10 R171, 17 R301). -/
structure State.VReady (s : State) (v : VArgs) (foot : List (Nat × Nat)) : Prop where
  lanes : s.curCore.guardLanes v.port v.guard ≠ 0
  foot : ∀ f ∈ foot, f.1 + f.2 ≤ 2048
  free : s.curCore.vBusy v.port ≤ s.curCore.sched

/-- The machine after a V form with one result, due n cycles on, that occupies its slot for occ cycles (17 R299, R300). -/
def State.vDone (s : State) (v : VArgs) (occ n : Nat) (d : Dest) : Out :=
  .next (s.setCore s.cur ((s.curCore.push n (if v.port then 5 else 4) (.land d)).occupy v.port occ))

/-- The machine after a float form: f gives the rounded coefficients 0 to k of a lane, of w plies each. -/
def State.fDone (s : State) (v : VArgs) (occ n w k : Nat) (f : Nat → List Coef) : Out :=
  .next (s.setCore s.cur ((s.curCore.landJet v n w k (s.curCore.guardLanes v.port v.guard) f).occupy v.port occ))

/-- A SHIFT of the T slot may issue: a tile is open, its view has a FMT, an order and a width that the array's rows allow and holds
its row, its plies exist, and the slot is free (13 R228, R230, R233, R234). -/
structure Core.MayShift (c : Core) (t : TArgs) (line : Nat) : Prop where
  tile : c.array.tile ≠ none
  fmt : shiftLine (c.td t.desc).fmt c.array.rows = some line
  order : c.jord = 0 ∨ (1 ≤ line ∧ line ≤ 3 ∧ c.jord ≤ 3)
  blk : t.blk = true → line = 4 ∨ line = 5 ∨ line = 6
  cols : (c.td t.desc).cols ≤ 64 * lineG line
  row : t.aux / 16 < (c.td t.desc).rows
  foot : (c.td t.desc).base + (c.jord + 1) * (c.td t.desc).span ≤ 2048
  scales : t.blk = true → (c.td t.desc).base + (c.td t.desc).span + 3 * (c.td t.desc).rows ≤ 2048
  free : c.array.busy ≤ c.sched

/-- An ASSAY may issue: a tile is open, the rows are those its SHIFTs used, and the slot is free (13 R232, R236). -/
structure Core.MayAssay (c : Core) (x : Tile) : Prop where
  tile : c.array.tile = some x
  rows : ∀ l, x.line = some l → (∀ r ∈ c.array.rows, pairLine r.2.fmt = some l) ∧ (1 ≤ l → l ≤ 3 → c.jord ≤ 3)
  free : c.array.busy ≤ c.sched

/-- The row that emerges may be claimed into row r of AD_m: of the right kind and format, ow exactly on the first claim of a row,
one AD for a tile, its plies present (13 R231, R232, 19 R329). -/
structure Core.MayClaim (c : Core) (m r : Nat) (ow cks : Bool) (b : Beat) (x : Tile) : Prop where
  row : c.emerging = some b
  tile : c.array.tile = some x
  kind : b.assay = cks
  acc : lineAcc b.line (c.accDesc m).fmt = true
  inside : cks = false → r < (c.accDesc m).rows
  first : ow = !(if cks then x.cksClaimed else x.claimed.contains r)
  one : x.ad = none ∨ x.ad = some m
  foot : (c.accDesc m).base + (b.k + 1) * ((c.accDesc m).rows * (c.accDesc m).width) ≤ 2048

/-- The E form of an opcode (19 R330). -/
def engForm (op : Nat) (e : EArgs) : Option Instr :=
  [none, some (Instr.copy e), some (.transp e), some (.convE e), some (.gather e), some (.scatter e), some (.tcopy e),
    some (.hget e), some (.hput e), some (.fput e), some (.fget e), some (.fatom e), some (.mcred e)].getD op none

/-- An engine accepts a command: in a handler its engine was idle; on its start cycle its views are in order and its engine's read
stream is free; an acknowledged one is the 16th open command at most and keeps ACKC in range; a conv encodes RS for a destination
that allows it (11 R198, 12 R217, 19 R331, R336, R344). -/
structure State.EngReady (s : State) (op : Nat) (e : EArgs) (n : Nat) : Prop where
  idle : s.curCore.handler = true → ∀ r, s.curCore.record = some r → engBlock op ∈ r.enginesIdle
  views : e.ofs = 0 → s.curCore.engViewTraps op e.cf n = []
  stream : e.ofs = 0 → s.curCore.streamBusy (engBlock op) s.nextId = false
  acked : 6 ≤ op → s.curCore.openCmds (engBlock op) < 16 ∧ s.acksNow + ackCount op n ≤ 65535
  dest : op = 3 → s.convRs e = false
  free : ∀ r ∈ s.curCore.rels, r.sys = false

end Sys2Proof.Machine
end

