-- ==== Sys2Proof/Certificates/Slice0/Obligations.lean ====
section
/-! DEFINITION. The statements for the provers, by the rules of spec/. -/

open Sys2Proof Sys2Proof.Machine

/-! Decoding, fetching and stepping. -/

/-- 14 R246 to R258: the bundle that the encoder writes for a well-formed slot instruction, every other slot NOP, and its
claimed literals decode to that instruction. -/
def Obligations.BundleRoundTrip : Prop :=
  ∀ (i : Instr) (b : Nat) (ls : List Nat), i.wf = true → encode i = some (b, ls) →
    b < 2 ^ 384 ∧ claimCount b = ls.length ∧ decodeOne b ls = .ok i

/-- Slot values that the manual writes out (14 R250, 15 R266, 16 R281 to R296, 17 R301, 18 R317, 19 R328 to R331, 20). -/
def Obligations.SpecWordsDecode : Prop :=
  let g : Guard := ⟨0, false⟩
  decodeSlot .c 0x000187010100 none = .ok (.spool g 7 1 256)
    ∧ decodeSlot .c 0x000080840001 none = .ok (.brs g true false 4 1)
    ∧ decodeSlot .x 0x18A28040 none = .ok (.xAdd ⟨g, 5, 5, true, 64, none⟩)
    ∧ decodeSlot .x 0x0168E102C8 none = .ok (.ext ⟨g, 7, 2, true, 8 + 11 * 64, none⟩)
    ∧ decodeSlot .m1 0x00D809F0C404 none = .ok (.atomCas ⟨true, g, 9, 3, 3, 3, 16, 4, none⟩)
    ∧ decodeSlot .v0 0x00250402010040 none = .ok (.vfAdd ⟨false, g, 1, false, 8, 256, 8, 32, 64⟩)
    ∧ decodeSlot .v1 0x0057080212C2BC none = .ok (.vfFma ⟨true, g, 1, true, 8, 512, 8, 600, 700⟩)
    ∧ decodeSlot .v0 0x00C08322032011 none = .ok (.cvt ⟨false, g, 0, false, 4, 200, 8, 100, 0x11⟩)
    ∧ decodeSlot .v0 0x01186028C0A01E none = .ok (.viAddSat ⟨false, g, 0, false, 3, 10, 3, 20, 30⟩)
    ∧ decodeSlot .v0 0x00E500A2032302 none = .ok (.jgetD ⟨false, g, 1, false, 8, 40, 8, 100, 0x302⟩)
    ∧ decodeSlot .v0 0x00950C8215E005 none = .ok (.exp ⟨false, g, 1, false, 8, 800, 8, 700, 5⟩)
    ∧ decodeSlot .v1 0x00F14FA0000000 none = .ok (.flgrd ⟨true, g, 0, false, 10, 1000, 0, 0, 0⟩)
    ∧ decodeSlot .t 0x00C2206051 none = .ok (.shiftAcc ⟨g, false, false, false, true, false, 2, 3, 5 * 16 + 1⟩)
    ∧ decodeSlot .t 0x0100590073 none = .ok (.drain ⟨g, false, false, false, false, false, 5, 72, 7 * 16 + 3⟩)
    ∧ decodeSlot .e 0x0008828C0642 none = .ok (.copy ⟨g, 4, 5, 6, 12, true, 2, none⟩)
    ∧ decodeSlot .e 0x006021060000 none = .ok (.mcred ⟨g, 1, 2, 3, 0, false, 0, none⟩)

/-- 09 R149, R150, R152, 14 R247 to R249 (log 1): what the sequencer forms at PC. A dictionary index gives its entry, 0xFFFE the
all-NOP bundle, 0xFFFF the 24 halfwords that follow, with the claimed literals after it; every other index, an entry that the
launch did not load, and a bundle that reaches past the image or past address 65,535 give none. A running core whose bundle
decodes, breaks no bundle rule and waits for no load issues its slots C, X, M0, M1, V0, V1, T, E, without the NOPs
and the slots whose completion bit is set; a bundle that does not decode, or none, is ILLEGAL. -/
def Obligations.FetchAndIssue : Prop :=
  (∀ (c : Core) (pc : Nat),
     (c.half pc < 2048 → c.dictValid.contains (c.half pc) = true → pc < 65536 → pc < c.codeLen →
       ∀ b, (Store.read c.dict (c.half pc)).toNat = b → pc + 1 + 2 * claimCount b ≤ min c.codeLen 65536 →
         c.fetch pc = some ⟨b,
           (List.range (claimCount b)).map fun k => c.half (pc + 1 + 2 * k) + c.half (pc + 2 + 2 * k) * 65536, pc + 1 + 2 * claimCount b, some (c.half pc)⟩)
     ∧ (c.half pc = 0xFFFE → pc < 65536 → pc < c.codeLen → c.fetch pc = some ⟨0, [], pc + 1, none⟩)
     ∧ (∀ b ls, b < 2 ^ 384 → claimCount b = ls.length → (∀ l ∈ ls, l < 2 ^ 32) → c.half pc = 0xFFFF →
         (∀ h < 24, c.half (pc + 1 + h) = b / 2 ^ (16 * h) % 65536) →
         (∀ k < ls.length, c.half (pc + 25 + 2 * k) + c.half (pc + 26 + 2 * k) * 65536 = ls.getD k 0) →
         pc + 25 + 2 * ls.length ≤ min c.codeLen 65536 →
         c.fetch pc = some ⟨b, ls, pc + 25 + 2 * ls.length, none⟩)
     ∧ (0x0800 ≤ c.half pc → c.half pc ≤ 0xFFFD → c.fetch pc = none)
     ∧ (c.half pc < 2048 → c.dictValid.contains (c.half pc) = false → c.fetch pc = none)
     ∧ (∀ f, c.fetch pc = some f → f.next ≤ 65536 ∧ f.next ≤ c.codeLen))
  ∧ (∀ (c : Core) (f : Fetched), c.mode = .running → c.fetch c.pc = some f →
      (∀ i0 i1 i2 i3 i4 i5 i6 i7, decodeBundle f.bundle f.lits = .ok [i0, i1, i2, i3, i4, i5, i6, i7] →
        c.bundleIllegal i0 [i1, i2, i3, i4, i5, i6, i7] f.next = false → (∀ g, i0 ≠ .fenceE g) →
        c.issue = .slots ([(7, i0), (6, i1), (5, i2), (4, i3), (3, i4), (2, i5), (1, i6), (0, i7)].filter
          fun p => p.2 ≠ .nop && !c.done.testBit p.1) f.next)
      ∧ (∀ e, decodeBundle f.bundle f.lits = .error e → c.issue = .illegal))
  ∧ ∀ c : Core, c.mode = .running → c.fetch c.pc = none → c.issue = .illegal

/-- Logs 1 and 12: an event that is due leaves the agenda. One that its source has only now, of the kinds of 05 R87 that fall due there,
enters the tellers' event queue; every other is the instruction of the step, and where exec answers a next state its teller is idle
again in it (05 R86); a fault or a refusal of exec is the step's; with none due the step is one chip cycle of every core. An event that
no teller handles leaves the tellers as exec left them. -/
def Obligations.StepRunsEvent : Prop :=
  (∀ s : State,
    (∀ e t, s.nextEvent = some e → s.enters e.2 = false → exec e.2 { s with agenda := dropEvent e s.agenda } = .next t →
      step s = .next (t.handled e.2))
    ∧ (∀ e, s.nextEvent = some e → s.enters e.2 = false → (∀ t, exec e.2 { s with agenda := dropEvent e s.agenda } ≠ .next t) →
        step s = exec e.2 { s with agenda := dropEvent e s.agenda })
    ∧ (∀ e, s.nextEvent = some e → s.enters e.2 = true → step s = .next (State.post { s with agenda := dropEvent e s.agenda } e.2))
    ∧ (s.nextEvent = none → step s = .next (s.chipCycle exec)))
  ∧ (∀ (t : State) (i : Instr), t.tellers.taken.contains i = false → t.handled i = t)
  ∧ ∀ (s : State) (i : Instr), s.enters i = true ↔ (arrives i = true ∧ i ∉ s.tellers.taken)

/-- Log 1, 09 R155: a core's chip cycle runs the meanings of the instructions of its bundle. When nothing traps, stops or
freezes core n, its landings come first, then exec of each slot's instruction on the state that the slots before it left, an rdi
before the others (16 R285), then the sequencer's advance; exec of a bundle with one slot is what the cycle runs; and the core ends its turn in that state. -/
def Obligations.CoreRunsBundle : Prop :=
  (∀ (s : State) (n next : Nat) (l : List (Nat × Instr)), ((s.landNow n).core n).issue = .slots l next →
     (∀ p ∈ l, ∀ g, p.2 ≠ .eret g) →
     let start := ((((s.landNow n).updCore n fun c => { c with atPoint := false, atScan := false }).sketch n 0 1).updCore n
       fun c => { c with npc := next, lagCheck := false })
     (s.turn exec n).after = ((runSlots exec n (slotOrder l) start []).1.updCore n Core.advance).engGo n
       ∧ (s.turn exec n).isOver = true
       ∧ (∀ k i t, l = [(k, i)] → exec i start = .next t → trapOf n start t = none →
           (s.turn exec n).after = (t.updCore n Core.advance).engGo n))
  ∧ (∀ (s : State) (n : Nat),
      let s1 := ({ s with cur := n } : State).endEpisode n
      let t := s1.turn exec n
      ((s.core n).mode = .running ∨ (s.core n).mode = .halted) → s.inDebug n = false →
      (s.core n).frozen s.chip = none → t.found = none → s1.stopsHere n = false → (s.core n).atScan = false → t.isOver = true →
      s.coreTurn exec n = (t.after.closeTiles n, true))

/-! Registers and landings. -/

/-- 10 R183, R184: a scalar result that lands is read from then on by its register alone; s0 reads 0 and discards it, and so does
a register that QCTL maps to a queue. No other state of the core changes. -/
def Obligations.ScalarLanding : Prop :=
  ∀ (c : Core) (r q : Nat) (v : Word),
    (c.land (.scalar r v)).scalar q = (if q = 0 then 0 else if q = r ∧ ¬c.mapped r then v else c.scalar q)
      ∧ c.land (.scalar r v) = { c with scalars := (c.land (.scalar r v)).scalars }
      ∧ c.scalar 0 = 0

/-- 10 R184: a slot's read of a mapped register gives the oldest entry of its queue, 0 if there is none, to every field that names
it, and pops it once; a push to a full queue is dropped and sets the queue's OVF bit. -/
def Obligations.MappedQueues : Prop :=
  (∀ (c : Core) (rs : List Nat),
    (c.readScalars rs).1 = rs.map (fun r =>
        if r = 63 ∧ (Store.read c.ctrl 5).getLsbD 0 then c.engQ.headD 0
        else if r = 62 ∧ (Store.read c.ctrl 5).getLsbD 1 then c.corQ.headD 0 else c.scalar r)
      ∧ (c.readScalars rs).2 = { c with
          engQ := if 63 ∈ rs ∧ (Store.read c.ctrl 5).getLsbD 0 then c.engQ.drop 1 else c.engQ,
          corQ := if 62 ∈ rs ∧ (Store.read c.ctrl 5).getLsbD 1 then c.corQ.drop 1 else c.corQ })
  ∧ ∀ (c : Core) (e : Word),
    (c.engQ.length < 16 → c.pushEng e = { c with engQ := c.engQ ++ [e] })
      ∧ (c.corQ.length < 16 → c.pushCor e = { c with corQ := c.corQ ++ [e] })
      ∧ (16 ≤ c.engQ.length → (c.pushEng e).engQ = c.engQ ∧ (c.pushEng e).corQ = c.corQ
          ∧ ∀ n b, (Store.read (c.pushEng e).ctrl n).getLsbD b
              = ((Store.read c.ctrl n).getLsbD b || (n == 5 && b == 8)))
      ∧ (16 ≤ c.corQ.length → (c.pushCor e).corQ = c.corQ ∧ (c.pushCor e).engQ = c.engQ
          ∧ ∀ n b, (Store.read (c.pushCor e).ctrl n).getLsbD b
              = ((Store.read c.ctrl n).getLsbD b || (n == 5 && b == 9)))

/-- 10 R186, R187: a predicate result lands in the lanes of its mask and in no other lane; p0 reads all-true and discards it, and
p56 to p63 discard it while a spool level is active. No other state of the core changes. -/
def Obligations.PredicateLanding : Prop :=
  ∀ (c : Core) (p q l : Nat) (mask bits : LaneMask), l < 128 →
    ((c.land (.pred p mask bits)).pred q).getLsbD l
        = (if q = 0 then true
          else if q = p ∧ mask.getLsbD l ∧ ¬(56 ≤ p ∧ p ≤ 63 ∧ ∃ x ∈ c.loops, x.spool ≠ none) then bits.getLsbD l
          else (c.pred q).getLsbD l)
      ∧ c.land (.pred p mask bits) = { c with preds := (c.land (.pred p mask bits)).preds }

/-- 10 R170: a vector operand's value in a lane: its plies in ascending order from bit 0 on; width code 0 stands for 16. -/
def Obligations.PlyOperand : Prop :=
  (∀ (c : Core) (n w l : Nat), l < 128 →
    (c.plyVals n w).getD l 0
      = ((List.range w).map fun i => 16 ^ i * ((Store.read c.plies (n + i)).toNat / 16 ^ l % 16)).sum)
  ∧ widthOf 0 = 16 ∧ ∀ k, 1 ≤ k → k < 16 → widthOf k = k

/-- 10 R174: the plies of a vector result land together, in the lanes of its mask; every other ply of every lane keeps its value,
and no other state of the core changes. -/
def Obligations.PlyLanding : Prop :=
  ∀ (c : Core) (start n p l : Nat) (mask : LaneMask) (vals : List Nat), l < 128 →
    (Store.read (c.land (.plies start n mask vals)).plies p).toNat / 16 ^ l % 16
        = (if start ≤ p ∧ p < start + n ∧ mask.getLsbD l then vals.getD l 0 / 16 ^ (p - start) % 16
          else (Store.read c.plies p).toNat / 16 ^ l % 16)
      ∧ c.land (.plies start n mask vals) = { c with plies := (c.land (.plies start n mask vals)).plies }

/-- 10 R189, 00 R9, 15 R278: the bits of a control register after a movc has landed in it: a field takes the written bits, a W1C
bit is cleared by a 1 and kept by a 0, a reserved bit is 0; every other register keeps its value. -/
def Obligations.ControlLanding : Prop :=
  ∀ (c : Core) (r q b : Nat) (v : Word), b < 64 →
    let field := (r = 0 ∧ b < 3) ∨ ((r = 1 ∨ r = 2) ∧ b < 8) ∨ (r = 3 ∧ b < 3) ∨ r = 4 ∨ (r = 5 ∧ b < 2)
      ∨ ((r = 6 ∨ r = 7) ∧ b < 10) ∨ (32 ≤ r ∧ r < 48 ∧ b < 35) ∨ (48 ≤ r ∧ r < 52 ∧ b < 22) ∨ (64 ≤ r ∧ r ≤ 70 ∧ b < 10)
    let w1c := (r = 3 ∧ b = 8) ∨ (r = 5 ∧ (b = 8 ∨ b = 9))
    ctrlWritable r = true →
    (field → (Store.read (c.land (.ctrl r v)).ctrl r).getLsbD b = v.getLsbD b)
      ∧ (w1c → (Store.read (c.land (.ctrl r v)).ctrl r).getLsbD b = ((Store.read c.ctrl r).getLsbD b && !v.getLsbD b))
      ∧ (¬field → ¬w1c → (Store.read (c.land (.ctrl r v)).ctrl r).getLsbD b = false)
      ∧ (q ≠ r → Store.read (c.land (.ctrl r v)).ctrl q = Store.read c.ctrl q)
      ∧ c.land (.ctrl r v) = { c with ctrl := (c.land (.ctrl r v)).ctrl }

/-- 10 R177: flag bits land together: a bit that a set names is 1 in the set's lanes, whatever is cleared; a bit that only a
clear names is 0 in its lanes; every other bit is kept, and no other state of the core changes. -/
def Obligations.FlagLanding : Prop :=
  ∀ (c : Core) (set clear : List (Nat × LaneMask)) (b l : Nat),
    (Store.read (c.land (.flags set clear)).flagFile b).getLsbD l
        = (set.any (fun p => p.1 == b && p.2.getLsbD l)
          || ((Store.read c.flagFile b).getLsbD l && !clear.any fun p => p.1 == b && p.2.getLsbD l))
      ∧ c.land (.flags set clear) = { c with flagFile := (c.land (.flags set clear)).flagFile }

/-- 09 R152, R153, 14 R246: a slot whose guard is false by the uniform view, a V slot without an active lane, and a NOP change
nothing, but for a conv that encodes RS for a destination without it, which is ILLEGAL whatever its guard (12 R217; its destination as
log 31 reads it); a guard whose lanes differ is NONUNIFORM. The uniform view: a guard is true (false) when its bit, after the negate bit,
is true (false) in every lane of every group set in VGM_0 or VGM_1, or in every lane if both are 0, and not uniform otherwise. -/
def Obligations.GuardRules : Prop :=
  ((∀ (i : Instr) (g : Guard) (s : State), uniformGuard i = some g →
     (s.curCore.guard g = some false → (∀ e, i = .convE e → s.convRs e = false) → exec i s = .next s)
       ∧ (s.curCore.guard g = none → exec i s = .next (s.trapHere .nonuniform)))
   ∧ (∀ (e : EArgs) (s : State), (s.curCore.guard e.guard).isSome = true → s.convRs e = true →
       exec (.convE e) s = .next (s.trapHere .illegal))
   ∧ (∀ (i : Instr) (v : VArgs) (s : State), vArgs i = some v → s.curCore.guardLanes v.port v.guard = 0 → exec i s = .next s)
   ∧ ∀ s, exec .nop s = .next s)
  ∧ (∀ (c : Core) (g : Guard) (b : Bool),
      c.guard g = some b ↔ ∀ l < 128,
        ((Store.read c.ctrl 1).getLsbD (l / 16) ∨ (Store.read c.ctrl 2).getLsbD (l / 16)
          ∨ ∀ k < 8, ¬(Store.read c.ctrl 1).getLsbD k ∧ ¬(Store.read c.ctrl 2).getLsbD k) →
        xor ((c.pred g.pred).getLsbD l) g.neg = b)

/-- 09 R165 (log 1): no slot writes a register, a code or dictionary word or a byte of any memory on its issue cycle, whatever
it does, a trap included: its results are pending items. Only queue entries that it pops and the sequencer's own state change. -/
def Obligations.IssueFrame : Prop :=
  ∀ (i : Instr) (s t : State), i.encodeSlot.isSome = true → exec i s = .next t →
    (∀ n, Core.SameRegs (s.core n) (t.core n))
      ∧ t.mem.hbm = s.mem.hbm ∧ t.mem.tier = s.mem.tier ∧ t.mem.host = s.mem.host
/-! The X slot. -/

/-- 16 R282: the arithmetic and logic forms: OP 2·base + I with bases 1 to 15, results modulo 2^64 of A and B as read at issue, a multiply
landing at issue+3 and every other form at issue+1. An immediate is sign-extended for every form; bits [63:6] of a shift amount
are ignored. Operands are read in one pass that pops a mapped queue once. -/
def Obligations.ScalarArithmetic : Prop :=
  ∀ (x : XArgs) (s : State), s.curCore.guard x.guard = some true →
    let o := xOperands x false s.curCore
    let a := o.1
    let b := o.2.1
    let n := b.toNat % 64
    let done (lat : Nat) (v : Word) : Out := .next (s.pending o.2.2.2 lat 6 (.land (.scalar x.dst v)))
    ([Instr.xAdd x, .xSub x, .xMul x, .mulhu x, .mulhs x, .xAnd x, .xOr x, .xXor x, .xShl x, .xShr x, .sar x, .xMin x, .xMax x,
        .minu x, .maxu x].map Instr.xBase = (List.range 15).map fun k => some (k + 1, x))
      ∧ (∀ w lit i k y, decodeSlot .x w lit = .ok i → i.xBase = some (k, y) → k ≤ 15 → w / 2 ^ 27 % 64 = 2 * k + b2n y.imm)
      ∧ a = (s.curCore.readScalars (xSources x false)).1.getD 0 0
      ∧ o.2.2.2 = (s.curCore.readScalars (xSources x false)).2
      ∧ (x.imm = false → b = (s.curCore.readScalars (xSources x false)).1.getD 1 0)
      ∧ (x.imm = true → x.lit = none → b.toInt = (BitVec.ofNat 15 x.sb).toInt)
      ∧ (x.imm = true → ∀ l, x.lit = some l → b.toInt = (BitVec.ofNat 32 l).toInt)
      ∧ exec (.xAdd x) s = done 1 (BitVec.ofNat 64 (a.toNat + b.toNat))
      ∧ exec (.xSub x) s = done 1 (BitVec.ofInt 64 (a.toNat - b.toNat))
      ∧ exec (.xMul x) s = done 3 (BitVec.ofNat 64 (a.toNat * b.toNat))
      ∧ exec (.mulhu x) s = done 3 (((a.zeroExtend 128) * (b.zeroExtend 128)).extractLsb' 64 64)
      ∧ exec (.mulhs x) s = done 3 (((a.signExtend 128) * (b.signExtend 128)).extractLsb' 64 64)
      ∧ (∃ v, exec (.xAnd x) s = done 1 v ∧ ∀ k < 64, v.getLsbD k = (a.getLsbD k && b.getLsbD k))
      ∧ (∃ v, exec (.xOr x) s = done 1 v ∧ ∀ k < 64, v.getLsbD k = (a.getLsbD k || b.getLsbD k))
      ∧ (∃ v, exec (.xXor x) s = done 1 v ∧ ∀ k < 64, v.getLsbD k = xor (a.getLsbD k) (b.getLsbD k))
      ∧ exec (.xShl x) s = done 1 (BitVec.ofNat 64 (a.toNat * 2 ^ n))
      ∧ exec (.xShr x) s = done 1 (BitVec.ofNat 64 (a.toNat / 2 ^ n))
      ∧ exec (.sar x) s = done 1 (BitVec.ofInt 64 (a.toInt.fdiv (2 ^ n)))
      ∧ exec (.xMin x) s = done 1 (BitVec.ofInt 64 (min a.toInt b.toInt))
      ∧ exec (.xMax x) s = done 1 (BitVec.ofInt 64 (max a.toInt b.toInt))
      ∧ exec (.minu x) s = done 1 (BitVec.ofNat 64 (min a.toNat b.toNat))
      ∧ exec (.maxu x) s = done 1 (BitVec.ofNat 64 (max a.toNat b.toNat))

/-- 16 R283: the compares: OP 2·base + I with bases 16 to 21; the bit of the test lands in every lane of pD at issue+1 (p0 discards
it), an immediate being sign-extended before an unsigned compare as well. -/
def Obligations.ScalarCompares : Prop :=
  ∀ (x : XArgs) (s : State), s.curCore.guard x.guard = some true →
    let o := xOperands x false s.curCore
    let a := o.1
    let b := o.2.1
    let lands (i : Instr) (test : Prop) : Prop := ∃ bits : LaneMask,
      exec i s = .next (s.pending o.2.2.2 1 6 (.land (.pred x.dst (BitVec.allOnes 128) bits)))
        ∧ ∀ l < 128, bits.getLsbD l = true ↔ test
    ([Instr.ceq x, .cne x, .clt x, .cltu x, .cle x, .cleu x].map Instr.xBase = (List.range 6).map fun k => some (k + 16, x))
      ∧ (∀ w lit i k y, decodeSlot .x w lit = .ok i → i.xBase = some (k, y) → 16 ≤ k → w / 2 ^ 27 % 64 = 2 * k + b2n y.imm)
      ∧ (∀ (c : Core) (mask bits : LaneMask) (q : Nat), (c.land (.pred 0 mask bits)).pred q = c.pred q)
      ∧ (x.imm = true → x.lit = none → b.toInt = (BitVec.ofNat 15 x.sb).toInt)
      ∧ lands (.ceq x) (a.toNat = b.toNat)
      ∧ lands (.cne x) (a.toNat ≠ b.toNat)
      ∧ lands (.clt x) (a.toInt < b.toInt)
      ∧ lands (.cltu x) (a.toNat < b.toNat)
      ∧ lands (.cle x) (a.toInt ≤ b.toInt)
      ∧ lands (.cleu x) (a.toNat ≤ b.toNat)

/-- 16 R284, R285: bit fields, movh, loop indices and bit counts. -/
def Obligations.ScalarFields : Prop :=
  ∀ (x : XArgs) (s : State), s.curCore.guard x.guard = some true →
    let o := xOperands x false s.curCore
    let a := o.1
    let w := xOperands x true s.curCore
    let lands (i : Instr) (c : Core) (p : Word → Prop) : Prop :=
      ∃ v, exec i s = .next (s.pending c 1 6 (.land (.scalar x.dst v))) ∧ p v
    (∀ pos len, x.layout = pos + 64 * (len - 1) → 1 ≤ len → pos + len ≤ 64 →
      lands (.ext x) o.2.2.2 (fun v => ∀ k < 64, v.getLsbD k = (decide (k < len) && a.getLsbD (pos + k)))
        ∧ lands (.exts x) o.2.2.2 (fun v => ∀ k < 64, v.getLsbD k = a.getLsbD (pos + min k (len - 1)))
        ∧ lands (.ins x) w.2.2.2 (fun v => ∀ k < 64, v.getLsbD k
            = if pos ≤ k ∧ k < pos + len then w.1.getLsbD (k - pos) else w.2.2.1.getLsbD k))
      ∧ lands (.movh x) w.2.2.2 (fun v => ∀ k < 64, v.getLsbD k
            = if k < 32 then w.2.2.1.getLsbD k else (x.lit.getD x.sb).testBit (k - 32))
      ∧ lands (.popc x) o.2.2.2 (fun v => v.toNat = ((List.range 64).filter a.getLsbD).length)
      ∧ lands (.clz x) o.2.2.2 (fun v => (a = 0 → v = 64) ∧
            (a ≠ 0 → v.toNat < 64 ∧ a.getLsbD (63 - v.toNat) = true ∧ ∀ k, 63 - v.toNat < k → a.getLsbD k = false))
      ∧ lands (.rdi x) s.curCore (fun v => v = match s.curCore.loops.reverse[x.sa]? with
            | some l => BitVec.ofNat 64 l.index
            | none => 0)

/-! The C slot and the sequencer. -/

/-- 15 R265, R266, 09 R151: the transfers, for a core that may transfer here: br on the uniform view of its condition, brs on a bit
of a status word in the own vault, call and ret with the return stack. -/
def Obligations.Transfers : Prop :=
  ∀ (g : Guard) (s : State), s.curCore.guard g = some true →
    let c := s.curCore
    (c.mayTransfer →
      (∀ neg p t b, c.uniform p = some b →
        exec (.br g neg p t) s = .next (if xor b neg then s.setCore s.cur { c with xfer := some (t, 3, true) } else s))
      ∧ (∀ neg fault k t, let r := c.readScalars [k]
          let a := (r.1.getD 0 0).toNat
          a < 2 ^ 27 → a % 2 ^ 21 < 1572864 → a % 8 = 0 →
          exec (.brs g neg fault k t) s = .next (s.setCore s.cur
            (if xor ((Store.num c.vault (a % 2 ^ 21) 8).testBit (if fault then 62 else 63)) neg then
              { r.2 with xfer := some (t, 3, true) } else r.2)))
      ∧ (∀ t, c.rets.length < 8 → exec (.call g t) s = .next (s.setCore s.cur
          { c with rets := c.after (c.after c.npc) :: c.rets, xfer := some (t, 3, false) }))
      ∧ (∀ a r, c.rets = a :: r → exec (.ret g) s = .next (s.setCore s.cur { c with rets := r, xfer := some (a, 3, true) }))
      ∧ (∀ t, c.rets.length = 8 → exec (.call g t) s = .next (s.trapHere .stack))
      ∧ (c.rets = [] → exec (.ret g) s = .next (s.trapHere .stack)))
    ∧ (∀ neg p t, c.uniform p = none → exec (.br g neg p t) s = .next (s.trapHere .nonuniform))
    ∧ (c.xfer ≠ none → (∀ neg p t b, c.uniform p = some b → xor b neg = true →
          exec (.br g neg p t) s = .next (s.trapHere .illegal))
        ∧ (∀ t, exec (.call g t) s = .next (s.trapHere .illegal)) ∧ exec (.ret g) s = .next (s.trapHere .illegal))

/-- 09 R151, 15 R265, R268: after a transfer its two delay bundles issue, then the bundle at its target; a br, brs or ret pops the
innermost levels whose range does not hold the target as the target issues, a call leaves them. -/
def Obligations.DelayBundles : Prop :=
  ∀ (c : Core) (t n1 n2 : Nat) (pops : Bool), c.xfer = some (t, 3, pops) → c.rep = none → c.resumePc = none →
    (∀ l ∈ c.loops, l.last ≠ c.pc ∧ l.last ≠ c.npc) →
    let c1 := c.advance
    let c2 := { c1 with npc := n1 }.advance
    let c3 := { c2 with npc := n2 }.advance
    c1.pc = c.npc ∧ c1.loops = c.loops ∧ c2.pc = n1 ∧ c2.loops = c.loops ∧ c3.pc = t ∧ c3.xfer = none
      ∧ c3.loops = (if pops then c.loops.dropWhile fun l => ¬(l.first ≤ t ∧ t ≤ l.last) else c.loops)

/-- 15 R267, R272, 09 R149: loop opens a level of N passes over the bundles up to LAST, rep repeats the next bundle N times; with
N = 0 the body (the bundle) is skipped. The illegal counts and addresses raise ILLEGAL, a seventh level STACK. At the boundary
after the bundle at LAST, a level with passes left returns to its first bundle, its index one higher, at a point; after its last
pass it pops and the stream goes on. A repeated bundle stays at PC until its last repetition. -/
def Obligations.LoopsAndRepeats : Prop :=
  (∀ (g : Guard) (imm : Bool) (k last : Nat) (s : State), s.curCore.guard g = some true →
     let c := s.curCore
     let n := if imm then k else ((c.readScalars [k]).1.getD 0 0).toNat
     let c' := if imm then c else (c.readScalars [k]).2
     (n < 2 ^ 32 → c.pc < last → (∀ l ∈ c.loops.head?, last ≤ l.last) →
       (n = 0 → exec (.loop g imm k last) s = .next (s.setCore s.cur { c' with npc := c'.after last }))
       ∧ (n ≠ 0 → c.loops.length < 6 → exec (.loop g imm k last) s
           = .next (s.setCore s.cur { c' with loops := ⟨c.npc, last, n - 1, 0, none⟩ :: c.loops }))
       ∧ (n ≠ 0 → 6 ≤ c.loops.length → exec (.loop g imm k last) s = .next (s.trapHere .stack)))
     ∧ (2 ^ 32 ≤ n ∨ last ≤ c.pc ∨ (∃ l ∈ c.loops.head?, l.last < last) →
         exec (.loop g imm k last) s = .next (s.trapHere .illegal))
     ∧ (2 ^ 32 ≤ n → exec (.rep g imm k) s = .next (s.trapHere .illegal))
     ∧ (n = 0 → exec (.rep g imm k) s = .next (s.setCore s.cur { c' with npc := c'.after c'.npc }))
     ∧ (n ≠ 0 → n < 2 ^ 32 → exec (.rep g imm k) s = .next (s.setCore s.cur { c' with rep := some (c.npc, n) })))
  ∧ (∀ (c : Core) (l : LoopLevel) (r : List LoopLevel), c.loops = l :: r → c.xfer = none → c.resumePc = none →
      (c.rep = none → l.last = c.pc → l.remaining ≠ 0 →
        c.advance.pc = l.first ∧ c.advance.atPoint = true
          ∧ ∃ l', c.advance.loops = l' :: r ∧ l'.index = l.index + 1 ∧ l'.remaining + 1 = l.remaining ∧ l'.first = l.first
            ∧ l'.last = l.last)
      ∧ (c.rep = none → l.last = c.pc → l.remaining = 0 → (∀ m ∈ r, m.last ≠ c.pc) →
          c.advance.pc = c.npc ∧ c.advance.loops = r)
      ∧ (c.rep = none → l.last ≠ c.pc → c.advance.pc = c.npc ∧ c.advance.loops = c.loops)
      ∧ (∀ n, c.rep = some (c.pc, n) → 1 < n → c.advance.pc = c.pc ∧ c.advance.rep = some (c.pc, n - 1)
          ∧ c.advance.loops = c.loops)
      ∧ (c.rep = some (c.pc, 1) → l.last ≠ c.pc → c.advance.pc = c.npc ∧ c.advance.rep = none))

/-- 15 R269 to R271: spool opens a level of N + S - 1 passes over its B bundles, which lie in the image, with the delta table's stages
and deltas; at the start of pass q the stage predicate p(56+k) is true when 0 <= q - k < N, and from pass 1 on each delta of the table is
added to its scalar. The halfwords that a body bundle takes, one that names none included, are log 13's reading. -/
def Obligations.SpoolPasses : Prop :=
  (∀ (g : Guard) (k bm1 table : Nat) (s : State) (stages : Nat) (deltas : List (Nat × Word)) (last next : Nat),
    s.curCore.guard g = some true → s.curCore.deltaTable table = some (stages, deltas) →
    s.curCore.body s.curCore.npc (bm1 + 1) = (last, next) → next ≤ s.curCore.codeLen →
    let r := s.curCore.readScalars [k]
    let n := (r.1.getD 0 0).toNat
    (n = 0 → exec (.spool g k bm1 table) s = .next (s.setCore s.cur { r.2 with npc := next }))
      ∧ (n ≠ 0 → n < 2 ^ 32 → s.curCore.loops.length < 6 → exec (.spool g k bm1 table) s = .next (s.setCore s.cur
          { r.2 with loops := ⟨s.curCore.npc, last, n + stages - 2, 0, some ⟨n, stages, deltas, true⟩⟩ :: s.curCore.loops }))
      ∧ (n ≠ 0 → n < 2 ^ 32 → 6 ≤ s.curCore.loops.length → exec (.spool g k bm1 table) s = .next (s.trapHere .stack))
      ∧ (2 ^ 32 ≤ n → exec (.spool g k bm1 table) s = .next (s.trapHere .illegal)))
  ∧ (∀ (g : Guard) (k bm1 table : Nat) (s : State), s.curCore.guard g = some true →
      (s.curCore.deltaTable table = none ∨ s.curCore.codeLen < (s.curCore.body s.curCore.npc (bm1 + 1)).2) →
      exec (.spool g k bm1 table) s = .next (s.trapHere .illegal))
  ∧ ∀ (c : Core) (l : LoopLevel) (r : List LoopLevel) (sp : Spool), c.loops = l :: r → l.spool = some sp → sp.due = true →
      c.handler = false →
      (∀ k < 8, c.passStart.pred (56 + k) = if k ≤ l.index ∧ l.index < k + sp.n then BitVec.allOnes 128 else 0)
        ∧ (∀ q < 56, c.passStart.pred q = c.pred q)
        ∧ ((sp.deltas.map fun x => x.1).Nodup → ∀ d v, (d, v) ∈ sp.deltas → c.mapped d = false → 1 ≤ d →
            c.passStart.scalar d = c.scalar d + (if l.index = 0 then 0 else v))
        ∧ (∀ r, r ∉ sp.deltas.map (fun x => x.1) → c.passStart.scalar r = c.scalar r)

/-- 15 R273, 09 R158 to R160: rdv waits at its group: the last arrival of a round lets its members go on 40 chip cycles later; with a
pending poison error it is FENCE_E, and with another n than its round's ILLEGAL. selv in the next bundle transfers to the first variant
whose bound is not below the delivered value, or goes on if there is none; that its transfer leaves the loop levels in place, the
transfer's false here, is the model's reading of 15 R268 (log 13). -/
def Obligations.Rendezvous : Prop :=
  ∀ (g : Guard) (s : State), s.curCore.guard g = some true →
    let c := s.curCore
    (∀ sv sd nm1 gr, c.poison = none → (∀ r, s.openRound (c.launch.getD 0) gr = some r → r.n = nm1 + 1) →
      let v := (c.readScalars [sv]).1.getD 0 0
      let old := ((s.openRound (c.launch.getD 0) gr).map fun r => r.arrived).getD []
      ∃ t r, exec (.rdv g sv sd nm1 gr) s = .next t ∧ t.curCore.rdvWait = some ⟨gr, sd, none⟩
        ∧ (∃ h ∈ t.curCore.holds, h.cause = 5) ∧ r ∈ t.rounds ∧ r.launch = c.launch.getD 0 ∧ r.group = gr
        ∧ r.arrived = old ++ [(s.cur, v)]
        ∧ (old.length + 1 < nm1 + 1 → t.agenda = s.agenda)
        ∧ (nm1 + 1 ≤ old.length + 1 →
            t.agenda = s.agenda ++ [(s.chip + 40, .rdvRoundRelease (c.launch.getD 0) gr)]))
    ∧ (∀ sv sd nm1 gr r, s.openRound (c.launch.getD 0) gr = some r → r.n ≠ nm1 + 1 →
        exec (.rdv g sv sd nm1 gr) s = .next (s.trapHere .illegal))
    ∧ (∀ sv sd nm1 gr, c.poison ≠ none → (∀ r, s.openRound (c.launch.getD 0) gr = some r → r.n = nm1 + 1) →
        exec (.rdv g sv sd nm1 gr) s = .next (s.trapHere .fenceE))
    ∧ (∀ table v rows, c.rdvVal = some v → c.variants table = some rows → c.mayTransfer →
        (∀ pre b t post, rows = pre ++ (b, t) :: post → (∀ e ∈ pre, e.1 < v.toNat) → v.toNat ≤ b →
          exec (.selv g table) s = .next (s.setCore s.cur { c with xfer := some (t, 3, false) }))
        ∧ ((∀ e ∈ rows, e.1 < v.toNat) → exec (.selv g table) s = .next (s.setCore s.cur c)))
    ∧ (∀ table, c.rdvVal = none ∨ c.variants table = none → exec (.selv g table) s = .next (s.trapHere .illegal))

/-- 15 R274, R275: setf of a core of the launch performs at its offset, 1 for the own core, 9 in the cluster, a moment of its window
on the die and beyond, or is held after a REL; a core that the launch does not hold is ILLEGAL. waitf goes on when its flag stands,
and otherwise waits. -/
def Obligations.SyncFlags : Prop :=
  ∀ (g : Guard) (val : Bool) (core f : Nat) (s : State), s.curCore.guard g = some true →
    (s.holdsCore s.cur core = true → s.curCore.rels = [] →
      ∃ d t, exec (.setf g val core f) s = .next t
        ∧ t.core s.cur = s.curCore.push d 7 (.land (.flag core f val))
        ∧ (core = s.cur → d = 1) ∧ (core ≠ s.cur → core / 4 = s.cur / 4 → d = 9)
        ∧ (core / 4 ≠ s.cur / 4 → core / 64 = s.cur / 64 → 12 ≤ d ∧ d ≤ 32)
        ∧ (core / 64 ≠ s.cur / 64 → 40 ≤ d ∧ d ≤ 160))
    ∧ (s.holdsCore s.cur core = true → s.curCore.rels ≠ [] → s.curCore.held.length < 64 →
        ∃ d t, exec (.setf g val core f) s = .next t
          ∧ (t.core s.cur).held = s.curCore.held ++ [⟨s.curCore.seq, s.chip + d, false, .flag core f val⟩]
          ∧ (t.core s.cur).items = s.curCore.items)
    ∧ (s.holdsCore s.cur core = false → exec (.setf g val core f) s = .next (s.trapHere .illegal))
    ∧ (s.curCore.flags.getLsbD f = val → exec (.waitf g val f) s = .next (s.setCore s.cur s.curCore))
    ∧ (s.curCore.flags.getLsbD f ≠ val → exec (.waitf g val f) s = .next (s.setCore s.cur
        { s.curCore with
          flagWait := some ⟨f, val, none⟩, holds := s.curCore.holds ++ [⟨4, f, s.curCore.sched, 0⟩] }))

/-- 15 R276, R277, R279, 11 R199, 14 R247: points, RELs, fences, brk and NOP. A REL waits for the acknowledged operations that are
open; fence.e, whether its guard is true or false, holds its bundle while a load is open, takes FENCE_E on a pending poison error,
and otherwise does nothing; a guard whose lanes differ is NONUNIFORM; brk breaks unless its break is suppressed. -/
def Obligations.PointsAndFences : Prop :=
  (∀ (g : Guard) (s : State), s.curCore.guard g = some true →
    let c := s.curCore
    exec (.ppt g) s = .next (s.setCore s.cur { c with atPoint := true })
      ∧ exec (.pptScan g) s = .next (s.setCore s.cur { c with atPoint := true, atScan := true })
      ∧ (∀ sys, let i := if sys then Instr.relSys g else .relPkg g
          (c.openAcks = [] → exec i s = .next (s.setCore s.cur c))
          ∧ (c.openAcks ≠ [] → exec i s = .next (s.setCore s.cur
              { c with rels := c.rels ++ [⟨sys, c.openAcks, c.seq⟩], seq := c.seq + 1 })))
      ∧ exec (.rfence g) s = .next (s.pending c 1 7 (.land .dropRecs))
      ∧ (c.brkSkip = true → exec (.brk g) s = .next s)
      ∧ (c.brkSkip = false → exec (.brk g) s = .next (s.trapHere .break)))
  ∧ (∀ (g : Guard) (s : State),
      (s.curCore.loadsOpen = false → s.curCore.guard g ≠ none → s.curCore.poison = none → exec (.fenceE g) s = .next s)
        ∧ (s.curCore.loadsOpen = false → s.curCore.guard g ≠ none → s.curCore.poison ≠ none →
            exec (.fenceE g) s = .next (s.trapHere .fenceE))
        ∧ (s.curCore.loadsOpen = false → s.curCore.guard g = none → exec (.fenceE g) s = .next (s.trapHere .nonuniform))
        ∧ (s.curCore.loadsOpen = true → exec (.fenceE g) s = .next (s.setCore s.cur { s.curCore with npc := s.curCore.pc })))
  ∧ ∀ s, exec .nop s = .next s

/-- 15 R278, 10 R188, R184: movc lands at issue+2 in the register it names; rdc reads at issue and lands at issue+1, giving each
listed register and 0 for an unlisted one that nothing holds. -/
def Obligations.ControlMoves : Prop :=
  ∀ (g : Guard) (s : State), s.curCore.guard g = some true →
    let c := s.curCore
    let gives (reg : Nat) (v : Nat) : Prop := ∀ sd, exec (.rdc g sd reg) s
      = .next (s.pending c 1 7 (.land (.scalar sd (BitVec.ofNat 64 v))))
    (∀ ss reg, exec (.movc g ss reg) s = .next (s.pending (c.readScalars [ss]).2 2 7
        (.land (.ctrl reg ((c.readScalars [ss]).1.getD 0 0)))))
      ∧ (∀ reg, (reg ≤ 4 ∨ reg = 6 ∨ reg = 7 ∨ 18 ≤ reg) → gives reg (Store.read c.ctrl reg).toNat)
      ∧ gives 5 ((Store.read c.ctrl 5).toNat + c.corQ.length * 2 ^ 16 + c.engQ.length * 2 ^ 24)
      ∧ (c.handler = false → c.haltSched = none → gives 8 c.sched) ∧ (∀ r, c.handler = true → c.record = some r → gives 8 r.sched)
      ∧ gives 9 c.lag ∧ gives 10 c.allow ∧ gives 11 c.slack ∧ gives 12 s.chip ∧ gives 13 (s.cur % 256) ∧ gives 14 c.ackc
      ∧ gives 15 c.corrcnt ∧ gives 16 c.trappc ∧ gives 17 c.trapcause

/-- 09 R163, 04 R81, 08 R135: taking a trap outside a handler. A class that the launch delegates starts the handler at TRAPVEC with
the flight record written, PC in TRAPPC and the class in TRAPCAUSE, and what was in flight only in the record; every other class
but BREAK holds the core for the tellers, and so does any trap of a handler: an urgent event, which an idle teller takes at once and
which waits in their queue while all twelve are busy (05 R86, R87). No other core and no memory changes. -/
def Obligations.TrapEntry : Prop :=
  ∀ (s : State) (n : Nat) (k : Cause), k.cls ≠ .break →
    let c := s.core n
    let t := s.takeTrap n k
    (∀ l, s.launchOf n = some l → c.handler = false → l.pkt.deleg.testBit k.cls.bit = true →
      (t.core n).mode = .running ∧ (t.core n).handler = true ∧ (t.core n).pc = l.pkt.trapvec ∧ (t.core n).trappc = k.pc
        ∧ (t.core n).trapcause = k.cls.bit ∧ (t.core n).items = [] ∧ (t.core n).sched = c.sched
        ∧ (∃ r, (t.core n).record = some r ∧ r.respc = k.pc ∧ r.sched = c.sched ∧ r.items = c.items ∧ r.cls = k.cls.bit
            ∧ r.done = k.done)
        ∧ t.agenda = s.agenda)
    ∧ ((s.launchOf n = none ∨ c.handler = true ∨ ∃ l, s.launchOf n = some l ∧ l.pkt.deleg.testBit k.cls.bit = false) →
        (t.core n).mode = .tellers ∧ (t.core n).pc = c.pc ∧ (t.core n).items = c.items
          ∧ t = (s.updCore n fun c => c.holdForTellers k).post (.tellerTrapEvent n))
    ∧ Core.SameRegs c (t.core n) ∧ (∀ m, m ≠ n → t.core m = s.core m) ∧ t.mem = s.mem
    ∧ (s.tellers.taken.length < 12 → s.tellers.pending = [] → s.tellers.full = [] →
        ∃ d, (s.post (.tellerTrapEvent n)).agenda = s.agenda ++ [(s.chip + 1 + d, .tellerTrapEvent n)])
    ∧ (12 ≤ s.tellers.taken.length → s.tellers.pending.length < 4096 →
        s.post (.tellerTrapEvent n)
          = { s with tellers := { s.tellers with pending := s.tellers.pending ++ [(true, .tellerTrapEvent n)] } })

/-- 09 R167, R149, 15 R279: eret after a delegated trap is its inverse: what the handler's entry put aside is back, PC at the
bundle to resume, the schedule cycle, the completion mask, every pending result and a wait as they were; LAG is checked at the boundary.
halt ends issue and empties the loop and return stacks, or raises FENCE_E on a pending poison error and ILLEGAL in a handler; eret
returns only from a handler none of whose results is in flight, and is ILLEGAL otherwise. -/
def Obligations.EretAndHalt : Prop :=
  (∀ (c : Core) (k : Cause) (vec : Nat), c.mode = .running →
     let h := c.enterHandler k vec
     h.eret.pc = k.pc ∧ h.eret.sched = c.sched ∧ h.eret.items = c.items ∧ h.eret.causes = c.causes ∧ h.eret.done = k.done
       ∧ h.eret.xfer = c.xfer ∧ h.eret.rep = c.rep ∧ h.eret.rdvVal = c.rdvVal ∧ h.eret.mode = .running
       ∧ h.eret.handler = false ∧ h.eret.record = none ∧ h.eret.lagCheck = true ∧ h.eret.v0Busy = c.v0Busy
       ∧ h.eret.v1Busy = c.v1Busy ∧ h.eret.flagWait = c.flagWait ∧ h.eret.rdvWait = c.rdvWait ∧ Core.SameRegs c h.eret)
  ∧ (∀ (g : Guard) (s : State), s.curCore.guard g = some true →
      let c := s.curCore
      (c.handler = false → c.poison = none →
        exec (.halt g) s = .next (s.setCore s.cur { c with mode := .halted, loops := [], rets := [], haltSched := some c.sched }))
      ∧ (c.handler = false → c.poison ≠ none → exec (.halt g) s = .next (s.trapHere .fenceE))
      ∧ (c.handler = true → exec (.halt g) s = .next (s.trapHere .illegal))
      ∧ (c.handler = false → exec (.eret g) s = .next (s.trapHere .illegal))
      ∧ (c.items ≠ [] → exec (.eret g) s = .next (s.trapHere .illegal))
      ∧ (∀ r, c.handler = true → c.record = some r → c.items = [] → c.engines = [] → c.arrayBusy = false →
          ∃ t, exec (.eret g) s = .next t ∧ (t.core s.cur).pc = r.respc ∧ (t.core s.cur).sched = r.sched
            ∧ (t.core s.cur).done % 128 = r.done % 128 ∧ (t.core s.cur).handler = false ∧ (t.core s.cur).record = none
            ∧ (∀ i ∈ r.items, i ∈ (t.core s.cur).items)))

/-! The M slots and what they start. -/

/-- 16 R287: the layout of a vector access: W plies of 128 lanes are the 64·W bytes from a, lane l's ply i being memory ply
2a + l·W + i, the low nibble of a byte first (00 R6); a load takes them back in the same order, and the ply forms of R291 use the
same layout from a ply address. -/
def Obligations.VectorLayout : Prop :=
  let ply (m : Store 8) (p : Nat) : Nat := (Store.read m (p / 2)).toNat / 16 ^ (p % 2) % 16
  (∀ (c : Core) (m : Store 8) (a n w l i : Nat), l < 128 → i < w →
    (c.plyBytes n w).length = 64 * w
      ∧ ply (Store.put m a (c.plyBytes n w)) (2 * a + l * w + i) = (Store.read c.plies (n + i)).toNat / 16 ^ l % 16)
  ∧ (∀ (m : Store 8) (a n w : Nat), Store.wf m = true → ∃ vals,
      (LoadTo.plies n w).dest (Store.num m a (64 * w)) = some (.plies n w (BitVec.allOnes 128) vals)
      ∧ ∀ l < 128, ∀ i < w, vals.getD l 0 / 16 ^ i % 16 = ply m (2 * a + l * w + i))
  ∧ ∀ (m : Store 8) (p n w : Nat), Store.wf m = true → ∃ vals,
      (LoadTo.nibbles n w (p % 2)).dest (Store.num m (p / 2) ((p + 128 * w + 1) / 2 - p / 2)) = some (.plies n w (BitVec.allOnes 128) vals)
      ∧ ∀ l < 128, ∀ i < w, vals.getD l 0 / 16 ^ i % 16 = ply m (p + l * w + i)

/-- 16 R286, R289, 11 R191, R192: ld and st of the own, cluster and die vault: the whole range must lie in a vault that the launch
holds, and PROTECTION is otherwise due at issue+1 with FCAUSE 0 and the address. A load samples and lands, and a store, its plies
read at issue, performs at the offsets of its level. No other core changes. -/
def Obligations.VaultAccess : Prop :=
  ∀ (l : Level) (m : MArgs) (s : State), s.curCore.guard m.guard = some true →
    let c := s.curCore
    let r := c.readScalars [m.base]
    let v := (r.1.getD 0 0 + mOffset m).toNat
    let n := 64 * widthOf m.w
    let bad : Out := .next (s.setCore s.cur { r.2 with causes := c.causes ++
      [⟨c.sched + 1, c.sched, .protection, c.pc, if m.port then 0xEF else 0xDF, 0, v⟩] })
    (2048 < m.ply + widthOf m.w →
      exec (ldOf l m) s = .next (s.trapHere .plyRange) ∧ exec (stOf l m) s = .next (s.trapHere .plyRange))
    ∧ (m.ply + widthOf m.w ≤ 2048 → ¬s.VaultOk l v n → exec (ldOf l m) s = bad ∧ exec (stOf l m) s = bad)
    ∧ (m.ply + widthOf m.w ≤ 2048 → s.VaultOk l v n →
      (∃ d t, exec (ldOf l m) s = .next t ∧ l.Offsets 3 d
        ∧ t.core s.cur = r.2.push d (if m.port then 3 else 2)
          (.sample (vaultTarget s.cur l v) (v % 2 ^ 21) n (c.sched + l.landAt) (.plies m.ply (widthOf m.w)) (l == .own) none)
        ∧ ∀ k, k ≠ s.cur → t.core k = s.core k)
      ∧ ∃ d t, exec (stOf l m) s = .next t ∧ l.Offsets 2 d
        ∧ t.core s.cur = r.2.push d (if m.port then 3 else 2)
          (.perform (vaultTarget s.cur l v) (v % 2 ^ 21) (c.plyBytes m.ply (widthOf m.w)) (l == .own))
        ∧ ∀ k, k ≠ s.cur → t.core k = s.core k)

/-- 16 R290 to R292: the other forms on the own vault: ldx and stx of an aligned scalar, ldply and stply at a ply address, ldcb of
1,024 bytes; a misaligned address, a range outside the vault or a ply address past 3,145,728 is PROTECTION at issue+1. -/
def Obligations.VaultScalarsAndPlies : Prop :=
  (∀ (m : ScalarMemArgs) (s : State), s.curCore.guard m.guard = some true →
    let c := s.curCore
    let n := 2 ^ m.size
    let src := if m.port then 3 else 2
    let r := c.readScalars [m.base]
    let v := (r.1.getD 0 0 + smOffset m).toNat
    let rs := c.readScalars [m.base, m.reg]
    let vs := (rs.1.getD 0 0 + smOffset m).toNat
    let bad (c' : Core) (v : Nat) : Out := .next (s.setCore s.cur { c' with causes := c.causes ++
      [⟨c.sched + 1, c.sched, .protection, c.pc, if m.port then 0xEF else 0xDF, 0, v⟩] })
    (v % n = 0 → s.VaultOk .own v n → exec (.ldxV m) s
      = .next (s.pending r.2 3 src (.sample s.cur (v % 2 ^ 21) n (c.sched + 6) (.scalar m.reg n m.sgn) true none)))
    ∧ (¬(v % n = 0 ∧ s.VaultOk .own v n) → exec (.ldxV m) s = bad r.2 v)
    ∧ (vs % n = 0 → s.VaultOk .own vs n → exec (.stxV m) s
      = .next (s.pending rs.2 2 src (.perform s.cur (vs % 2 ^ 21) (numBytes n (rs.1.getD 1 0).toNat) true)))
    ∧ (¬(vs % n = 0 ∧ s.VaultOk .own vs n) → exec (.stxV m) s = bad rs.2 vs))
  ∧ (∀ (m : MArgs) (s : State), s.curCore.guard m.guard = some true →
    let c := s.curCore
    let w := widthOf m.w
    let src := if m.port then 3 else 2
    let r := c.readScalars [m.base]
    let p := (r.1.getD 0 0 + mOffset m).toNat
    let bad : Out := .next (s.setCore s.cur { r.2 with causes := c.causes ++
      [⟨c.sched + 1, c.sched, .protection, c.pc, if m.port then 0xEF else 0xDF, 0, p⟩] })
    (m.ply + w ≤ 2048 → p < 2 ^ 22 → p + 128 * w ≤ 3145728 →
      exec (.ldply m) s = .next (s.pending r.2 3 src (.sample s.cur (p / 2) ((p + 128 * w + 1) / 2 - p / 2) (c.sched + 6)
          (.nibbles m.ply w (p % 2)) true none))
        ∧ exec (.stply m) s = .next (s.pending r.2 2 src (.performPlies p (128 * w) (joinLanes w (c.plyVals m.ply w)))))
    ∧ (m.ply + w ≤ 2048 → ¬(p < 2 ^ 22 ∧ p + 128 * w ≤ 3145728) → exec (.ldply m) s = bad ∧ exec (.stply m) s = bad)
    ∧ (2048 < m.ply + w → exec (.ldply m) s = .next (s.trapHere .plyRange) ∧ exec (.stply m) s = .next (s.trapHere .plyRange))
    ∧ (p % 64 = 0 → s.VaultOk .own p 1024 → exec (.ldcb m) s
        = .next (s.pending r.2 3 src (.sample s.cur (p % 2 ^ 21) 1024 (c.sched + 6) .codebook true none)))
    ∧ (¬(p % 64 = 0 ∧ s.VaultOk .own p 1024) → exec (.ldcb m) s = bad))

/-- 16 R293, R294, 11 R203, R204: lds allocates a valid entry with its form, PLY, W and address, the oldest of 32 giving way, and
loads as ld does; one whose access faults loses its entry and raises nothing. chks does nothing when the newest matching entry of
an earlier bundle is valid, as the writes of earlier chip cycles have left it and with no poison consumed, and issues the load again
otherwise; which bytes consume poison before they have been sampled is log 13's reading. -/
def Obligations.SpeculativeLoads : Prop :=
  ∀ (m : MArgs) (s : State), s.curCore.guard m.guard = some true → m.ply + widthOf m.w ≤ 2048 →
    let c := s.curCore
    let w := widthOf m.w
    let src := if m.port then 3 else 2
    let r := c.readScalars [m.base]
    let v := (r.1.getD 0 0 + mOffset m).toNat
    let old (form : Nat) := c.addrTab.find? fun e =>
      e.form == form && e.ply == m.ply && e.w == w && e.addr == v && e.issuedAt != s.chip
    let again : Act := .sample s.cur (v % 2 ^ 21) (64 * w) (c.sched + 6) (.plies m.ply w) true none
    (s.VaultOk .own v (64 * w) → ∃ t, exec (.ldsV m) s = .next t
        ∧ (t.core s.cur).items = c.items ++ [⟨c.sched + 3, src, c.sched, c.seq,
            .sample s.cur (v % 2 ^ 21) (64 * w) (c.sched + 6) (.plies m.ply w) true (some s.nextId)⟩]
        ∧ (∃ e, e.id = s.nextId ∧ e.form = 0 ∧ e.ply = m.ply ∧ e.w = w ∧ e.addr = v ∧ e.valid = true
            ∧ (t.core s.cur).addrTab = e :: c.addrTab.take 31))
    ∧ (¬s.VaultOk .own v (64 * w) → ∃ t, exec (.ldsV m) s = .next t ∧ (t.core s.cur).items = c.items
        ∧ (t.core s.cur).causes = c.causes ∧ ∃ e r', (t.core s.cur).addrTab = e :: r' ∧ e.id = s.nextId ∧ e.valid = false)
    ∧ (∀ e, old 0 = some e → e.valid = true ∨ e.deadAt = s.chip → s.specPoisoned c e.id = false →
        exec (.chksV m) s = .next (s.setCore s.cur r.2))
    ∧ (∀ e, old 1 = some e → e.valid = true ∨ e.deadAt = s.chip → s.specPoisoned c e.id = false →
        exec (.chksG m) s = .next (s.setCore s.cur r.2))
    ∧ ((∀ e, old 0 = some e → e.valid = false ∧ e.deadAt ≠ s.chip ∨ s.specPoisoned c e.id = true) → s.VaultOk .own v (64 * w) →
        exec (.chksV m) s = .next (s.pending r.2 3 src again))
    ∧ ((∀ e, old 1 = some e → e.valid = false ∧ e.deadAt ≠ s.chip ∨ s.specPoisoned c e.id = true) →
        exec (.chksG m) s = exec (.ldG m) s)
    ∧ (v / 4096 = (v + 64 * w - 1) / 4096 → v < 2 ^ 57 → c.global? (s.nextId + 1) = none → ∃ t, exec (.ldsG m) s = .next t
        ∧ (∃ e ∈ (t.core s.cur).addrTab, e.form = 1 ∧ e.ply = m.ply ∧ e.w = w ∧ e.addr = v)
        ∧ ((t.core s.cur).causes = c.causes))

/-- 16 R286, R288 to R290, R295, 11 R195: the global forms: an access that crosses a 4 KiB block, or a scalar or atomic at an address
that is no multiple of its size, is PROTECTION at issue+1; every other one begins as a global access whose result is due at
issue+320, its source read at issue. -/
def Obligations.GlobalForms : Prop :=
  ∀ (s : State),
    let c := s.curCore
    let bad (port : Bool) (c' : Core) (v : Nat) : Out := .next (s.setCore s.cur { c' with causes := c.causes ++
      [⟨c.sched + 1, c.sched, .protection, c.pc, if port then 0xEF else 0xDF, 0, v⟩] })
    let begins (port : Bool) (c' : Core) (v n : Nat) (k : GlobalKind) : Out :=
      .next ((s.setCore s.cur c').issueGlobal (if port then 3 else 2) v n (c.sched + 320) k none)
    (∀ m : MArgs, c.guard m.guard = some true → m.ply + widthOf m.w ≤ 2048 →
      let w := widthOf m.w
      let r := c.readScalars [m.base]
      let v := (r.1.getD 0 0 + mOffset m).toNat
      let whole := v / 4096 = (v + 64 * w - 1) / 4096
      (whole → exec (.ldG m) s = begins m.port r.2 v (64 * w) (.load (64 * w) (.plies m.ply w) none))
      ∧ (¬whole → exec (.ldG m) s = bad m.port r.2 v)
      ∧ (c.rels = [] → c.ackc + c.globals.length < 65535 →
        (whole → exec (.stG m) s = begins m.port r.2 v (64 * w) (.store (c.plyBytes m.ply w)))
        ∧ (¬whole → exec (.stG m) s = bad m.port r.2 v)))
    ∧ (∀ m : ScalarMemArgs, c.guard m.guard = some true →
      let n := 2 ^ m.size
      let r := c.readScalars [m.base]
      let v := (r.1.getD 0 0 + smOffset m).toNat
      let rs := c.readScalars [m.base, m.reg]
      let vs := (rs.1.getD 0 0 + smOffset m).toNat
      (m.size < 4 → v % n = 0 → exec (.ldxG m) s = begins m.port r.2 v n (.load n (.scalar m.reg n m.sgn) none))
      ∧ (v % n ≠ 0 → exec (.ldxG m) s = bad m.port r.2 v)
      ∧ (c.rels = [] → c.ackc + c.globals.length < 65535 →
        (vs % n = 0 → exec (.stxG m) s = begins m.port rs.2 vs n (.store (numBytes n (rs.1.getD 1 0).toNat)))
        ∧ (vs % n ≠ 0 → exec (.stxG m) s = bad m.port rs.2 vs)))

/-- 11 R195, R198, 03 R57, R58: how a global access begins: an address of 57 bits or more is TRANSLATION with FCAUSE 2; a miss of the
core TLB freezes the core; a hit whose page forbids the access is PROTECTION with its cause, and a hit that permits a load from
the HBM4 space opens the access at issue+4 and lands it, or freezes the core, at its landing cycle. -/
def Obligations.GlobalBegins : Prop :=
  ∀ (s : State) (src va n landAt : Nat) (k : GlobalKind), k.spec = none →
    let c := s.curCore
    let t := s.issueGlobal src va n landAt k none
    let fault (cls : Trap) (cause : Nat) : Prop := ∃ m, (t.core s.cur).causes = c.causes ++
      [⟨c.sched + 1, c.sched, cls, c.pc, m, cause, va % 2 ^ 64⟩] ∧ (t.core s.cur).items = c.items
    (2 ^ 57 ≤ va → fault .translation 2)
    ∧ (va < 2 ^ 57 → c.tlbFind (s.rootOf s.cur % 4096) va = none →
        ∃ h ∈ (t.core s.cur).holds, (h.cause = 2 ∨ h.cause = 3) ∧ h.id = s.nextId ∧ h.issued = c.sched)
    ∧ (∀ e, va < 2 ^ 57 → c.tlbFind (s.rootOf s.cur % 4096) va = some e → c.global? s.nextId = none →
        (k.writes = true → pteWrite e.leaf = false → fault .protection 5)
        ∧ ((k.writes = true → pteWrite e.leaf = true) → pteLoc e.leaf ≠ 0 → fault .protection 6)
        ∧ (k.writes = false → pteLoc e.leaf = 0 →
            (∃ i ∈ (t.core s.cur).items, i.due = c.sched + 3 ∧ i.act = .openGlobal s.nextId)
              ∧ (∃ i ∈ (t.core s.cur).items, i.due = landAt ∧ i.act = .globalLand s.nextId)
              ∧ ∃ a ∈ (t.core s.cur).globals, a.id = s.nextId ∧ a.va = va ∧ a.pa = some (ptePa e.leaf + va % 2 ^ e.size)))

/-- 16 R295 to R297, 11 R192: an atomic reads its operands at issue, a cas D among them, takes its old value to D, and performs at the offset of its
level; a misaligned address is PROTECTION at issue+1. -/
def Obligations.AtomicForms : Prop :=
  ∀ (op : Nat) (a : AtomArgs) (s : State) (i : Instr), atomRow op a = some i → s.curCore.guard a.guard = some true →
    let c := s.curCore
    let n := 2 ^ a.size
    let src := if a.port then 3 else 2
    let r := c.readScalars [a.base, a.src, if op = 7 then a.dst else 0]
    let v := (r.1.getD 0 0 + atomOffset a).toNat
    (∀ l, (a.level = 0 ∧ l = .own ∨ a.level = 1 ∧ l = .cluster ∨ a.level = 2 ∧ l = .die) → v % n = 0 → s.VaultOk l v n →
      ∃ d t, exec i s = .next t ∧ l.Offsets 3 d
        ∧ t.core s.cur = r.2.push d src (.atomic (vaultTarget s.cur l v) (v % 2 ^ 21) n op (r.1.getD 1 0) (r.1.getD 2 0) a.dst
            (c.sched + l.landAt) (l == .own)))
    ∧ (a.level = 3 → c.rels = [] → c.ackc + c.globals.length < 65535 → v % n = 0 → exec i s = .next ((s.setCore s.cur r.2).issueGlobal src v n
        (c.sched + 320) (.atomic n op (r.1.getD 1 0) (r.1.getD 2 0) a.dst) none))
    ∧ (c.rels = [] → c.ackc + c.globals.length < 65535 → v % n ≠ 0 → exec i s = .next (s.setCore s.cur { r.2 with causes := c.causes ++
        [⟨c.sched + 1, c.sched, .protection, c.pc, if a.port then 0xEF else 0xDF, 0, v⟩] }))

/-- 16 R296: what an atomic of n bits writes: the sum, the operand, the bitwise results, the signed greater or lesser, and for cas
the operand if the old value equals the compare value and nothing otherwise. -/
def Obligations.AtomicResults : Prop :=
  ∀ (size old v c : Nat), (size = 4 ∨ size = 8) → old < 2 ^ (8 * size) →
    let n := 8 * size
    let sx (x : Nat) : Int := (BitVec.ofNat n x).toInt
    let bitwise (op : Nat) (f : Bool → Bool → Bool) : Prop :=
      ∃ x < 2 ^ n, atomicNew op size old v c = some x ∧ ∀ k < n, x.testBit k = f (old.testBit k) (v.testBit k)
    atomicNew 0 size old v c = some ((old + v) % 2 ^ n)
      ∧ atomicNew 1 size old v c = some (v % 2 ^ n)
      ∧ bitwise 2 (· && ·) ∧ bitwise 3 (· || ·) ∧ bitwise 4 (fun a b => xor a b)
      ∧ (∃ x < 2 ^ n, atomicNew 5 size old v c = some x ∧ sx x = max (sx old) (sx v))
      ∧ (∃ x < 2 ^ n, atomicNew 6 size old v c = some x ∧ sx x = min (sx old) (sx v))
      ∧ atomicNew 7 size old v c = if old = c % 2 ^ n then some (v % 2 ^ n) else none

/-- 11 R192, R201, R206, 16 R291, R296: an access that performs changes its own bytes of its own vault and nothing else: a store its
bytes, a ply store its plies, an atomic its bytes with the old value due at its landing cycle. No register, no other vault and no
byte outside the cores changes. -/
def Obligations.VaultPerforms : Prop :=
  ∀ (s : State) (n : Nat) (i : Item),
    let t := s.performItem n i
    let byte (u : State) (m x : Nat) : Nat := (Store.read (u.core m).vault x).toNat
    (∀ m a d own, i.act = .perform m a d own → ∀ k x, byte t k x
        = if k = m ∧ a ≤ x ∧ x < a + d.length then (d.getD (x - a) 0).toNat else byte s k x)
    ∧ (∀ p k v, i.act = .performPlies p k v → s.memOk = true → ∀ m q, byte t m (q / 2) / 16 ^ (q % 2) % 16
        = if m = n ∧ p ≤ q ∧ q < p + k then v / 16 ^ (q - p) % 16 else byte s m (q / 2) / 16 ^ (q % 2) % 16)
    ∧ (∀ m a size op v c d landAt own, i.act = .atomic m a size op v c d landAt own →
        let old := Store.num (s.core m).vault a size
        (∀ k x, byte t k x = match atomicNew op size old v.toNat c.toNat with
          | some y => if k = m ∧ a ≤ x ∧ x < a + size then y / 256 ^ (x - a) % 256 else byte s k x
          | none => byte s k x)
        ∧ ⟨landAt, i.src, i.issued, i.seq, .land (.scalar d (BitVec.ofNat 64 old))⟩ ∈ (t.core n).items)
    ∧ (∀ k, (t.core k).scalars = (s.core k).scalars ∧ (t.core k).preds = (s.core k).preds ∧ (t.core k).plies = (s.core k).plies
        ∧ (t.core k).ctrl = (s.core k).ctrl)
    ∧ t.mem = s.mem

/-- 11 R195, R196, R198, R202, R206, 16 R296, 03 R48, R66, 07 R124, R125: a global access at its home slice. One that stands parked does
nothing there; one that an older overlapping access keeps tries again on the next chip cycle; one that meets lines the host holds has
each of them snooped once, with 10 ms for the answer, and waits. Every other acts: a load samples its bytes, a poisoned line reading as 0
and noted; an atomic reads the old value and writes its new one, but on a poisoned line writes nothing and gives 0; a store performs,
timed or acknowledged. Bytes that they do not write keep their values in every memory, and no register changes; an acknowledged one that
has performed lowers ACKC by one. -/
def Obligations.GlobalPerforms : Prop :=
  ∀ (s : State) (n id pa : Nat) (a : GlobalAcc), (s.core n).global? id = some a → a.id = id → a.pa = some pa →
    a.performed = false → a.held = false → (∀ h ∈ s.mem.snoops, ¬(h.core = n ∧ h.acc = id)) →
    let events := [Instr.globalStorePerform n id, .remoteWritePerform n id, .globalResultArrive n id]
    let frees := a.parked = none ∧ s.mustWait n a = false
    let acts := frees ∧ s.mem.heldLines pa a.len = []
    let frame (t : State) : Prop :=
      t.mem.tier = s.mem.tier ∧ t.mem.host = s.mem.host ∧ ∀ m, Core.SameRegs (s.core m) (t.core m)
    (a.parked ≠ none → exec (.globalStorePerform n id) s = .next s ∧ exec (.remoteWritePerform n id) s = .next s)
    ∧ (a.parked = none → s.mustWait n a = true → ∀ i ∈ events, exec i s = .next (s.plan (s.chip + 1) i))
    ∧ (frees → s.mem.heldLines pa a.len ≠ [] → ∀ i ∈ events, ∃ t, exec i s = .next t ∧ t.mem.hbm = s.mem.hbm ∧ t.cores = s.cores
        ∧ t.mem.hostLines = s.mem.hostLines
        ∧ ∀ l ∈ s.mem.heldLines pa a.len, (∃ h ∈ t.mem.snoops, h.line = l ∧ h.core = n ∧ h.acc = id)
          ∧ ((∀ h ∈ s.mem.snoops, h.line ≠ l) →
              .snoop l ∈ t.out ∧ (s.chip + 12500000, .backInvalidateTimeout l) ∈ t.agenda))
    ∧ (∀ d, a.kind = .store d → acts →
      (∃ t, exec (.globalStorePerform n id) s = .next t ∧ frame t
        ∧ ∀ x, Store.read t.mem.hbm x = if pa ≤ x ∧ x < pa + d.length then d.getD (x - pa) 0 else Store.read s.mem.hbm x)
      ∧ ∃ t, exec (.remoteWritePerform n id) s = .next t ∧ frame t ∧ (t.core n).ackc = (s.core n).ackc - 1
        ∧ ∀ x, Store.read t.mem.hbm x = if pa ≤ x ∧ x < pa + d.length then d.getD (x - pa) 0 else Store.read s.mem.hbm x)
    ∧ (∀ k into sp, a.kind = .load k into sp → acts → a.acked = false → s.xlate.migs = [] → (∀ p ∈ s.xlate.parked, p.core ≠ n) →
        ∃ t b, exec (.globalResultArrive n id) s = .next t ∧ t.mem.hbm = s.mem.hbm ∧ frame t
          ∧ (t.core n).global? id = some b ∧ b.performed = true ∧ b.data = some (s.mem.readNum 0 pa k).1
          ∧ b.poison = (s.mem.readNum 0 pa k).2
          ∧ (b.arrived = some s.chip ∨ ∃ c, s.chip < c ∧ (c, .globalResultArrive n id) ∈ t.agenda))
    ∧ (∀ size op v cm d, a.kind = .atomic size op v cm d → acts →
        let old := (s.mem.readNum 0 pa size).1
        let bad := (s.mem.readNum 0 pa size).2
        ∃ t b, exec (.globalResultArrive n id) s = .next t ∧ frame t
          ∧ (t.core n).ackc = (s.core n).ackc - (if a.acked then 1 else 0)
          ∧ (∀ x, (Store.read t.mem.hbm x).toNat = match bad, atomicNew op size old v.toNat cm.toNat with
              | [], some y => if pa ≤ x ∧ x < pa + size then y / 256 ^ (x - pa) % 256 else (Store.read s.mem.hbm x).toNat
              | _, _ => (Store.read s.mem.hbm x).toNat)
          ∧ (t.core n).global? id = some b ∧ b.performed = true ∧ b.poison = bad ∧ b.data = some (if bad = [] then old else 0)
          ∧ (b.arrived = some s.chip ∨ ∃ c, s.chip < c ∧ (c, .globalResultArrive n id) ∈ t.agenda))

/-! The V slots. -/

/-- 17 R299 to R301, R310, R311: the integer forms: exact values of A and B (the immediate under I = 1) by the type, the result wrapped
or clamped to the destination's width in every active lane, one cycle of occupancy, due at issue+2, the multiplies at issue+3. -/
def Obligations.VectorIntegers : Prop :=
  ∀ (v : VArgs) (s : State),
    let c := s.curCore
    let m := c.guardLanes v.port v.guard
    let w := widthOf v.sw
    let nb := 4 * widthOf v.dw
    let exact (n x : Nat) : Int := if v.sub = 0 then (BitVec.ofNat n x).toInt else ((BitVec.ofNat n x).toNat : Int)
    let a (l : Nat) : Int := exact (4 * w) ((c.plyVals v.sa w).getD l 0)
    let b (l : Nat) : Int := if v.b then exact 11 v.sb else exact (4 * w) ((c.plyVals v.sb w).getD l 0)
    let sh (l : Nat) : Nat := (b l % 64).toNat
    let lo : Int := if v.sub = 0 then -(2 ^ (nb - 1)) else 0
    let hi : Int := if v.sub = 0 then 2 ^ (nb - 1) - 1 else 2 ^ nb - 1
    let clamp (x : Int) : Int := max lo (min hi x)
    let lands (i : Instr) (m : LaneMask) (n : Nat) (p : Nat → BitVec nb → Prop) : Prop :=
      ∃ vals, exec i s = s.vDone v 1 n (.plies v.dst (widthOf v.dw) m vals)
        ∧ ∀ l < 128, m.getLsbD l = true → vals.getD l 0 < 2 ^ nb ∧ p l (BitVec.ofNat nb (vals.getD l 0))
    let bits (f : Bool → Bool → Bool) (l : Nat) (r : BitVec nb) : Prop :=
      ∀ k < nb, r.getLsbD k = f ((BitVec.ofInt nb (a l)).getLsbD k) ((BitVec.ofInt nb (b l)).getLsbD k)
    let dst := (v.dst, widthOf v.dw)
    let srcs := [(v.sa, w)] ++ if v.b then [] else [(v.sb, w)]
    (s.VReady v ([dst] ++ srcs) →
      lands (.viAdd v) m 2 (fun l r => r = BitVec.ofInt nb (a l + b l))
      ∧ lands (.viSub v) m 2 (fun l r => r = BitVec.ofInt nb (a l - b l))
      ∧ lands (.viMul v) m 3 (fun l r => r = BitVec.ofInt nb (a l * b l))
      ∧ lands (.viMulh v) m 3 (fun l r => r = BitVec.ofInt nb ((a l * b l).fdiv (2 ^ (4 * w))))
      ∧ lands (.viAddSat v) m 2 (fun l r => r = BitVec.ofInt nb (clamp (a l + b l)))
      ∧ lands (.viSubSat v) m 2 (fun l r => r = BitVec.ofInt nb (clamp (a l - b l)))
      ∧ lands (.viMulSat v) m 3 (fun l r => r = BitVec.ofInt nb (clamp (a l * b l)))
      ∧ lands (.viMin v) m 2 (fun l r => r = BitVec.ofInt nb (min (a l) (b l)))
      ∧ lands (.viMax v) m 2 (fun l r => r = BitVec.ofInt nb (max (a l) (b l)))
      ∧ lands (.viAnd v) m 2 (bits (· && ·)) ∧ lands (.viOr v) m 2 (bits (· || ·))
      ∧ lands (.viXor v) m 2 (bits fun x y => xor x y) ∧ lands (.viAndn v) m 2 (bits fun x y => x && !y)
      ∧ lands (.viShl v) m 2 (fun l r => r = BitVec.ofInt nb (a l * 2 ^ sh l))
      ∧ lands (.viShr v) m 2 (fun l r => r = BitVec.ofInt nb ((a l).fdiv (2 ^ sh l))))
    ∧ (s.VReady v [dst, (v.sa, w)] →
      lands (.viSel v) (m &&& c.pred v.sb) 2 (fun l r => r = BitVec.ofInt nb (a l))
      ∧ lands (.viAbs v) m 2 (fun l r => r = BitVec.ofInt nb (a l).natAbs)
      ∧ lands (.viNeg v) m 2 (fun l r => r = BitVec.ofInt nb (-(a l)))
      ∧ (v.b = false → lands (.viMov v) m 2 (fun l r => r = BitVec.ofInt nb (a l))))
    ∧ (v.b = true → s.VReady v [dst] → lands (.viMov v) m 2 (fun l r => r = BitVec.ofInt nb (b l)))
    ∧ (s.VReady v srcs → ∃ r, exec (.viCmp v) s = s.vDone v 1 2 (.pred v.dst m r) ∧ ∀ l < 128, m.getLsbD l = true →
        (v.dw = 0 → (r.getLsbD l = true ↔ a l = b l)) ∧ (v.dw = 1 → (r.getLsbD l = true ↔ a l ≠ b l))
        ∧ (v.dw = 2 → (r.getLsbD l = true ↔ a l < b l)) ∧ (v.dw = 3 → (r.getLsbD l = true ↔ a l ≤ b l))
        ∧ (v.dw = 4 → (r.getLsbD l = true ↔ b l < a l)) ∧ (v.dw = 5 → (r.getLsbD l = true ↔ b l ≤ a l)))

/-- 17 R312, R313, R315, 18 R325, R326: predicate logic (each active lane's bit, at issue+1), perm and xcopy (whole plies of the source
lane, whatever its guard), flgrd (the 40 flag bits of a lane) and flgclr (clears what the mask selects, in the active lanes). -/
def Obligations.PredicatesAndLanes : Prop :=
  ∀ (v : VArgs) (s : State),
    let c := s.curCore
    let m := c.guardLanes v.port v.guard
    let w := widthOf v.dw
    let logic (i : Instr) (f : Bool → Bool → Bool) : Prop := ∃ r, exec i s = s.vDone v 1 1 (.pred v.dst m r)
      ∧ ∀ l < 128, m.getLsbD l = true → r.getLsbD l = f ((c.pred v.sa).getLsbD l) ((c.pred v.sb).getLsbD l)
    let p := v.sb % 16
    let pos (mode i : Nat) : Option Nat :=
      if mode = 0 then some p else if mode = 1 then some ((i + p) % 16) else if mode = 2 then some (Nat.xor i p)
      else if mode = 3 then (if p ≤ i then some (i - p) else none)
      else if mode = 4 then (if i + p < 16 then some (i + p) else none) else some (15 - i)
    let q := v.sb % 8
    let grp (mode g : Nat) : Nat := if mode = 0 then (g + q) % 8 else if mode = 1 then Nat.xor g q else q
    (s.VReady v [] → logic (.pand v) (· && ·) ∧ logic (.por v) (· || ·) ∧ logic (.pxor v) (fun x y => xor x y)
      ∧ logic (.pandn v) (fun x y => x && !y) ∧ logic (.porn v) (fun x y => x || !y) ∧ logic (.pmov v) (fun x _ => x))
    ∧ (s.VReady v [(v.dst, w), (v.sa, w)] →
      (∃ vals, exec (.perm v) s = s.vDone v 1 2 (.plies v.dst w m vals) ∧ ∀ l < 128, m.getLsbD l = true →
        vals.getD l 0 = match pos (v.sb / 256) (l % 16) with
          | some i => (c.plyVals v.sa w).getD (16 * (l / 16) + i) 0
          | none => 0)
      ∧ ∃ vals, exec (.xcopy v) s = s.vDone v 1 8 (.plies v.dst w m vals) ∧ ∀ l < 128, m.getLsbD l = true →
        vals.getD l 0 = (c.plyVals v.sa w).getD (16 * grp (v.sb / 512) (l / 16) + l % 16) 0)
    ∧ (s.VReady v [(v.dst, 10)] → ∃ vals, exec (.flgrd v) s = s.vDone v 1 2 (.plies v.dst 10 m vals)
        ∧ ∀ l < 128, m.getLsbD l = true → vals.getD l 0 < 2 ^ 40
          ∧ ∀ b < 40, (vals.getD l 0).testBit b = (Store.read c.flagFile b).getLsbD l)
    ∧ (s.VReady v [(v.sa, 10)] → ∃ clear, exec (.flgclr v) s = s.vDone v 1 1 (.flags [] clear)
        ∧ ∀ b l, l < 128 → (clear.any (fun x => x.1 == b && x.2.getLsbD l)
          = (decide (b < 40) && m.getLsbD l && ((c.plyVals v.sa 10).getD l 0).testBit b)))

/-- 10 R171, 17 R301, 18 R317: the traps of a V form at issue: TIMING in a slot still occupied, PLY_RANGE of an operand beyond ply
2047, ILLEGAL of a coefficient number above the order; none of them for a form without an active lane. -/
def Obligations.VectorTraps : Prop :=
  ∀ (v : VArgs) (s : State), s.curCore.guardLanes v.port v.guard ≠ 0 →
    let c := s.curCore
    let k := c.jord
    let w := fmtPlies v.sub
    (∀ i, vArgs i = some v → c.sched < c.vBusy v.port →
      ∃ t, exec i s = .next (s.trapHere t) ∧ (t = .timing ∨ t = .plyRange ∨ t = .illegal))
    ∧ (c.sched < c.vBusy v.port → exec (.pand v) s = .next (s.trapHere .timing))
    ∧ (2048 < v.dst + widthOf v.dw ∨ 2048 < v.sa + widthOf v.sw ∨ (v.b = false ∧ 2048 < v.sb + widthOf v.sw) →
        exec (.viAdd v) s = .next (s.trapHere .plyRange))
    ∧ (2048 < v.dst + (k + 1) * w ∨ 2048 < v.sa + (k + 1) * w ∨ 2048 < v.sb + (k + 1) * w →
        exec (.vfAdd v) s = .next (s.trapHere .plyRange))
    ∧ (k < v.sb % 8 → exec (.jset v) s = .next (s.trapHere .illegal) ∧ exec (.jget v) s = .next (s.trapHere .illegal)
        ∧ exec (.jgetD v) s = .next (s.trapHere .illegal))

/-- 10 R176, R177, 12 R222, R223, 17 R300, R302, R303, R305: float arithmetic on jets of order k: coefficient j of every active lane is
the series expression on exact sums, products and quotients, rounded once by the dynamic mode; occupancy and landing by the order
at issue; the coefficients take w plies each from the destination on, and each coefficient's flags join its own position unless
the form is quiet. -/
def Obligations.FloatArithmetic : Prop :=
  (∀ (v : VArgs) (s : State), v.sub < 4 →
    let c := s.curCore
    let F := fpFmt v.sub
    let w := fmtPlies v.sub
    let k := c.jord
    let m := c.guardLanes v.port v.guard
    let r := c.rnd v.port 7 (rsAllowed v.sub)
    let at_ (p l j : Nat) : FV := fvSrc (decodeFp F ((c.plyVals (p + j * w) w).getD l 0))
    let own (done : List EV) (j : Nat) : FV := fvSrc (done.getD j EV.zero)
    let sum (xs : List FV) : FV := fvSum r.mode xs
    let less (x : FV) (ts : List FV) : FV := if ts = [] then x else sum [x, fvNeg (sum ts)]
    let conv (l j : Nat) : FV := sum ((List.range (j + 1)).map fun i => fvMul (at_ v.sa l i) (at_ v.sb l (j - i)))
    let foot (ps : List Nat) : List (Nat × Nat) := ps.map fun p => (p, (k + 1) * w)
    let gives (i : Instr) (occ n : Nat) (x : List EV → Nat → Nat → FV) : Prop :=
      ∃ f, exec i s = s.fDone v occ n w k f ∧ ∀ l < 128, m.getLsbD l = true → (f l).length = k + 1
        ∧ ∀ j ≤ k, (f l)[j]? = some (fvRound F r.mode (r.draw l j) (x (((f l).take j).map fun y => decodeFp F y.1) l j))
    let lin := (k + 1 + 3) / 4
    let quad := ((k + 1) * (k + 2) + 7) / 8
    let div := quad + (if v.sub = 0 then 7 else 3)
    (s.VReady v (foot [v.dst, v.sa, v.sb]) →
      gives (.vfAdd v) lin (lin + 3) (fun _ l j => sum [at_ v.sa l j, at_ v.sb l j])
      ∧ gives (.vfSub v) lin (lin + 3) (fun _ l j => sum [at_ v.sa l j, fvNeg (at_ v.sb l j)])
      ∧ gives (.vfMul v) quad (quad + 4) (fun _ l j => conv l j)
      ∧ gives (.vfFma v) quad (quad + 4) (fun _ l j => sum [conv l j, at_ v.dst l j])
      ∧ gives (.vfDiv v) div (div + 6) (fun d l j => fvDiv
          (less (at_ v.sa l j) ((List.range j).map fun i => fvMul (own d i) (at_ v.sb l (j - i)))) (at_ v.sb l 0)))
    ∧ (s.VReady v (foot [v.dst, v.sa]) → gives (.sqrt v) div (div + 6) (fun d l j =>
        if j = 0 then fvSqrt (decodeFp F ((c.plyVals v.sa w).getD l 0))
        else fvDiv (less (at_ v.sa l j) (((List.range j).drop 1).map fun i => fvMul (own d i) (own d (j - i))))
          (fvMul ⟨.fin false 2 1, FpFlags.none⟩ (own d 0)))))
  ∧ ∀ (c : Core) (v : VArgs) (n w k : Nat) (m : LaneMask) (f : Nat → List Coef), 0 < w →
    let t := c.landJet v n w k m f
    ∃ vals more, t.items = c.items ++ ⟨c.sched + n, if v.port then 5 else 4, c.sched, c.seq,
        .land (.plies v.dst (w * (k + 1)) m vals)⟩ :: more
      ∧ (∀ l < 128, m.getLsbD l = true → ∀ j, vals.getD l 0 / 2 ^ (4 * w * j) % 2 ^ (4 * w)
          = ((f l).getD j (0, FpFlags.none)).1 % 2 ^ (4 * w))
      ∧ (∀ x ∈ more, x.due = c.sched + n)
      ∧ ∀ l < 128, ∀ j ≤ k, ∀ i < 5,
        (v.b = false ∧ m.getLsbD l = true ∧ ((f l).getD j (0, FpFlags.none)).2.code.testBit i = true)
          ↔ ∃ x ∈ more, ∃ sets, x.act = .land (.flags sets []) ∧ ∃ p ∈ sets, p.1 = 5 * j + i ∧ p.2.getLsbD l = true

/-- 12 R219, R220, 17 R304 to R309, R314: the float forms that round nothing and carry whole jets (min, max, abs, neg, sel), the float
compare, conversion with its CVT trap at the landing, and reduction within a group: the float types by the fixed tree of R314, each
step rounded once and its flags joined, the integer types on exact values. -/
def Obligations.FloatChoices : Prop :=
  ∀ (v : VArgs) (s : State),
    let c := s.curCore
    let F := fpFmt v.sub
    let w := fmtPlies v.sub
    let k := c.jord
    let m := c.guardLanes v.port v.guard
    let codes (p w l : Nat) : List Nat := (List.range (k + 1)).map fun j => (c.plyVals (p + j * w) w).getD l 0
    let x0 (p l : Nat) : EV := decodeFp F ((c.plyVals p w).getD l 0)
    let lin := (k + 1 + 3) / 4
    let gives (i : Instr) (n w : Nat) (p : Nat → List Coef → Prop) : Prop :=
      ∃ f, exec i s = s.fDone v lin n w k f ∧ ∀ l < 128, m.getLsbD l = true → p l (f l)
    let only (cs : List Nat) (inv : Bool) : List Coef :=
      cs.mapIdx fun j x => (x, { FpFlags.none with invalid := j == 0 && inv })
    -- the choice of R304 between the jets of codes ca and cb
    let pick (F : FpFmt) (less : Bool) (ca cb : List Nat) (r : List Coef) : Prop :=
      let a := decodeFp F (ca.headD 0)
      let b := decodeFp F (cb.headD 0)
      let inv := a.isSig || b.isSig
      (a.isNan = true → b.isNan = true → r = only (F.nan :: ca.tail) inv)
        ∧ (a.isNan = true → b.isNan = false → r = only cb inv)
        ∧ (a.isNan = false → b.isNan = true → r = only ca inv)
        ∧ (a.isNan = false → b.isNan = false →
          (evLt a b = true → r = only (if less then ca else cb) inv)
          ∧ (evLt b a = true → r = only (if less then cb else ca) inv)
          ∧ (evEq a b = true → (a.isZero = false ∨ a.isNeg = b.isNeg) → r = only ca inv)
          ∧ (a.isZero = true → b.isZero = true → a.isNeg ≠ b.isNeg → r = only (if a.isNeg = less then ca else cb) inv))
    let choose (less : Bool) (l : Nat) (r : List Coef) : Prop := pick F less (codes v.sa w l) (codes v.sb w l) r
    let signed (flip : Bool) (x : Nat) : Coef :=
      if (decodeFp F x).isNan then (F.nan, { FpFlags.none with invalid := (decodeFp F x).isSig })
      else (if flip then Nat.xor x (2 ^ (F.bits - 1)) else x, FpFlags.none)
    let foot (ps : List Nat) : List (Nat × Nat) := ps.map fun p => (p, (k + 1) * w)
    (v.sub < 4 → s.VReady v (foot [v.dst, v.sa, v.sb]) →
      gives (.vfMin v) (lin + 3) w (choose true) ∧ gives (.vfMax v) (lin + 3) w (choose false))
    ∧ (v.sub < 4 → s.VReady v (foot [v.dst, v.sa]) →
      gives (.vfAbs v) (lin + 1) w (fun l r => r = (codes v.sa w l).map (signed (x0 v.sa l).isNeg))
      ∧ gives (.vfNeg v) (lin + 1) w (fun l r => r = (codes v.sa w l).map (signed true))
      ∧ ∃ vals, exec (.vfSel v) s = s.vDone v lin (lin + 1) (.plies v.dst (w * (k + 1)) (m &&& c.pred v.sb) vals)
        ∧ ∀ l < 128, m.getLsbD l = true → (c.pred v.sb).getLsbD l = true → ∀ j ≤ k,
          vals.getD l 0 / 2 ^ (4 * w * j) % 2 ^ (4 * w) = (codes v.sa w l).getD j 0)
    ∧ (v.sub < 4 → s.VReady v [(v.sa, w), (v.sb, w)] → ∃ r cs, exec (.vfCmp v) s = .next (s.setCore s.cur
          ((((c.push 2 (srcV v.port) (.land (.pred v.dst m r))).landFlagCodes v 2 0 m cs)).occupy v.port 1))
        ∧ ∀ l < 128, m.getLsbD l = true →
          let a := x0 v.sa l
          let b := x0 v.sb l
          let un := a.isNan || b.isNan
          (un = true → (r.getLsbD l = true ↔ v.dw = 1 ∨ v.dw = 6))
          ∧ (un = false → v.dw < 8 → (r.getLsbD l = true ↔ (v.dw = 0 ∧ evEq a b = true) ∨ (v.dw = 1 ∧ evEq a b = false)
              ∨ (v.dw = 2 ∧ evLt a b = true) ∨ (v.dw = 3 ∧ evLt b a = false) ∨ (v.dw = 4 ∧ evLt b a = true)
              ∨ (v.dw = 5 ∧ evLt a b = false) ∨ v.dw = 7))
          ∧ cs.getD l [] = [if (2 ≤ v.dw ∧ v.dw ≤ 5 ∧ un = true) ∨ a.isSig = true ∨ b.isSig = true then 16 else 0])
    ∧ (let dw := widthOf v.dw
      let sw := widthOf v.sw
      let r := c.rnd v.port (v.sb / 256) (rsAllowed (v.sb / 8 % 8))
      let conv (l j : Nat) : Conv := cvtCoef v r.mode (r.draw l j) ((codes v.sa sw l).getD j 0)
      s.VReady v [(v.dst, (k + 1) * dw), (v.sa, (k + 1) * sw)] →
      ∃ vals cs trap, exec (.cvt v) s = .next (s.setCore s.cur
          (((c.push (lin + 3) (srcV v.port) (if trap then .landTrap (.plies v.dst (dw * (k + 1)) m vals)
            else .land (.plies v.dst (dw * (k + 1)) m vals))).landFlagCodes v (lin + 3) k m cs).occupy v.port lin))
        ∧ (trap = true ↔ ∃ l < 128, m.getLsbD l = true ∧ ∃ j ≤ k, (conv l j).trap = true)
        ∧ ∀ l < 128, m.getLsbD l = true → ∀ j ≤ k,
          vals.getD l 0 / 2 ^ (4 * dw * j) % 2 ^ (4 * dw) = (conv l j).code % 2 ^ (4 * dw)
            ∧ (cs.getD l []).getD j 0 = (conv l j).flags.code)
    ∧ (let dw := widthOf v.dw
      let sw := widthOf v.sw
      let ty := v.sb / 32 % 8
      let op := v.sb / 256
      let nb := 4 * dw
      let exact (l : Nat) : Int := let x := BitVec.ofNat (4 * sw) ((c.plyVals v.sa sw).getD l 0)
        if ty = 4 then x.toInt else x.toNat
      let group (l : Nat) : List Nat := ((List.range 16).map fun i => 16 * (l / 16) + i).filter fun i => m.getLsbD i
      let lo : Int := if ty = 4 then -(2 ^ (nb - 1)) else 0
      let hi : Int := if ty = 4 then 2 ^ (nb - 1) - 1 else 2 ^ nb - 1
      (ty < 4 → s.VReady v [(v.dst, (k + 1) * dw), (v.sa, (k + 1) * sw)] →
        let F := fpFmt ty
        let r := c.rnd v.port 7 (rsAllowed ty)
        let src (x : List Coef) (j : Nat) : FV := fvSrc (decodeFp F (x.getD j (0, FpFlags.none)).1)
        -- a step's own coefficients, each with the flags gathered below it
        let joined (own a b : List Coef) : List Coef := own.mapIdx fun j x =>
          (x.1, (x.2.or (a.getD j (0, FpFlags.none)).2).or (b.getD j (0, FpFlags.none)).2)
        -- t n i: position i of R314's tree after n levels
        ∃ f, exec (.red v) s = s.fDone v lin (lin + 7) dw k f ∧ ∃ t : Nat → Nat → Option (List Coef),
          (∀ i < 128, t 0 i = if m.getLsbD i then some ((codes v.sa sw i).map fun x => (x, FpFlags.none)) else none)
          ∧ (∀ n < 4, ∀ i < 128, i % 2 ^ (n + 1) = 0 →
            (t n i = none → t (n + 1) i = t n (i + 2 ^ n)) ∧ (t n (i + 2 ^ n) = none → t (n + 1) i = t n i)
            ∧ ∀ a b, t n i = some a → t n (i + 2 ^ n) = some b → ∃ own, t (n + 1) i = some (joined own a b)
              ∧ (op = 0 → own = (List.range (k + 1)).map fun j =>
                  fvRound F r.mode (r.draw i j) (fvSum r.mode [src a j, src b j]))
              ∧ (op = 1 → pick F true (a.map Prod.fst) (b.map Prod.fst) own)
              ∧ (op = 2 → pick F false (a.map Prod.fst) (b.map Prod.fst) own))
          ∧ ∀ l < 128, m.getLsbD l = true → some (f l) = t 4 (16 * (l / 16)))
      ∧ (4 ≤ ty → s.VReady v [(v.dst, dw), (v.sa, sw)] → ∃ vals, exec (.red v) s = s.vDone v 1 4 (.plies v.dst dw m vals)
        ∧ ∀ l < 128, m.getLsbD l = true → vals.getD l 0 < 2 ^ nb ∧
          let r := BitVec.ofNat nb (vals.getD l 0)
          let sum := ((group l).map exact).sum
          (op = 0 → r = BitVec.ofInt nb sum) ∧ (op = 3 → r = BitVec.ofInt nb (max lo (min hi sum)))
          ∧ (op = 1 → ∃ i ∈ group l, r = BitVec.ofInt nb (exact i) ∧ ∀ j ∈ group l, exact i ≤ exact j)
          ∧ (op = 2 → ∃ i ∈ group l, r = BitVec.ofInt nb (exact i) ∧ ∀ j ∈ group l, exact j ≤ exact i)
          ∧ (op = 4 → ∀ b < nb, r.getLsbD b = (group l).all fun i => (BitVec.ofInt nb (exact i)).getLsbD b)
          ∧ (op = 5 → ∀ b < nb, r.getLsbD b = (group l).any fun i => (BitVec.ofInt nb (exact i)).getLsbD b)
          ∧ (op = 6 → r = (group l).foldl (fun x i => x ^^^ BitVec.ofInt nb (exact i)) 0)))

/-- 12 R224, 18 R317 to R324: the jet forms and the special functions: what each writes, its occupancy and landing, and coefficient 0 at
the special arguments of R322. -/
def Obligations.JetsAndFunctions : Prop :=
  ∀ (v : VArgs) (s : State), v.sub < 4 →
    let c := s.curCore
    let F := fpFmt v.sub
    let w := fmtPlies v.sub
    let k := c.jord
    let m := c.guardLanes v.port v.guard
    let r := c.rnd v.port 7 (rsAllowed v.sub)
    let code (p l j : Nat) : Nat := (c.plyVals (p + j * w) w).getD l 0
    let at_ (l j : Nat) : FV := fvSrc (decodeFp F (code v.sa l j))
    let one := F.bias * 2 ^ F.fb
    let lin := (k + 1 + 3) / 4
    let jn := v.sb % 8
    let scaled (num den : Nat) (x : FV) : FV := fvMul ⟨.fin false num den, FpFlags.none⟩ x
    let gives (i : Instr) (occ n k : Nat) (p : Nat → List Coef → Prop) : Prop :=
      ∃ f, exec i s = s.fDone v occ n w k f ∧ ∀ l < 128, m.getLsbD l = true → p l (f l)
    let rounds (l j : Nat) (x : FV) : Coef := fvRound F r.mode (r.draw l j) x
    (s.VReady v [(v.dst, (k + 1) * w), (v.sa, w)] →
      (∃ vals, exec (.jseed v) s = s.vDone v lin (lin + 1) (.plies v.dst (w * (k + 1)) m vals)
        ∧ ∀ l < 128, m.getLsbD l = true → ∀ j ≤ k, vals.getD l 0 / 2 ^ (4 * w * j) % 2 ^ (4 * w)
          = if j = 0 then code v.sa l 0 else if j = 1 then one else 0)
      ∧ (jn ≤ k → ∃ vals, exec (.jset v) s = s.vDone v 1 2 (.plies (v.dst + jn * w) w m vals)
        ∧ ∀ l < 128, m.getLsbD l = true → vals.getD l 0 = code v.sa l 0))
    ∧ (jn ≤ k → s.VReady v [(v.dst, w), (v.sa, (k + 1) * w)] →
      (∃ vals, exec (.jget v) s = s.vDone v 1 2 (.plies v.dst w m vals)
        ∧ ∀ l < 128, m.getLsbD l = true → vals.getD l 0 = code v.sa l jn)
      ∧ gives (.jgetD v) 1 4 0 (fun l x => x = [rounds l 0 (scaled (Nat.rec 1 (fun i p => (i + 1) * p) jn) 1 (at_ l jn))]))
    ∧ (s.VReady v [(v.dst, (k + 1) * w), (v.sa, (k + 1) * w)] →
      gives (.jdif v) lin (lin + 4) k (fun l x => x = (List.range (k + 1)).map fun j =>
          if j = k then (0, FpFlags.none) else rounds l j (scaled (j + 1) 1 (at_ l (j + 1))))
      ∧ gives (.jint v) lin (lin + 6) k (fun l x => x = (List.range (k + 1)).map fun j =>
          if j = 0 then (0, FpFlags.none) else rounds l j (scaled 1 j (at_ l (j - 1))))
      ∧ (let quad := (k * (k + 1) + 7) / 8
        let short := if v.sub = 0 then 7 else 3
        let long := if v.sub = 0 then 12 else 4
        let half := (F.bias - 1) * 2 ^ F.fb
        let neg := 2 ^ (F.bits - 1)
        let inf := (2 ^ F.eb - 1) * 2 ^ F.fb
        -- the codes of coefficient 0 at +0, -0, +infinity and -infinity, by R322
        let fn (i : Instr) (occ : Nat) (table : List Nat) : Prop :=
          gives i occ (occ + 6) k (fun l x => x.length = k + 1 ∧
            let z := ((x.headD (0, FpFlags.none)).1)
            let a := decodeFp F (code v.sa l 0)
            (a.isNan = true → z = F.nan)
            ∧ (a.isZero = true → z = table.getD (if a.isNeg then 1 else 0) 0)
            ∧ (a = .inf false → z = table.getD 2 0) ∧ (a = .inf true → z = table.getD 3 0))
        fn (.rcp v) (short + quad) [inf, neg + inf, 0, neg]
        ∧ fn (.rsqrt v) (short + quad) [inf, neg + inf, 0, F.nan]
        ∧ fn (.exp v) (long + quad) [one, one, inf, 0]
        ∧ fn (.log v) (long + quad) [neg + inf, neg + inf, inf, F.nan]
        ∧ fn (.sin v) (long + 2 * quad) [0, neg, F.nan, F.nan]
        ∧ fn (.cos v) (long + 2 * quad) [one, one, F.nan, F.nan]
        ∧ fn (.tanh v) (long + 2 * quad) [0, neg, one, neg + one]
        ∧ fn (.sigmoid v) (long + 2 * quad) [half, half, one, 0]
        ∧ fn (.erf v) (long + 2 * quad) [0, neg, one, neg + one]))

/-- 12 R217 to R220: rounding n/d to a grid of last place 2^e by each mode, and the conversions' values outside a format by the
overflow policy. That an integer conversion tests its range on the value already rounded to an integer is the model's deduction
(log 19). -/
def Obligations.Rounding : Prop :=
  (∀ (mode draw n d : Nat) (neg : Bool) (e : Int), 0 < d →
    let num := if 0 ≤ e then n else n * 2 ^ (-e).toNat
    let den := if 0 ≤ e then d * 2 ^ e.toNat else d
    let r := roundGrid mode draw neg n d e
    let q := r.1
    (r.2 = false ↔ num % den = 0) ∧ (num % den = 0 → q * den = num) ∧ (q = num / den ∨ q = num / den + 1)
      ∧ (mode = 1 ∨ (mode = 2 ∧ neg = true) ∨ (mode = 3 ∧ neg = false) → q * den ≤ num ∧ num < q * den + den)
      ∧ ((mode = 2 ∧ neg = false) ∨ (mode = 3 ∧ neg = true) → num ≤ q * den ∧ q * den < num + den)
      ∧ (mode = 0 → 2 * (q * den) ≤ 2 * num + den ∧ 2 * num ≤ 2 * (q * den) + den
          ∧ (2 * (num % den) = den → q % 2 = 0))
      ∧ (mode = 4 → num % den ≠ 0 → (q = num / den + 1 ↔ draw < num % den * 2 ^ 32 / den)))
  ∧ (∀ (i mode draw pol : Nat) (v : EV), i < 7 →
    let F := fpFmt i
    let r := convFloat F mode pol draw v
    let inf (s : Bool) := (if s then 2 ^ (F.bits - 1) else 0) + (2 ^ F.eb - 1) * 2 ^ F.fb
    let big (s : Bool) := (if s then 2 ^ (F.bits - 1) else 0) + F.maxCode
    (∀ sig, v = .nan sig → F.hasNan = true → r.code = F.nan ∧ r.trap = false ∧ r.flags.invalid = sig)
      ∧ (∀ s, v = .inf s → F.hasInf = true → r.code = inf s ∧ r.trap = false ∧ r.flags = FpFlags.none)
      ∧ (∀ s n d, v = .fin s n d → (roundMag F mode draw s n d).2.1 = true →
          r.flags.overflow = true ∧ r.flags.inexact = true
          ∧ (pol = 0 → r.code = big s ∧ r.trap = false) ∧ (pol = 1 → F.hasInf = true → r.code = inf s ∧ r.trap = false)
          ∧ (pol = 2 → F.hasNan = true → r.code = F.nan ∧ r.trap = false) ∧ (pol = 3 → r.trap = true)))
  ∧ ∀ (sgn : Bool) (n mode pol : Nat) (v : EV), 0 < n →
    let r := convInt sgn n mode pol v
    let lo : Int := if sgn then -(2 ^ (n - 1)) else 0
    let hi : Int := if sgn then 2 ^ (n - 1) - 1 else 2 ^ n - 1
    let code (i : Int) : Nat := (BitVec.ofInt n i).toNat
    let bad (i : Int) : Prop := r.code = code i ∧ r.flags = { FpFlags.none with invalid := true } ∧ (r.trap = true ↔ pol = 3)
    (∀ sig, v = .nan sig → bad 0) ∧ (v = .inf false → bad hi) ∧ (v = .inf true → bad lo)
      ∧ ∀ s a b, v = .fin s a b →
        let q := roundGrid mode 0 s a b 0
        let i : Int := if s then -(q.1 : Int) else q.1
        (i < lo → bad lo) ∧ (hi < i → bad hi)
        ∧ (lo ≤ i → i ≤ hi → r.code = code i ∧ r.flags = { FpFlags.none with inexact := q.2 } ∧ r.trap = false)

/-! The T and E slots. -/

/-- 13 R229 to R233, R236, 19 R328: zero opens a tile, push holds a view row for the array, a shift streams a view row and emerges 67
cycles and its occupancy later, an assay streams the column checksum; the held array and the busy slot trap. -/
def Obligations.TensorBeats : Prop :=
  ∀ (t : TArgs) (s : State), s.curCore.guard t.guard = some true →
    let c := s.curCore
    let a := c.array
    let d := c.td t.desc
    let r := t.aux / 16
    let into (x : ArrayState) : Out := .next (s.setCore s.cur { c with array := x })
    (c.arrayHeld = true → ∀ i ∈ [Instr.zero t, .push t, .shift t, .assayBeat t, .acc t, .shiftAcc t, .assayAcc t, .drain t],
        exec i s = .next (s.trapHere .illegal))
    ∧ (c.arrayHeld = false →
      (a.tile = none → a.busy ≤ c.sched → ∃ x, exec (.zero t) s = into { a with tile := some x } ∧ x.ad = none ∧ x.claimed = []
          ∧ x.shifted = 0 ∧ x.u = [] ∧ x.acc = [] ∧ x.cksAcc = [] ∧ x.drains = [] ∧ x.isat = false ∧ x.cks = none)
      ∧ (a.tile ≠ none → exec (.zero t) s = .next (s.trapHere .illegal))
      ∧ (a.tile = none → c.sched < a.busy → exec (.zero t) s = .next (s.trapHere .timing))
      ∧ (∀ l, pairLine d.fmt = some l → lineJord l c.jord = true → (t.blk = true → lineBlk l = true) →
          d.cols ≤ (if l = 5 then 64 else 64 * lineG l) → r < d.rows → (∀ x, a.tile = some x → x.shifted = 0) →
          d.base + (c.jord + 1) * d.span ≤ 2048 → (t.blk = true → d.base + d.span + 3 * d.rows ≤ 2048) → a.busy ≤ c.sched →
        ∃ row, exec (.push t) s = into { a with pushes := a.pushes ++ [(c.sched, t.row, row)] }
          ∧ row.fmt = d.fmt ∧ row.kb = c.jord ∧ (row.blocks.isSome = t.blk)
          ∧ (d.fmt ≠ 0x0B → row.codes = (List.range (c.jord + 1)).map fun q => c.viewRow d q r))
      ∧ (∀ line, c.MayShift t line → ∃ b x y, a.tile = some x ∧
          exec (.shift t) s = into { a with beats := a.beats ++ [b], busy := c.sched + shiftOcc line c.jord (rowsKb a.rows), tile := some y }
          ∧ b.issued = c.sched ∧ b.emerge = c.sched + 67 + shiftOcc line c.jord (rowsKb a.rows) ∧ b.assay = false
          ∧ b.line = line ∧ b.k = c.jord ∧ b.fmt = d.fmt ∧ b.neg = t.neg ∧ b.disc = t.disc
          ∧ (d.fmt ≠ 0x0B → b.codes = (List.range (c.jord + 1)).map fun q => c.viewRow d q r)
          ∧ y.shifted = x.shifted + 1 ∧ y.line = some line ∧ y.claimed = x.claimed ∧ y.acc = x.acc ∧ y.u = x.u)
      ∧ (a.tile = none → exec (.shift t) s = .next (s.trapHere .illegal) ∧ exec (.assayBeat t) s = .next (s.trapHere .illegal))
      ∧ ∀ x, c.MayAssay x → ∃ b, exec (.assayBeat t) s
          = into { a with beats := a.beats ++ [b], busy := c.sched + x.occ, tile := some { x with shifted := 0, u := [], um := [] } }
          ∧ b.issued = c.sched ∧ b.emerge = c.sched + 67 + x.occ ∧ b.assay = true ∧ b.codes = x.u ∧ b.mags = x.um ∧ b.k = x.k)

/-- 12 R221, 13 R231 to R233, R235, R238, 19 R329: a claim adds (with ow writes) the emerging row to its accumulator row at issue+2 in
lanes 0 to 63, but for the bit that an armed upset inverts (08 R146; that a second claim before the first one's landing does not fire
is the model's reading, log 9); guarded off it drops the row; a beat of two parts does both; a drain copies its row at issue+4, and
the checksum drain closes the tile. -/
def Obligations.TensorClaims : Prop :=
  (∀ (t : TArgs) (s : State), s.curCore.arrayHeld = false →
    let c := s.curCore
    let drops (i : Instr) : Prop := ∀ b, c.emerging = some b →
      exec i s = .next (s.setCore s.cur { c with array := { c.array with beats := c.array.beats.filter (· != b) } })
    (c.guard t.guard = some false → drops (.acc t) ∧ drops (.shiftAcc t) ∧ drops (.assayAcc t))
    ∧ (c.guard t.guard = some true →
      (∀ b x, c.MayClaim t.desc (t.aux / 16) t.ow t.cks b x →
        let d := c.accDesc t.desc
        let r := t.aux / 16
        -- 08 R145, R146: the armed upset fires unless an earlier claim's is still on its way
        let w := s.dbg.upsetCtl.toNat
        let fires : Prop := t.cks = false ∧ w.testBit 63 = true ∧ w / 2 ^ 48 % 256 = s.cur ∧ w / 2 ^ 56 % 4 = t.desc ∧ w / 2 ^ 32 % 512 = r
          ∧ ∀ i ∈ c.items, ∀ m q n, i.act ≠ .upsetFire m q n
        let hits (j l : Nat) : Prop := fires ∧ j = 0 ∧ l = w / 2 ^ 8 % 64 ∧ w % 64 < 4 * d.width
        ∃ u y, exec (.acc t) s = .next u ∧ (u.core s.cur).array.tile = some y ∧ y.ad = some t.desc
          ∧ (u.core s.cur).array.beats = c.array.beats.filter (· != b) ∧ (∀ n, n ≠ s.cur → u.core n = s.core n)
          ∧ (t.cks = true → y.cksClaimed = true ∧ y.claimed = x.claimed ∧ (u.core s.cur).items = c.items)
          ∧ (t.cks = false → (∀ q, q ∈ y.claimed ↔ q = r ∨ q ∈ x.claimed) ∧ ∀ j ≤ b.k, ∃ i ∈ (u.core s.cur).items, ∃ vals,
              i.due = c.sched + 2 ∧ i.act = .land (.plies (d.base + j * (d.rows * d.width) + r * d.width) d.width
                (BitVec.ofNat 128 (2 ^ 64 - 1)) vals)
              ∧ ∀ l < 64,
                let v := (claimElement d.fmt t.ow
                  ((c.plyVals (d.base + j * (d.rows * d.width) + r * d.width) d.width).getD l 0) ((b.out.getD j []).getD l 0)).1
                (hits j l → vals.getD l 0 = Nat.xor v (2 ^ (w % 64))) ∧ (¬hits j l → vals.getD l 0 = v))
          ∧ (fires ↔ ∃ i ∈ (u.core s.cur).items, i ∉ c.items ∧ i.due = c.sched + 2
              ∧ i.act = .upsetFire t.desc r (w / 2 ^ 8 % 64)))
      ∧ (∀ b x line, let a : TArgs := { t with desc := t.aux % 4, aux := 16 * t.row }
          c.MayClaim (t.aux % 4) t.row t.ow t.cks b x →
          (c.MayShift t line → ∃ u w, exec (.acc a) s = .next u ∧ exec (.shift t) u = .next w ∧ exec (.shiftAcc t) s = .next w)
          ∧ (c.MayAssay x → ∃ u w, exec (.acc a) s = .next u ∧ exec (.assayBeat t) u = .next w ∧ exec (.assayAcc t) s = .next w))
      ∧ (c.array.tile ≠ none → c.emerging = none → t.aux / 16 < (c.accDesc t.desc).rows →
          (c.accDesc t.desc).base + (c.accDesc t.desc).rows * (c.accDesc t.desc).width ≤ 2048 →
          (∀ x, c.array.tile = some x → t.ow = !(x.claimed.contains (t.aux / 16)) ∧ (x.ad = none ∨ x.ad = some t.desc)) →
          t.cks = false → exec (.acc t) s = .next (s.trapHere .timing))
      ∧ (∀ x, c.array.tile = some x →
        let m := t.desc % 4
        let r := t.desc / 4 * 128 + t.row
        let vr := t.aux / 16
        let d := c.td (t.aux % 16)
        let ad := c.accDesc m
        x.ad = some m → (x.adFmt = 0 ↔ ad.fmt = 0) → (x.adFmt = 1 ↔ ad.fmt = 1) → d.fmt = (if ad.fmt = 0 then 2 else if ad.fmt = 1 then 1 else 0x0F) → 64 ≤ d.cols → vr < d.rows →
          ad.base + (x.k + 1) * (ad.rows * ad.width) ≤ 2048 → d.base + (x.k + 1) * d.span ≤ 2048 →
        (t.cks = false → r ∈ x.claimed → r < ad.rows → (∀ e ∈ x.drains, e.row ≠ r) →
          ∃ u, exec (.drain t) s = .next u ∧ (∃ y e, (u.core s.cur).array.tile = some y ∧ y.drains = x.drains ++ [e] ∧ e.row = r)
            ∧ ∀ j ≤ x.k, ∃ i ∈ (u.core s.cur).items, ∃ vals, i.due = c.sched + 4
              ∧ i.act = .land (.plies (d.ply j vr 0) ad.width (BitVec.ofNat 128 (2 ^ 64 - 1)) vals)
              ∧ ∀ l < 64, vals.getD l 0 = (c.plyVals (ad.ply j r) ad.width).getD l 0)
        ∧ (t.cks = true → x.shifted = 0 → (∀ b ∈ c.array.beats, b.emerge ≤ c.sched) → x.cksClaimed = true →
            (∀ q ∈ x.claimed, ∃ e ∈ x.drains, e.row = q) →
          ∃ u, exec (.drain t) s = .next u ∧ (u.core s.cur).array.tile = none
            ∧ (u.core s.cur).array.closing = c.array.closing ++ [{ x with cks := some c.sched, pend := [] }]
            ∧ ∀ j ≤ x.k, ∃ i ∈ (u.core s.cur).items, ∃ vals, i.due = c.sched + 4
              ∧ i.act = .land (.plies (d.ply j vr 0) ad.width (BitVec.ofNat 128 (2 ^ 64 - 1)) vals)
              ∧ ∀ l < 64, vals.getD l 0 = ((x.cksAcc.getD j []).getD l (0, 0)).1))))
  ∧ ∀ (old out : Nat) (ow : Bool),
    let sx (n x : Nat) : Int := (BitVec.ofNat n x).toInt
    let sum : Int := sx 64 out + (if ow then 0 else sx 32 old)
    claimElement 2 ow old out = ((BitVec.ofInt 32 sum).toNat, false)
      ∧ (-(2 ^ 31) ≤ sum → sum < 2 ^ 31 → claimElement 3 ow old out = ((BitVec.ofInt 32 sum).toNat, false))
      ∧ (sum < -(2 ^ 31) → claimElement 3 ow old out = (0x80000000, true))
      ∧ (2 ^ 31 ≤ sum → claimElement 3 ow old out = (0x7FFFFFFF, true))
      ∧ ∀ f ≤ 1, claimElement f true old out = (out, false) ∧
        let F := if f = 0 then fpFmt 1 else fpFmt 0
        claimElement f false old out = ((fvRound F 0 0 (fvSum 0 [fvSrc (decodeFp F old), fvSrc (decodeFp F out)])).1, false)

/-- 19 R330 to R332, R336, 11 R198, R200: an E form reads its scalars at issue. An operand outside its rule is PROTECTION at issue+1
with the operand; otherwise the command waits for its start cycle, and one of the acknowledged class raises ACKC and clears its
status word at issue+2. The checks are R332's, form by form. R162 gives a completion mask for M slots only: that the fault of an E form
names the form's own bundle with the mask 0xFE, as such a slot's would, is the model's reading (log 31), as is the page that conv's RS
check looks at. -/
def Obligations.EngineCommands : Prop :=
  (∀ (op : Nat) (e : EArgs) (s : State) (i : Instr), engForm op e = some i → s.curCore.guard e.guard = some true →
    let c := s.curCore
    let rs := c.readScalars ([e.sa, e.sb] ++ (if e.lit.isSome then [] else [e.sc]))
    let va := rs.1.getD 0 0
    let vb := rs.1.getD 1 0
    let vc := eValueC e (rs.1.getD 2 0)
    let n := vc.toNat % 2 ^ 32
    let stw := vc.toNat / 2 ^ 32 % 2 ^ 21
    (e.lit = none → vc = rs.1.getD 2 0)
    ∧ (s.EngReady op e n →
      let fault := operandFault op e.cf (s.transpTile s.cur rs.2 e.cf va.toNat vb.toNat) va.toNat vb.toNat vc.toNat
      (∀ x, fault = some x →
        exec i s = .next ((s.setCore s.cur { rs.2 with causes := c.causes ++
          [⟨c.sched + 1, c.sched, .protection, c.pc, 0xFE, 0, x⟩] }).sketch s.cur 7 1))
      ∧ (fault = none →
        ∃ t cmd, exec i s = .next t ∧ (t.core s.cur).engines = c.engines ++ [cmd]
          ∧ cmd.op = op ∧ cmd.cf = e.cf ∧ cmd.post = e.post ∧ cmd.issued = c.sched ∧ cmd.start = c.sched + e.ofs
          ∧ cmd.va = va ∧ cmd.vb = vb ∧ cmd.vc = vc ∧ cmd.started = false ∧ cmd.ended = false
          ∧ (t.core s.cur).ackc = c.ackc + (if op = 9 ∨ op = 10 then (n + 3839) / 3840 else if 6 ≤ op then 1 else 0)
          ∧ (t.core s.cur).items = c.items ++ (if 6 ≤ op then
              [⟨c.sched + 2, 0, c.sched, c.seq, .perform s.cur stw (List.replicate 8 0) false⟩] else [])
          ∧ (∀ m, Core.SameRegs (s.core m) (t.core m)) ∧ t.mem = s.mem)))
  ∧ (∀ (e : EArgs) (s : State), s.curCore.guard e.guard ≠ none → s.convRs e = true → exec (.convE e) s = .next (s.trapHere .illegal))
  ∧ ∀ op cf tile va vb vc,
    let n := vc % 2 ^ 32
    let stw := vc / 2 ^ 32 % 2 ^ 21
    let inVault (v len : Nat) : Prop := v < 2 ^ 21 ∧ v + len ≤ 1572864
    let status : Prop := stw % 8 = 0 ∧ stw < 1572864
    let timed : Prop := vc < 2 ^ 32
    let lines : Prop := n ≠ 0 ∧ n % 64 = 0 ∧ n / 64 < 2 ^ 24 ∧ va % 64 = 0 ∧ vb % 64 = 0
    let src : Prop := cf % 2 = 1 → inVault va n
    let dst : Prop := cf / 2 % 2 = 1 → inVault vb n
    let ok (op : Nat) (p : Prop) : Prop := operandFault op cf tile va vb vc = none ↔ p
    let nc := n % 2 ^ 16
    let nr := n / 2 ^ 16
    ok 1 (timed ∧ lines ∧ src ∧ dst)
    ∧ ok 2 (timed ∧ nc ≠ 0 ∧ nr ≠ 0 ∧ nc * nr < 2 ^ 24 ∧ va % 64 = 0 ∧ vb % 64 = 0
      ∧ (cf % 2 = 1 → inVault va (nc * nr * tile)) ∧ (cf / 2 % 2 = 1 → inVault vb (nc * nr * tile)))
    ∧ ok 3 (timed ∧ n ≠ 0 ∧ (n + 31) / 32 < 2 ^ 24)
    ∧ (∀ f ∈ [4, 5], ok f (timed ∧ n ≠ 0 ∧ (n + 15) / 16 < 2 ^ 24 ∧ (cf % 2 = 1 → inVault va 1)))
    ∧ ok 6 (lines ∧ status) ∧ ok 7 (lines ∧ dst ∧ status) ∧ ok 8 (lines ∧ src ∧ status)
    ∧ ok 9 (lines ∧ src ∧ status) ∧ ok 10 (lines ∧ dst ∧ status)
    ∧ ok 11 (n = 0 ∧ va % (if cf.testBit 3 then 8 else 4) = 0 ∧ stw % 8 = 0 ∧ stw + 8 < 1572864)
    ∧ ok 12 (n ≠ 0 ∧ n < 2 ^ 24 ∧ status)
    ∧ ∀ x, operandFault op cf tile va vb vc = some x → x = va ∨ x = vb ∨ x = vc

/-! Events: power, the host and the side-band. -/

/-- 01 R20 to R25: bring-up makes the package ready from the record of the higher sequence number, whose ports train, and the active
image or, where that fails, the other, or leaves it in recovery mode when the PUF, both records or both images fail; without MAIN48 it
waits until the rail is back (the model's reading, log 11); losing STBY12 leaves nothing but the
flash and the host's memory; a compute reset leaves no core with work and no context saved; admission holds and the host link follow
their events. -/
def Obligations.PowerAndResets : Prop :=
  ∀ s : State,
    let gives (i : Instr) (p : State → Prop) : Prop := ∃ t, exec i s = .next t ∧ p t
    let idle (t : State) : Prop := ∀ n, (t.core n).mode = .idle ∧ (t.core n).launch = none ∧ (t.core n).vault = []
    let found (b : BootInput) : Prop :=
      b.pufOk = true ∧ (b.recA ≠ none ∨ b.recB ≠ none) ∧ (b.imgActive = true ∨ b.imgOther = true)
    (∀ b : BootInput, found b → b.main48 = true →
      gives (.powerUp b) fun t => t.power.ready = true ∧ t.power.hostLink = true ∧ t.power.recovery = false ∧ t.cores = []
        ∧ t.power.main48 = true ∧ t.queues = [] ∧ t.launches = [] ∧ t.saved = [] ∧ t.mem.l2 = [] ∧ t.chip = 0
        ∧ (s.mem.l2 = [] → t.mem.hbm = s.mem.hbm))
    ∧ (∀ b : BootInput, found b → b.main48 = false → gives (.powerUp b) fun t => t.power.ready = false ∧ t.power.recovery = false
        ∧ t.power.main48 = false ∧ 4 ∈ t.power.holds ∧ t.power.boot = some b ∧ t.cores = [] ∧ t.queues = [])
    ∧ (∀ b : BootInput, s.power.ready = false → s.power.recovery = false → s.power.stby12 = true → s.power.boot = some b →
        4 ∈ s.power.holds → gives (.admissionResume 4) fun t => t.power.ready = true ∧ t.power.main48 = true ∧ 4 ∉ t.power.holds)
    ∧ (∀ b : BootInput, b.pufOk = false ∨ (b.recA = none ∧ b.recB = none) ∨ (b.imgActive = false ∧ b.imgOther = false) →
      gives (.powerUp b) fun t => t.power.ready = false ∧ t.power.recovery = true ∧ t.cores = [] ∧ t.queues = [])
    ∧ (∀ b : BootInput, b.pufOk = true → (b.recA ≠ none ∨ b.recB ≠ none) → b.failing = [] → b.main48 = true →
      (b.imgActive = true → gives (.powerUp b) fun t => t.fw.actslot = s.fw.actslot ∧ t.fw.actver = s.fw.actver)
      ∧ (b.imgActive = false → b.imgOther = true → gives (.powerUp b) fun t =>
          t.fw.actslot = 1 - s.fw.actslot ∧ t.fw.actver = s.fw.otherVer)
      ∧ ∀ x y : Nat, found b → b.recA = some x → b.recB = some y → s.flash.length = 2 → gives (.powerUp b) fun t =>
          let r := s.flash.getD (if x < y then 1 else 0) FlashRecord.factory
          t.fabric.fabid = r.fabid ∧ t.fabric.routes = r.routes ∧ ∀ n < 24, (t.fabric.ports.getD n Port.reset).state = 2 ↔
            n ∈ r.ports ∧ ∃ p ∈ b.ports, p.1 = n)
    ∧ gives .stby12Loss (fun t => t.power.stby12 = false ∧ t.power.ready = false ∧ t.cores = [] ∧ t.queues = [] ∧ t.mem.hbm = []
        ∧ t.mem.tier = [] ∧ t.mem.host = s.mem.host ∧ t.fw.actver = s.fw.actver)
    ∧ (∀ i ∈ [Instr.thermalTrip, .main48Loss], gives i fun t => idle t ∧ t.saved = [] ∧ t.xlate.migs = []
        ∧ t.mem.snoops = [] ∧ t.mem.l2 = [] ∧ (i = .main48Loss → t.power.main48 = false ∧ 4 ∈ t.power.holds))
    ∧ (∀ c, (c ∈ s.power.holds → exec (.powerLimitHold c) s = .next s)
      ∧ (c ∉ s.power.holds → gives (.powerLimitHold c) fun t => t.power.holds = s.power.holds ++ [c] ∧ t.cores = s.cores)
      ∧ (c ∉ s.power.holds → exec (.admissionResume c) s = .next s)
      ∧ (c ∈ s.power.holds → gives (.admissionResume c) fun t => t.power.holds = s.power.holds.filter (· ≠ c) ∧ t.cores = s.cores
          ∧ (c = 4 → t.power.main48 = true)))
    ∧ gives .hostLinkReset (fun t => t.power.hostLink = false ∧ t.mem.hostLines = [] ∧ t.mem.snoops = [] ∧ t.cores = s.cores
        ∧ t.mem.hbm = s.mem.hbm)
    ∧ (s.power.ready = true → gives .hostLinkRetrain fun t => t.power.hostLink = true ∧ t.power.msixWait = []
        ∧ t.out = s.power.msixWait.reverse.map Output.msix ++ s.out)

/-- 03 R45, R47 to R50, 06 R109: the host's accesses: an HDM write performs at its bytes alone unless they touch the save area, an
HDM read answers with the bytes of HBM4; both fault outside the 2^39 bytes of the decoder; a line given up frees its accesses; a
register write of another size or alignment is an unsupported request. -/
def Obligations.HostAccesses : Prop :=
  ∀ s : State,
    let gives (i : Instr) (p : State → Prop) : Prop := ∃ t, exec i s = .next t ∧ p t
    let base := s.ctxsave.toNat / 2 ^ 29 * 2 ^ 29
    let inArea (a n : Nat) : Prop := s.ctxsave.getLsbD 0 = true ∧ a < base + 2 ^ 29 ∧ base < a + n
    (∀ pa data, (2 ^ 39 < pa + data.length → exec (.hdmWrite pa data) s = .fault (.outsideHdm pa))
      ∧ (pa + data.length ≤ 2 ^ 39 → s.power.hostLink = true →
        (¬inArea pa data.length → gives (.hdmWrite pa data) fun t =>
          (∀ x, Store.read t.mem.hbm x = if pa ≤ x ∧ x < pa + data.length then data.getD (x - pa) 0 else Store.read s.mem.hbm x)
          ∧ t.mem.tier = s.mem.tier ∧ t.mem.host = s.mem.host ∧ t.cores = s.cores ∧ t.out = .hdmDone pa :: s.out)
        ∧ (inArea pa data.length → gives (.hdmWrite pa data) fun t => t.mem = s.mem ∧ t.out = .hdmDone pa :: s.out)))
    ∧ (∀ pa len, (2 ^ 39 < pa + len → exec (.hdmRead pa len) s = .fault (.outsideHdm pa))
      ∧ (pa + len ≤ 2 ^ 39 → s.power.hostLink = true → gives (.hdmRead pa len) fun t =>
          t.mem.hbm = s.mem.hbm ∧ t.cores = s.cores ∧ ∃ d bad, t.out = .hdmData pa d bad :: s.out ∧ d.length = len
            ∧ (inArea pa len → bad = true)
            ∧ (¬inArea pa len → poisonedIn s.mem.hbmPoison pa len = [] → s.memOk = true →
                bad = false ∧ ∀ i < len, d.getD i 0 = Store.read s.mem.hbm (pa + i))))
    ∧ (∀ l, (s.power.hostLink = true → gives (.backInvalidateAnswer l) fun t =>
          t.mem.hostLines = s.mem.hostLines.filter (· ≠ l) ∧ t.mem.snoops = s.mem.snoops.filter (·.line ≠ l) ∧ t.cores = s.cores)
      ∧ ((∃ h ∈ s.mem.snoops, h.line = l ∧ h.since + 12500000 ≤ s.chip) → gives (.backInvalidateTimeout l) fun t =>
          t.power.bilink = true ∧ (s.chip, .hostLinkReset) ∈ t.agenda ∧ t.mem.snoops = s.mem.snoops.filter (·.line ≠ l))
      ∧ ((∀ h ∈ s.mem.snoops, h.line = l → s.chip < h.since + 12500000) → exec (.backInvalidateTimeout l) s = .next s))
    ∧ gives .hostSnoop (fun t => t.out = .snoopMiss :: s.out ∧ t.mem = s.mem ∧ t.cores = s.cores)
    ∧ (s.power.hostLink = true → s.power.ready = true → ∀ off size val,
      (size ≠ 8 ∨ off % 8 ≠ 0 → gives (.registerWrite off size val) fun t => t.out = .unsupportedRequest :: s.out
        ∧ t.mem = s.mem ∧ t.cores = s.cores ∧ t.agenda = s.agenda)
      ∧ (exec (.registerWrite 0x1018 8 val) s = .next (s.plan s.chip .tlbinvDb))
      ∧ (exec (.registerWrite 0x1058 8 val) s = .next (s.plan s.chip .migDb))
      ∧ (exec (.registerWrite 0x1050 8 val) s = .next { s with xlate := { s.xlate with migPa := val } })
      ∧ (exec (.registerWrite 0x200 8 val) s = .next (s.plan s.chip (.relcfgWrite val)))
      ∧ (∀ q < 1024, exec (.registerWrite (0x100000 + 4096 * q + 0x28) 8 val) s = .next (s.plan s.chip (.qtailWrite q val))))

/-- 05 R89, R90, R92 to R99, 01 R19: the rings' registers, the states of a firmware update, and the side-band's answers. Which bytes of
an image are its signature, its version and its security version is not given (Config, log 29), nor which of several failures of STAGE
counts (log 23). -/
def Obligations.Management : Prop :=
  ∀ s : State,
    let gives (i : Instr) (p : State → Prop) : Prop := ∃ t, exec i s = .next t ∧ p t
    let f := s.fw
    let answers (i : Instr) (data : List Nat) : Prop := gives i fun t =>
      (.sideband 0 data ∈ t.out.take 2) ∧ t.cores = s.cores ∧ t.mem = s.mem ∧ t.queues = s.queues
    let modid := 0x4E56 * 2 ^ 48 + 0x9600 * 2 ^ 32 + Config.silRev * 2 ^ 24 + s.record.cfgVer % 256 * 2 ^ 16
      + (256 - 4 * s.reliab.homeless.length)
    let busy (i : Instr) : Prop := exec i s = .next { s with fw := { f with err := 1 } }
    let moves (i : Instr) (state : Nat) : Prop := gives i fun t => t.fw.state = state ∧ t.cores = s.cores
    let cmd (v : Word) : Prop := v.toNat / 2 ^ 4 % 2 ^ 44 = 0
    (∀ v, gives (.nqcfgWrite v) (fun t => t.cores = s.cores ∧ t.mem = s.mem ∧ t.nq.base = s.nq.base
          ∧ (s.nq.on = false → v.toNat = 0x108 → s.nq.base.toNat % 4096 = 0 → t.nq.on = true ∧ t.nq.prod = 0 ∧ t.nq.cons = 0))
      ∧ (s.nq.cons ≤ v.toNat → v.toNat ≤ s.nq.prod → gives (.nqconsWrite v) fun t => t.nq = { s.nq with cons := v.toNat })
      ∧ (v.toNat < s.nq.cons ∨ s.nq.prod < v.toNat → exec (.nqconsWrite v) s = .next s))
    ∧ (∀ v, (cmd v → f.staging = false → f.state ∈ [0, 4, 5, 6] → gives (.fwctlStage v) fun t =>
        t.fw = { f with staging := true, component := none })
      ∧ (¬cmd v ∨ f.staging = true ∨ f.state ∈ [1, 2, 3] → busy (.fwctlStage v))
      ∧ (cmd v → f.state = 1 → moves (.fwctlActivate v) 2) ∧ (¬cmd v ∨ f.state ≠ 1 → busy (.fwctlActivate v))
      ∧ (cmd v → f.state = 1 → moves (.fwctlAbort v) 0) ∧ (¬cmd v ∨ f.state ≠ 1 → busy (.fwctlAbort v)))
    ∧ (f.staging = true → f.state ∈ [0, 4, 5, 6] →
        let bytes := s.stagedImage.bytes
        let fails (ok : Bool) (err : Nat) : Prop := gives (.fwStaged ok) fun t =>
          t.fw.state = 6 ∧ t.fw.err = err ∧ t.fw.otherValid = false ∧ t.fw.pendver = 0
        fails false 7 ∧ (Config.imageSigned bytes = false → fails true 2)
        ∧ (Config.imageSigned bytes = true → Config.imageSvn bytes < s.record.minSvn → fails true 3)
        ∧ (Config.imageSigned bytes = true → s.record.minSvn ≤ Config.imageSvn bytes → gives (.fwStaged true) fun t =>
            t.fw.state = 1 ∧ t.fw.pendver = Config.imageVersion bytes % 65536 ∧ t.fw.err = 0 ∧ t.fw.otherImage = s.stagedImage))
    ∧ (∀ d, f.component = some d → s.stagedImage = d)
    ∧ (f.component = none → let at_ := f.fwimg.toNat / 2 ^ 12 % 2 ^ 27 * 4096
        s.stagedImage.bytes = (List.range (f.fwimg.toNat / 2 ^ 40 * 4096)).map fun i => Store.read s.mem.hbm (at_ + i))
    ∧ (f.state = 2 → (s.queues.all fun p => s.locked p.1) = true → moves .fwHandover 3)
    ∧ (f.state = 2 → f.since + 125000000 ≤ s.chip → (s.queues.all fun p => s.locked p.1) = false → gives .quiesceTmo fun t => t.fw.state = 1 ∧ t.fw.err = 4)
    ∧ (f.state = 3 → f.rejected = false → s.chip < f.since + f.hbdl * 1250000 → gives .fwHeartbeat fun t =>
        t.fw.state = 4 ∧ t.fw.actver = f.pendver ∧ t.fw.actslot = 1 - f.actslot)
    ∧ (f.state = 3 → f.rejected = true ∨ f.since + f.hbdl * 1250000 ≤ s.chip → gives .heartbeatDeadline fun t =>
        t.fw.state = 5 ∧ t.fw.err = (if f.rejected then 5 else 6) ∧ t.fw.actver = f.actver)
    ∧ ((∃ t ≤ s.chip, f.beatBy = some t) → gives .rollbackDeadline fun t => t.cores = [] ∧ t.queues = [] ∧ t.launches = [])
    ∧ (s.power.stby12 = true → s.power.recovery = false →
      answers .getVersion [0x12, 0x13] ∧ answers .getCapabilities [1, 1, 1, 0] ∧ answers .negotiateAlgorithms [384, 384]
      ∧ answers .getDigests [1] ∧ answers .getCertificate [0] ∧ answers .challenge [] ∧ answers .mctpControl [0, 1, 5]
      ∧ answers .pldmBaseRequest [0, 2, 4, 5] ∧ answers .pldmIdentity [modid] ∧ answers .pldmFruRead [0x4E56, modid]
      ∧ answers .getMeasurements ([1, (sha384 Config.bootRom).toNat, 2, (sha384 (Config.recordBytes s.record.words)).toNat, 3,
          (sha384 f.actImage.bytes).toNat] ++ (if f.pendver = 0 then [] else [4, (sha384 f.otherImage.bytes).toNat]) ++ [0x10, f.state])
      ∧ (∀ n < 24, answers (.pldmSensorRead (.portState n)) [(s.fabric.ports.getD n Port.reset).state])
      ∧ gives (.pldmAdmissionHold true) (fun t => 3 ∈ t.power.holds ∧ t.cores = s.cores)
      ∧ gives (.pldmAdmissionHold false) (fun t => 3 ∉ t.power.holds ∧ t.cores = s.cores)
      ∧ gives .pldmComputeReset (fun t => ∀ n, (t.core n).mode = .idle)
      ∧ gives .pldmSpindleReset (fun t => t.cores = [] ∧ t.queues = [] ∧ t.launches = [])
      ∧ (∀ v, v.toNat = 1 → f.staging = false → f.state = 0 → ∀ d, gives (.pldmFwUpdate ⟨v, .image d⟩) fun t =>
          t.fw.staging = true ∧ ∃ i, t.fw.component = some i ∧ i.bytes = d))
    ∧ (s.power.stby12 = true → s.power.recovery = true →
        (gives .getVersion fun t => t.out = .sideband 1 [] :: s.out ∧ t.cores = s.cores)
        ∧ ∀ v, (∀ d, gives (.pldmFwUpdate ⟨v, .image d⟩) fun t => t.fw.otherValid = true ∧ t.fw.otherVer = Config.imageVersion d % 65536
              ∧ t.fw.otherImage.bytes = d ∧ t.flash = s.flash)
          ∧ (∀ q r, gives (.pldmFwUpdate ⟨v, .record true q r⟩) fun t => t.fw = s.fw
              ∧ (∀ i, i ≠ 1 - s.recordSlot → t.flash[i]? = s.flash[i]?)
              ∧ ∀ x, t.flash[1 - s.recordSlot]? = some x → x.toConfigRecord = r ∧ x.seq = some q)
          ∧ ∀ q r, gives (.pldmFwUpdate ⟨v, .record false q r⟩) fun t => t.out = .sideband 1 [] :: s.out ∧ t.fw = s.fw
              ∧ t.flash = s.flash)

/-! Events: queues and launches. -/

/-- 04 R68 to R77, R84: creating and destroying queues, the tail, and the packets: those that the tellers accept have the effect of
their type, move QHEAD past themselves when their dispatch ends and raise DONE. Of several errors of CREATE the model reports BUSY, then
BADCFG, then RSV_CONFLICT (its choice, log 33), and what has no code in a COPY's DETAIL gives cause 0 (log 33); a command handled while
an earlier one of its queue waits for the lock is tried again (log 12). -/
def Obligations.QueuesAndPackets : Prop :=
  ∀ (n : Nat) (s : State),
    let gives (i : Instr) (p : State → Prop) : Prop := ∃ t, exec i s = .next t ∧ p t
    let q := s.queue n
    let c := q.qcfg.toNat
    let okCfg : Prop := q.qbase.toNat < 2 ^ 39 ∧ c < 2 ^ 17 ∧ c.testBit 5 = false ∧ 6 ≤ c % 32 ∧ c % 32 ≤ 20
      ∧ c / 2 ^ 8 % 4 ≠ 3 ∧ c / 2 ^ 10 % 64 ≤ 47 ∧ q.qbase.toNat % 4096 = 0 ∧ q.qbase.toNat % (64 * 2 ^ (c % 32)) = 0
      ∧ q.qroot.toNat < 2 ^ 52 ∧ (c / 2 ^ 6 % 4 = 3 ↔ q.qrsv ≠ 0)
    let idle : Prop := s.power.ready = true ∧ s.locked n = false ∧ s.cmdBehind n 1 = false
    let isOver (h : PktHead) (t : State) : Prop :=
      (t.queue n).qhead = q.qhead + h.nunits ∧ (t.queue n).done = (q.done + 1) % 2 ^ 32 ∧ (t.queue n).disp = .none
    (idle → (q.live = true ∨ s.held n = true → gives (.qcmdCreate n) fun t => (t.queue n).lasterr = 0x10 ∧ (t.queue n).state = q.state)
      ∧ (q.live = false → s.held n = false →
        (¬okCfg → gives (.qcmdCreate n) fun t => (t.queue n).lasterr = 0x11 ∧ (t.queue n).state = q.state)
        ∧ (okCfg → (∃ p ∈ s.queues, p.1 ≠ n ∧ p.2.live = true ∧ p.2.qrsv &&& q.qrsv ≠ 0) →
            gives (.qcmdCreate n) fun t => (t.queue n).lasterr = 0x12 ∧ (t.queue n).state = q.state)
        ∧ (okCfg → (∀ p ∈ s.queues, p.1 ≠ n → p.2.live = true → p.2.qrsv &&& q.qrsv = 0) →
            gives (.qcmdCreate n) fun t => (t.queue n).state = .active ∧ (t.queue n).qhead = 0 ∧ (t.queue n).qtail = 0
              ∧ (t.queue n).done = 0 ∧ (t.queue n).lasterr = 0 ∧ ∀ m, m ≠ n → t.queue m = s.queue m)))
    ∧ (s.power.ready = true → ∀ p ∈ [(Instr.qcmdCreate n, 1), (.qcmdDestroy n, 2), (.preemptStop n, 3), (.preemptResume n, 4)],
        s.cmdBehind n p.2 = true → gives p.1 fun t => t.queues = s.queues ∧ t.launches = s.launches ∧ t.cores = s.cores
          ∧ ∃ k, s.chip < k ∧ (k, p.1) ∈ t.agenda)
    ∧ (q.live = true → s.locked n = false → s.cmdBehind n 2 = false → q.disp = .none → s.launches = [] →
        gives (.qcmdDestroy n) fun t => (t.queue n).state = (if s.held n then .destroyedRunning else .destroyed)
          ∧ t.cores = s.cores ∧ ∀ m, m ≠ n → t.queue m = s.queue m)
    ∧ (∀ v : Word, (q.live = false ∨ 2 ∈ q.cmds → exec (.qtailWrite n v) s = .next s)
      ∧ (q.live = true → 2 ∉ q.cmds →
        (v.toNat < q.qtail ∨ q.qhead + 2 ^ (c % 32) < v.toNat → gives (.qtailWrite n v) fun t =>
            (t.queue n).qtail = q.qtail ∧ (t.queue n).lasterr = 0x13 ∧ (t.queue n).state = .error)
        ∧ (q.qtail ≤ v.toNat → v.toNat ≤ q.qhead + 2 ^ (c % 32) → gives (.qtailWrite n v) fun t =>
            (t.queue n).qtail = v.toNat ∧ (t.queue n).state = q.state ∧ (t.queue n).qhead = q.qhead)))
    ∧ (∀ u p, s.look n = (u, some p) →
      let h := packetHead p
      (pf p 0 1 = 1 → s.power.holds = [] → gives (.launch n) fun t => ∃ l, t.launches = s.launches ++ [l] ∧ l.phase = .waiting
          ∧ l.queue = n ∧ l.head = h ∧ l.pkt = launchBody p ∧ l.beganAt = s.chip ∧ (t.queue n).disp = .launch l.id
          ∧ (s.chip, .launchClaim) ∈ t.agenda)
      ∧ (pf p 0 1 = 1 → s.power.holds ≠ [] → gives (.launch n) fun t => t.launches = s.launches ∧ (t.queue n).qhead = q.qhead)
      ∧ (h.cpladdr = 0 →
        (pf p 0 1 = 2 → ∀ pa, s.tellerPa q.qroot.toNat (pf p 16 8) false = .ok pa →
          let hold := waitHolds (pf p 40 4) (BitVec.ofNat 64 (Store.num s.mem.hbm pa 8)) (BitVec.ofNat 64 (pf p 32 8))
            (BitVec.ofNat 64 (pf p 24 8))
          (hold = true → gives (.wait n) fun t => isOver h t ∧ t.mem = s.mem)
          ∧ (hold = false → gives (.wait n) fun t => (t.queue n).disp ≠ .none ∧ (t.queue n).qhead = q.qhead
              ∧ ∃ k, s.chip < k ∧ k ≤ s.chip + 2500 ∧ (k, .waitPoll n) ∈ t.agenda))
        ∧ (pf p 0 1 = 3 → ∀ pa, s.tellerPa q.qroot.toNat (pf p 16 8) true = .ok pa → poisonedIn s.mem.hbmPoison pa 8 = [] →
          let v := pf p 24 8 + (if pf p 40 4 % 2 = 1 then Store.num s.mem.hbm pa 8 else 0)
          gives (.signal n) fun t => isOver h t ∧ ∀ x, (Store.read t.mem.hbm x).toNat
            = if pa ≤ x ∧ x < pa + 8 then v / 256 ^ (x - pa) % 256 else (Store.read s.mem.hbm x).toNat)
        ∧ (pf p 0 1 = 5 → ∀ pa, s.tellerPa q.qroot.toNat (pf p 16 8) true = .ok pa →
          gives (.query n) fun t => isOver h t ∧ Store.num t.mem.hbm pa 8 = (s.qstat n).toNat
            ∧ Store.num t.mem.hbm (pa + 8) 8 = q.qhead % 2 ^ 64 ∧ Store.num t.mem.hbm (pa + 16) 8 = q.qtail % 2 ^ 64
            ∧ Store.num t.mem.hbm (pa + 24) 8 = s.chip % 2 ^ 64))
      ∧ (pf p 0 1 = 4 → gives (.copyPacket n) fun t => (t.queue n).disp = .copy h (pf p 16 8) (pf p 24 8) (pf p 32 5) 0 false none
          ∧ ∃ k, s.chip < k ∧ (k, .copyPacketDone n) ∈ t.agenda))
    ∧ (∀ h a v m op dl, q.disp = .wait h a v m op dl → h.cpladdr = 0 →
      (∀ pa, s.tellerPa q.qroot.toNat a false = .ok pa → (∀ t, dl = some t → s.chip < t) →
        (waitHolds op (BitVec.ofNat 64 (Store.num s.mem.hbm pa 8)) m v = true → gives (.waitPoll n) fun t => isOver h t)
        ∧ (waitHolds op (BitVec.ofNat 64 (Store.num s.mem.hbm pa 8)) m v = false → gives (.waitPoll n) fun t =>
            t.queues = s.queues ∧ ∃ k, s.chip < k ∧ (k, .waitPoll n) ∈ t.agenda))
      ∧ (∀ t, dl = some t → t ≤ s.chip → gives (.waitTimeout n) fun t => isOver h t ∧ (t.queue n).lasterr = 0x0C))
    ∧ ∀ h a b len at_ again view, q.disp = .copy h a b len at_ again view →
        let chunk := s.copyChunk q.qroot.toNat (a + at_) (b + at_) (len - at_) view
        (len ≤ at_ → exec (.copyPacketDone n) s = .next (s.completePacket n h 0 0))
        ∧ (∀ m u, at_ < len → chunk = .moved m u → len ≤ at_ + m → exec (.copyPacketDone n) s = .next (u.completePacket n h 0 0))
        ∧ (∀ c dst, at_ < len → chunk = .fault c dst →
            exec (.copyPacketDone n) s = .next (s.completePacket n h 0x0E (copyDetail c dst at_)))
        ∧ (∀ u, at_ < len → chunk = .waits u → gives (.copyPacketDone n) fun t => t.mem = u.mem ∧ u.mem.hbm = s.mem.hbm
            ∧ t.cores = s.cores ∧ (t.queue n).disp = .copy h a b len at_ again view
            ∧ ∃ k, s.chip < k ∧ (k, .copyPacketDone n) ∈ t.agenda)
        ∧ (at_ < len → chunk = .failed →
          (again = true → exec (.copyPacketDone n) s = .next (s.completePacket n h 0x0E (copyDetail 0 false at_)))
          ∧ (again = false → gives (.copyPacketDone n) fun t => t.mem = s.mem
              ∧ (t.queue n).disp = .copy h a b len at_ true view ∧ ∃ k, s.chip < k ∧ (k, .copyPacketDone n) ∈ t.agenda))

/-- 04 R80, R81, 06 R100 to R111: the life of a launch: the claim of free cores and the release RELOFF cycles later or 256 after the
loading, completion, the refill or the end by an ALLOWANCE or another escalated trap, stops, the ladder's two expiries, saving,
restarting and the end of a scan wait. That code and dictionary are loaded as memory stands at the claim is the model's reading
(log 25). -/
def Obligations.LaunchLife : Prop :=
  ∀ s : State,
    let gives (i : Instr) (p : State → Prop) : Prop := ∃ t, exec i s = .next t ∧ p t
    let only (p : Launch → Bool) (l : Launch) : Prop := s.launches.filter p = [l] ∧ ∀ x ∈ s.launches, x.id = l.id → x = l
    let has (t : State) (id : Nat) (p : Launch → Prop) : Prop := ∃ l, t.launch? id = some l ∧ p l
    (s.waiting = [] → (∀ l ∈ s.launches, l.stopWanted = false) → gives .launchClaim fun t => t.launches = s.launches
        ∧ t.cores = s.cores ∧ t.queues = s.queues ∧ t.mem = s.mem)
    ∧ (∀ l tag cs, s.waiting = [l] → only (fun x => x.id = l.id) l → l.phase = .waiting → l.stopWanted = false →
        s.power.main48 = true → (∀ n ∈ l.pkt.cores, s.mayTake l n = true) → s.nextOwner = some tag →
        s.loadAll { l with owner := tag } = .ok cs →
        gives .launchClaim fun t => (∀ p ∈ cs, t.core p.1 = p.2) ∧ has t l.id fun x => x.phase = .loading ∧ x.claimAt = s.chip
          ∧ x.owner = tag
          ∧ (x.laterel = true ↔ s.chip + l.pkt.reloff < x.loadedAt + 256)
          ∧ x.relcyc = (if x.laterel then x.loadedAt + 256 else s.chip + l.pkt.reloff) ∧ (x.relcyc, .launchRelease) ∈ t.agenda)
    ∧ (∀ l, only (fun l => l.phase = .loading && l.relcyc ≤ s.chip && !l.released) l → l.stopAt = none →
        (∀ n, s.inDebug n = false) → gives .launchRelease fun t =>
          (∀ n ∈ l.pkt.cores, (t.core n).mode = .running ∧ (t.core n).sched = 0 ∧ (t.core n).lag = 0)
          ∧ has t l.id fun x => x.phase = .running ∧ x.released = true)
    ∧ ((∀ l ∈ s.launches, l.phase ≠ .loading ∨ s.chip < l.relcyc) → exec .launchRelease s = .next s)
    ∧ (∀ l, s.launches = [l] → (l.phase = .running ∨ l.phase = .stopping) → (∀ n ∈ l.pkt.cores, (s.core n).launch = some l.id
          ∧ (s.core n).mode = .halted ∧ (s.core n).quiet = true) → exec .launchComplete s = .next (s.endLaunch l.id 0 0))
    ∧ ((∀ l ∈ s.launches, ∃ n ∈ l.pkt.cores, (s.core n).mode ≠ .halted) → exec .launchComplete s = .next s)
    ∧ (∀ n l r, (s.core n).mode = .tellers → s.launchOf n = some l → (s.core n).record = some r → l.dumping = false →
      (r.cls = Trap.allowance.bit → (s.core n).handler = false → l.dbgAt = none → (l.pkt.apol = 2 ∨ (l.pkt.apol = 1 ∧ l.refills < l.pkt.nref)) →
        gives (.tellerTrapEvent n) fun t => (t.core n).mode = .running
          ∧ (t.core n).allow = min ((s.core n).allow + l.pkt.refill) (2 ^ 48 - 1))
      ∧ (s.autoDump l = false → r.cls ≠ Trap.allowance.bit ∨ (s.core n).handler = true →
          exec (.tellerTrapEvent n) s = .next (s.endLaunch l.id 3 (n % 256 * 2 ^ 24 + r.cls % 16 * 2 ^ 20 + r.respc % 2 ^ 16))))
    ∧ (∀ q, ∀ i ∈ [Instr.preemptStop q, .preemptResume q],
      ((s.queue q).live = false → gives i fun t => t.launches = s.launches ∧ t.cores = s.cores ∧ t.mem = s.mem)
      ∧ (s.locked q = true → (s.queue q).cmds = [] → gives i fun t =>
          (t.queue q).cmdWaits = true ∧ t.launches = s.launches ∧ t.cores = s.cores))
    ∧ (∀ q l, s.locked q = false → s.cmdBehind q 3 = false → (s.queue q).live = true → s.launches = [l] → l.queue = q →
        l.phase = .running → l.stopAt = none →
        s.canSave l = true → gives (.preemptStop q) fun t => has t l.id fun x => x.phase = .stopping
          ∧ x.stopAt = some s.chip ∧ x.hostStop = true ∧ (x.ladder = (l.ladder || decide (l.pkt.gangid ≠ 0))))
    ∧ (∀ q l, s.locked q = false → s.cmdBehind q 4 = false → (s.queue q).live = true → s.launches = [l] → l.queue = q →
        gives (.preemptResume q) fun t =>
        has t l.id (fun x => x.hostStop = (l.hostStop && decide (l.phase ≠ .stopped ∧ l.phase ≠ .saving ∧ l.phase ≠ .saved)))
          ∧ (s.chip, .launchClaim) ∈ t.agenda)
    ∧ (∀ l n q, s.launches = [l] → l.phase = .stopping → l.pkt.cores = [n] → dieOf n < 4 → (s.core n).launch = some l.id →
        l.stopAt = some q → l.relcyc ≤ q → l.stops = [] →
        ((s.core n).waiting = true → (l.ladder = true → q + l.t1Cycles ≤ s.chip ∨ (s.core n).cleanNow = true) →
          gives .ladderT1 fun t => (t.core n).mode = .stopped ∧ has t l.id fun x => x.stops = [(n, s.chip)]
            ∧ (x.phase = .stopped ∨ x.phase = .saving)
            ∧ (l.ladder = true → x.rung = max l.rung (if s.chip < q + l.t1Cycles then 1 else 2)))
        ∧ ((s.core n).mode = .running →
            (s.core n).waiting = false ∨ (l.ladder = true ∧ s.chip < q + l.t1Cycles ∧ (s.core n).cleanNow = false) →
            exec .ladderT1 s = .next s))
    ∧ (s.launches = [] → exec .ladderT1 s = .next s)
    ∧ (∀ l n, s.launches = [l] → l.ladder = true → l.phase = .stopping → l.dbgAt = none → l.dumping = false →
        (∃ q, l.stopAt = some q ∧ q + l.t2Cycles ≤ s.chip) → l.pkt.cores = [n] → (s.core n).launch = some l.id →
        (s.core n).mode = .running → gives .ladderT2 fun t => (t.core n).launch = none ∧ (t.queue l.queue).rung = 3)
    ∧ ((∀ l ∈ s.launches, ∀ v ∈ l.saves, s.chip < v.2.1) → exec .contextSaveDone s = .next s)
    ∧ (∀ l n k slots, s.launches = [l] → l.phase = .saving → l.saves = [(dieOf n, k, slots)] → k ≤ s.chip → l.pkt.cores = [n] →
        dieOf n < 4 → (s.core n).launch = some l.id → (s.core n).globals = [] →
        gives .contextSaveDone fun t => (t.core n).launch = none ∧ (has t l.id fun x => x.phase = .saved)
          ∧ ∃ x ∈ t.saved, x.core = n ∧ x.launch = l.id ∧ Core.SameRegs (s.core n) x.ctx ∧ x.ctx.pc = (s.core n).pc
            ∧ x.ctx.items = (s.core n).items)
    ∧ (∀ l n k, s.launches = [l] → l.phase = .resuming → l.dbgAt = none → l.stopAt = none → l.restarts = [(n, k)] → k ≤ s.chip →
        (s.core n).mode = .stopped → gives .contextRestart fun t => (t.core n).mode = .running ∧ has t l.id fun x => x.phase = .running)
    ∧ (∀ v, (v.toNat / 2 ^ 39 = 0 → v.toNat / 2 % 2 ^ 28 = 0 → (∀ p ∈ s.queues, p.2.live = false) →
          (∀ x ∈ s.saved, x.hbm = false) → exec (.ctxsaveWrite v) s = .next { s with ctxsave := v })
        ∧ ((∃ p ∈ s.queues, p.2.live = true) → exec (.ctxsaveWrite v) s = .next s))
    ∧ ∀ n, (s.scanHolds n = true ∨ (s.core n).mode = .debug → exec (.scanwaitExpiry n) s = .next s)
      ∧ (s.scanHolds n = false → (s.core n).mode ≠ .debug → gives (.scanwaitExpiry n) fun t => t.mem = s.mem
          ∧ (∀ h, h ∈ (t.core n).holds ↔ h ∈ (s.core n).holds ∧ ¬(h.cause = 7 ∧ h.id + 2500 ≤ s.chip))
          ∧ Core.SameRegs (s.core n) (t.core n) ∧ (t.core n).pc = (s.core n).pc ∧ ∀ m, m ≠ n → t.core m = s.core m)

/-! Events: the fabric. -/

/-- 02 R27 to R43: ports, routes, groups and holds. The table of a ROUTE_UPDATE stands for its payload, whose layout is not given
(log 21). -/
def Obligations.PortsAndGroups : Prop :=
  ∀ s : State,
    let gives (i : Instr) (p : State → Prop) : Prop := ∃ t, exec i s = .next t ∧ p t
    let st (t : State) (n : Nat) : Nat := (t.fabric.ports.getD n Port.reset).state
    let stays (i : Instr) : Prop := exec i s = .next s
    let listed (p : Packet) : Prop := p.wf = true ∧ typeListed p.kind = true ∧ p.resv = 0
    (∀ n, st s n ≠ 2 → (∀ p : Packet, stays (.heartbeat n p)) ∧ stays (.flitCrcReplay n) ∧ stays (.portRxTimeout n) ∧ stays (.heartbeatSend n)
        ∧ stays (.portLaneLoss n))
    ∧ (∀ n p, s.fabric.ports[n]? = some p →
      (p.state = 2 →
        (p.fails < 8 → gives (.flitCrcReplay n) fun t => (t.fabric.ports.getD n Port.reset).retry = min (p.retry + 1) 65535
            ∧ (t.fabric.ports.getD n Port.reset).fails = p.fails + 1 ∧ t.out = .replay n :: s.out)
        ∧ (8 ≤ p.fails → exec (.flitCrcReplay n) s = .next (s.plan s.chip (.portReplayLimit n)))
        ∧ (p.lastRx + 125000 ≤ s.chip → gives (.portRxTimeout n) fun t => st t n = 0)
        ∧ (p.lastTx + 12500 ≤ s.chip → gives (.heartbeatSend n) fun t => .heartbeat n ∈ t.out ∧ st t n = 2)
        ∧ (∀ x : Packet, listed x → gives (.heartbeat n x) fun t => st t n = 2
            ∧ (t.fabric.ports.getD n Port.reset).lastRx = s.chip ∧ (t.fabric.ports.getD n Port.reset).badflit = p.badflit)
        ∧ (∀ x : Packet, x.wf = true → typeListed x.kind = false ∨ x.resv ≠ 0 → gives (.heartbeat n x) fun t =>
            (t.fabric.ports.getD n Port.reset).badflit = min (p.badflit + 1) 65535)
        ∧ gives (.portLaneLoss n) (fun t => st t n = 1 ∧ (t.fabric.ports.getD n Port.reset).half = true))
      ∧ (p.state ≠ 0 → gives (.portReplayLimit n) fun t => st t n = 0
          ∧ t.fabric.linkNews = s.fabric.linkNews ++ [⟨n, 0, false, p.peerPkg, s.chip⟩]
          ∧ (s.tellers.taken.length < 12 → s.tellers.pending = [] → s.tellers.full = [] →
              ∃ k, s.chip < k ∧ (k, .linkEvent n) ∈ t.agenda))
      ∧ (p.state = 0 → stays (.portReplayLimit n))
      ∧ (n < 24 → p.state ≠ 2 → s.power.ready = true → ∀ a b, gives (.portTrained n a b) fun t => st t n = 2
          ∧ (t.fabric.ports.getD n Port.reset).peerPkg = a % 2048 ∧ (t.fabric.ports.getD n Port.reset).badflit = 0))
    ∧ (∀ n, (∀ x ∈ s.fabric.linkNews, x.port ≠ n) → stays (.linkEvent n))
    ∧ (∀ x r, s.fabric.linkNews = x :: r → gives (.linkEvent x.port) fun t => t.fabric = { s.fabric with linkNews := r }
        ∧ t.cores = s.cores ∧ ∃ k own tab, s.chip ≤ k ∧ k ≤ s.chip + 2500000000 ∧ (k, .routeUpdate 24 own tab) ∈ t.agenda
          ∧ own.dst = s.fabric.fabid)
    ∧ (∀ p m, (∀ l ∈ s.launches, l.pkt.gangid = 0) → gives (.packageLoss p m) fun t => t.cores = s.cores
        ∧ t.fabric.lost = (p, s.chip) :: s.fabric.lost ∧ t.launches = s.launches
        ∧ ∃ k own tab, s.chip ≤ k ∧ k ≤ s.chip + 2500000000 ∧ (k, .routeUpdate 24 own tab) ∈ t.agenda)
    ∧ (∀ n, ∀ p : Packet, listed p → p.mcast = false → n = 24 ∨ (st s n = 2 ∧ p.hops ≠ 0) →
      (p.dst = s.fabric.fabid →
        (∀ tab, gives (.routeUpdate n p tab) fun t => t.cores = s.cores ∧ t.mem = s.mem ∧ ∀ d, (∀ x ∈ tab, x.1 ≠ d) →
          Store.read t.fabric.routes d = Store.read s.fabric.routes d)
        ∧ ∀ d e, d < 2048 → gives (.routeUpdate n p [(d, e)]) fun t =>
          Store.read t.fabric.routes d = BitVec.ofNat 32 (e / 2 ^ 18 * 2 ^ 18))
      ∧ (p.dst ≠ s.fabric.fabid → ∀ tab, gives (.routeUpdate n p tab) fun t => t.fabric.routes = s.fabric.routes
          ∧ (∀ m, s.fabric.portFor p.dst false = some m → ∃ q, .flit m q ∈ t.out ∧ q.kind = 11 ∧ q.dst = p.dst ∧ q.hops = p.hops - 1)
          ∧ ∀ m, s.fabric.portFor p.dst false = none → s.fabric.portFor p.src false = some m →
              ∃ q, .flit m q ∈ t.out ∧ q.kind = 5 ∧ q.dst = p.src ∧ q.tag = p.tag ∧ q.err = 5))
    ∧ (∀ n, ∀ p : Packet, listed p → n ≠ 24 → st s n = 2 → p.hops = 0 → ∀ tab, gives (.routeUpdate n p tab) fun t =>
        t.fabric.routes = s.fabric.routes ∧ t.out = s.out)
    ∧ (∀ g v, g < 256 → (s.fabric.entry g).valid = false →
        gives (.groupEntryWrite g 0 v) (fun t => (t.fabric.entry g).valid = v.getLsbD 63 ∧ (t.fabric.entry g).rank = v.toNat / 2 ^ 46 % 2 ^ 11
          ∧ (t.fabric.entry g).parent = v.toNat / 2 ^ 57 % 32 ∧ (t.fabric.entry g).size = v.toNat / 2 ^ 35 % 2 ^ 11
          ∧ ∀ h, h ≠ g → t.fabric.entry h = s.fabric.entry h)
        ∧ gives (.groupEntryWrite g 1 v) (fun t => (t.fabric.entry g).child = v.toNat / 2 ^ 40
          ∧ (t.fabric.entry g).gtmo = v.toNat / 2 ^ 20 % 2 ^ 20 ∧ (t.fabric.entry g).valid = false))
    ∧ (∀ g v, g < 256 → (s.fabric.entry g).valid = true →
        (v.getLsbD 63 = true → stays (.groupEntryWrite g 0 v)) ∧ stays (.groupEntryWrite g 1 v)
        ∧ (v.getLsbD 63 = false → (∀ o ∈ s.fabric.ops, o.group ≠ g) → gives (.groupEntryWrite g 0 v) fun t =>
            (t.fabric.entry g).valid = false))
    ∧ (∀ g, (∀ o ∈ s.fabric.ops, o.group ≠ g ∨ o.expired s.chip = false) → stays (.groupTimerExpiry g))
    ∧ (∀ g o, s.fabric.ops = [o] → o.group = g → o.own = none → o.result = none → o.paused = none → o.deadline ≤ s.chip →
        gives (.groupTimerExpiry g) fun t => t.fabric.ops = [] ∧ (t.fabric.entry g).seq = ((s.fabric.entry g).seq + 1) % 65536)
    ∧ (∀ e, e < 65536 → e ∉ s.fabric.holds → s.fabric.holds.length < 8 → s.fabric.ops = [] →
        gives (.dbgHold e) fun t => t.fabric.holds = s.fabric.holds ++ [e] ∧ t.cores = s.cores)
    ∧ (∀ e, e < 65536 → e ∈ s.fabric.holds → s.fabric.ops = [] →
        gives (.dbgRelease e) fun t => t.fabric.holds = s.fabric.holds.filter (· ≠ e) ∧ t.cores = s.cores)
    ∧ ∀ p : Packet, p.wf = true → st s p.port = 2 → typeListed p.kind = true → p.resv = 0 → p.hops ≠ 0 → s.fabric.ops = [] →
      (p.seq ∉ s.fabric.holds → s.fabric.holds.length < 8 → gives (.debugHold p) fun t => t.fabric.holds = s.fabric.holds ++ [p.seq])
      ∧ (p.seq ∈ s.fabric.holds → gives (.debugRelease p) fun t => t.fabric.holds = s.fabric.holds.filter (· ≠ p.seq))

/-- 02 R27, R30 to R33, R38, 19 R346, R347: packets from peers: one of an unlisted TYPE or with a reserved bit set is counted and
discarded, one with no hop left is discarded; a WRITE to untiled pages performs once and is acknowledged; a read is answered; an
atomic performs once; acknowledgements end what they answer; a request without an answer is sent once more, and then ends with NO_ACK;
contributions and results take their course in the group's operation. An access to lines that the host holds waits for its snoops (03
R48). The places of err and op in a packet, the offset of a piece in ADDR, its COUNT and the acknowledgement of each contribution
packet are the model's reading (log 26). -/
def Obligations.PeerPackets : Prop :=
  ∀ (p : Packet) (s : State), p.wf = true → p.port < 24 → s.fabric.up p.port = true →
    let gives (i : Instr) (q : State → Prop) : Prop := ∃ t, exec i s = .next t ∧ q t
    let good : Prop := typeListed p.kind = true ∧ p.resv = 0 ∧ p.hops ≠ 0
    let here : Prop := good ∧ p.mcast = false ∧ p.dst = s.fabric.fabid
    let sent (t : State) (q : Packet → Prop) : Prop :=
      ∀ port, s.fabric.portFor p.src false = some port → ∃ r, .flit port r ∈ t.out ∧ r.dst = p.src ∧ r.tag = p.tag ∧ q r
    (typeListed p.kind = false ∨ p.resv ≠ 0 → ∀ i ∈ [Instr.fabricWrite p, .readReq p, .readData p, .fabricAtomic p, .ack p, .reduceContrib p, .reduceResult p],
      gives i fun t => (t.fabric.ports.getD p.port Port.reset).badflit
          = min ((s.fabric.ports.getD p.port Port.reset).badflit + 1) 65535
        ∧ t.mem = s.mem ∧ t.cores = s.cores ∧ t.out = s.out)
    ∧ (typeListed p.kind = true → p.resv = 0 → p.hops = 0 →
      ∀ i ∈ [Instr.fabricWrite p, .readReq p, .readData p, .fabricAtomic p, .ack p, .reduceContrib p, .reduceResult p],
      gives i fun t => t.mem = s.mem ∧ t.cores = s.cores ∧ t.out = s.out ∧ t.fabric.ops = s.fabric.ops)
    ∧ (here →
      (∀ v, s.fabric.done? p = some v → gives (.fabricWrite p) fun t => t.mem = s.mem ∧ t.cores = s.cores ∧ sent t fun r => r.kind = 5 ∧ r.err = 0)
      ∧ (s.fabric.done? p = none → ∀ k, s.peerPages p.addr p.data.length true = .error k →
          gives (.fabricWrite p) fun t => t.mem = s.mem ∧ t.cores = s.cores ∧ sent t fun r => r.kind = 5 ∧ r.err = k)
      ∧ (s.fabric.done? p = none → ∀ l va len, s.peerPages p.addr p.data.length true = .ok [(l, va, len)] → va = p.addr →
          len = p.data.length → pteLoc l.pte = 0 → pteGeom l.pte = 0 → (pteFmt l.pte = p.fmt ∨ p.fmt = 0 ∨ pteFmt l.pte = 0) →
          pteWb l.pte = false → s.mem.heldLines (l.pa va) len = [] →
          gives (.fabricWrite p) fun t => (∀ x, Store.read t.mem.hbm x
              = if l.pa va ≤ x ∧ x < l.pa va + len then p.data.getD (x - l.pa va) 0 else Store.read s.mem.hbm x)
            ∧ (∃ r, t.fabric.performed = ((p.src, p.tag), 0) :: r) ∧ sent t fun r => r.kind = 5 ∧ r.err = 0)
      ∧ (∀ i w, (i, w) ∈ [(Instr.fabricWrite p, true), (.readReq p, false), (.fabricAtomic p, true)] →
          s.fabric.done? p = none → ∀ l va len, s.peerPages p.addr (if i = .fabricWrite p then p.data.length else p.count) w
            = .ok [(l, va, len)] → pteLoc l.pte = 0 → pteWb l.pte = false → (i = .fabricWrite p → pteFmt l.pte = p.fmt ∧ pteGeom l.pte = 0) →
          s.mem.heldLines (l.pa va) len ≠ [] → gives i fun t => t.mem.hbm = s.mem.hbm ∧ t.cores = s.cores
            ∧ (∀ x ∈ s.mem.heldLines (l.pa va) len, ∃ h ∈ t.mem.snoops, h.line = x)
            ∧ ∃ k, s.chip < k ∧ ((k, .fabricWrite { p with kind := 1, port := 24 }) ∈ t.agenda
              ∨ (k, .readReq { p with kind := 2, port := 24 }) ∈ t.agenda ∨ (k, .fabricAtomic { p with kind := 4, port := 24 }) ∈ t.agenda))
      ∧ (∀ l va len, s.peerPages p.addr p.count false = .ok [(l, va, len)] →
          poisonedIn (s.mem.poison (pteLoc l.pte)) (l.pa va) len = [] → s.memOk = true →
          (pteLoc l.pte = 0 → s.mem.heldLines (l.pa va) len = []) →
          gives (.readReq p) fun t => t.mem = s.mem ∧ ∀ j, 3840 * j < len → sent t fun r => r.kind = 3 ∧ r.err = 0
            ∧ r.addr = p.addr + 3840 * j ∧ r.data.length = min 3840 (len - 3840 * j)
            ∧ ∀ i < r.data.length, r.data.getD i 0 = Store.read (s.mem.space (pteLoc l.pte)) (l.pa va + 3840 * j + i))
      ∧ (∀ k, s.peerPages p.addr p.count false = .error k → gives (.readReq p) fun t => sent t fun r => r.kind = 3 ∧ r.err = k)
      ∧ (∀ v, s.fabric.done? p = some v → gives (.fabricAtomic p) fun t => t.mem = s.mem
          ∧ sent t fun r => r.kind = 5 ∧ r.err = 0 ∧ r.data = numBytes p.count v)
      ∧ (s.fabric.done? p = none → ∀ l va len, s.peerPages p.addr p.count true = .ok [(l, va, len)] → pteWb l.pte = false →
          pteLoc l.pte = 0 → poisonedIn s.mem.hbmPoison (l.pa va) p.count = [] → s.mem.heldLines (l.pa va) len = [] →
          let old := Store.num s.mem.hbm (l.pa va) p.count
          gives (.fabricAtomic p) fun t => (∀ x, (Store.read t.mem.hbm x).toNat
              = match atomicNew p.op p.count old (bytesNum (p.data.take p.count)) (bytesNum (p.data.drop p.count)) with
                | some y => if l.pa va ≤ x ∧ x < l.pa va + p.count then y / 256 ^ (x - l.pa va) % 256
                    else (Store.read s.mem.hbm x).toNat
                | none => (Store.read s.mem.hbm x).toNat)
            ∧ sent t fun r => r.kind = 5 ∧ r.err = 0 ∧ r.data = numBytes p.count old)
      ∧ (∀ i ∈ [Instr.ack p, .readData p],
        ((∀ o ∈ s.fabric.outstanding, o.tag ≠ p.tag) → gives i fun t => t.mem = s.mem ∧ t.cores = s.cores
            ∧ t.fabric.outstanding = s.fabric.outstanding)
        ∧ (∀ o, s.fabric.outstanding = [o] → o.tag = p.tag → o.pkt.mcast = true → gives i fun t => t.mem = s.mem ∧ t.cores = s.cores
            ∧ t.fabric.outstanding = [])
        ∧ (∀ o e, s.fabric.outstanding = [o] → o.tag = p.tag → o.pkt.mcast = false → o.pkt.dst = p.src → p.err = 0 →
            (s.owner o.core o.cmd).eng? o.cmd = some e → e.op = 9 →
            gives i fun t => t.fabric.outstanding = [] ∧ (t.owner o.core o.cmd).ackc = (s.owner o.core o.cmd).ackc - 1)))
    ∧ (∀ tag, (∀ o ∈ s.fabric.outstanding, o.tag ≠ tag) → exec (.ackTimeout tag) s = .next s)
    ∧ (∀ o e, s.fabric.outstanding = [o] → o.sentAt + Config.ackTmo ≤ s.chip → o.resent = true → s.fabric.ops = [] →
        (s.core o.core).eng? o.cmd = some e → s.parkedOf o.core o.cmd = false → gives (.ackTimeout o.tag) fun t => t.fabric.outstanding = []
          ∧ (t.core o.core).eng? o.cmd = none ∧ (t.core o.core).ackc = (s.core o.core).ackc - e.ackLeft)
    ∧ (∀ o, s.fabric.outstanding = [o] → o.sentAt + Config.ackTmo ≤ s.chip → o.resent = false → o.pkt.mcast = false →
        s.fabric.portFor o.pkt.dst true ≠ none → gives (.ackTimeout o.tag) fun t => (∃ x, t.fabric.outstanding = [x] ∧ x.resent = true ∧ x.sentAt = s.chip ∧ x.pkt = o.pkt)
          ∧ (s.chip + Config.ackTmo, .ackTimeout o.tag) ∈ t.agenda)
    ∧ (good → p.mcast = true →
      ((s.fabric.entry p.dst).valid = false → ∀ i ∈ [Instr.reduceContrib p, .reduceResult p], s.fabric.ops = [] → gives i fun t =>
          (t.fabric.ports.getD p.port Port.reset).badflit = min ((s.fabric.ports.getD p.port Port.reset).badflit + 1) 65535)
      ∧ ((s.fabric.entry p.dst).valid = true → p.port ∈ (s.fabric.entry p.dst).children → s.fabric.done? p = none →
          s.fabric.ops = [] → s.fabric.holds = [] → p.seq = (s.fabric.entry p.dst).seq → gives (.reduceContrib p) fun t =>
            ∃ o, t.fabric.ops = [o] ∧ o.group = p.dst ∧ o.seq = p.seq ∧ o.inputs = [⟨p.port, p.key, p.nr, p.fmt, p.count, [(p.addr, p.data)]⟩]
              ∧ sent t fun r => r.kind = 5 ∧ r.err = 0)
      ∧ ((s.fabric.entry p.dst).valid = true → p.err ≠ 0 → p.port = (s.fabric.entry p.dst).parent →
          (s.fabric.entry p.dst).children = [] → ∀ o, s.fabric.ops = [o] → o.group = p.dst → o.seq = p.seq → o.result = none →
          o.own = none → s.chip < o.deadline → gives (.reduceResult p) fun t => t.fabric.ops = []
            ∧ (t.fabric.entry p.dst).seq = ((s.fabric.entry p.dst).seq + 1) % 65536)
      ∧ ((s.fabric.entry p.dst).valid = true → p.err = 0 → p.port = (s.fabric.entry p.dst).parent → ∀ o n id x, s.fabric.ops = [o] →
          o.group = p.dst → o.seq = p.seq → o.result = none → o.back = [] → o.sentUp = true → s.chip < o.deadline → o.own = some (n, id) →
          (s.owner n id).eng? id ≠ none → o.inputs.find? (fun y => y.port = 24) = some x → p.fmt = accFmt x.fmt →
          p.count = carried p.fmt o.geom p.addr p.data.length → tilesOk p.fmt o.geom x.count p.data = true →
          gives (.reduceResult p) fun t =>
            (∃ y, t.fabric.ops = [y] ∧ y.result = some (tileCodes p.fmt o.geom x.count p.data) ∧ y.group = o.group ∧ y.seq = o.seq
              ∧ y.inputs = o.inputs) ∧ ∃ k, s.chip < k ∧ (k, .engineComplete n id) ∈ t.agenda))

/-! Events: translation, heat and migration; reliability; debug; late results. -/

/-- 03 R51, R57 to R67: a walk, or the die TLB, fills the core TLB and its access goes on or takes its fault; a shootdown drops what
it covers and completes once nothing by the dropped entries is open; heat decays by halves; a migration's steps set write-block,
copy, repoint, replay and end. Whether a destination takes the copy is the model's free choice (log 35); that the shootdown being
performed counts among the 16, that the page is copied in one step, and that the retry comes at a free moment, are its readings
(log 28). -/
def Obligations.TranslationAndMigration : Prop :=
  ∀ s : State,
    let gives (i : Instr) (p : State → Prop) : Prop := ∃ t, exec i s = .next t ∧ p t
    let x := s.xlate
    let va := x.tlbinvVa.toNat
    let ctl := x.tlbinvCtl.toNat
    let good : Prop := va % 4096 = 0 ∧ va < 2 ^ 57 ∧ ctl < 2 ^ 48 ∧ ctl / 2 ^ 12 % 4 = 0
    let put (m : State → Store 8) (t : State) (a : Nat) (d : List Byte) : Prop :=
      ∀ b, Store.read (m t) b = if a ≤ b ∧ b < a + d.length then d.getD (b - a) 0 else Store.read (m s) b
    (∀ n id a, (s.core n).global? id = some a → a.cmd = none → (∃ h ∈ (s.core n).holds, h.id = id ∧ h.cause = 2) →
      (∀ h ∈ (s.core n).holds, h.id = id → h.cause ≠ 3) →
      let alone : Prop := a.leaf = none ∧ x.walkCache = [] ∧ (s.walkers (dieOf n)).filter
        (fun p => p.2.leaf.isNone && s.walkPage (s.rootOf p.1) p.2.va = s.walkPage (s.rootOf n) a.va) = [(n, a)]
      (∀ pte size, (a.leaf = some (pte, size) ∨ alone ∧ ∃ l, s.mem.walk (s.rootOf n) a.va = .ok l ∧ l.pte = pte ∧ l.size = size) →
        let e : TlbEntry := ⟨s.rootOf n % 4096, a.va / 2 ^ size, size, pte⟩
        let pa := ptePa pte + a.va % 2 ^ size
        (permCause pte a.kind.writes true = 0 → (a.kind.writes = false ∨ pteWb pte = false ∧ (s.core n).rels = [] ∧ homeDie pa = dieOf n) →
          gives (.tlbWalkDone n id) fun t => (t.core n).tlb.head? = some e ∧ (a.dieHit = false ∨ a.leaf = none → (dieOf n, e) ∈ t.xlate.dieTlb)
            ∧ (∀ h ∈ (t.core n).holds, ¬(h.id = id ∧ h.cause = 2))
            ∧ (t.core n).global? id = some { a with pa := some pa, wb := pteWb pte, psize := size }
            ∧ (∃ q ∈ (t.core n).items, q.due = a.landAt ∧ q.act = .globalLand id)
            ∧ (∃ q ∈ (t.core n).items, q.due = a.issued + 3 ∧ q.act = .openGlobal id) ∧ t.mem = s.mem)
        ∧ (permCause pte a.kind.writes true ≠ 0 → a.kind.spec = none →
          gives (.tlbWalkDone n id) fun t => (t.core n).tlb.head? = some e ∧ (t.core n).global? id = none
            ∧ (∀ h ∈ (t.core n).holds, ¬(h.id = id ∧ h.cause = 2))
            ∧ ∃ c ∈ (t.core n).causes, c.fcause = permCause pte a.kind.writes true ∧ c.fva = a.va % 2 ^ 64 ∧ c.issued = a.issued))
      ∧ (∀ k, alone → s.mem.walk (s.rootOf n) a.va = .error k → a.kind.spec = none →
        gives (.tlbWalkDone n id) fun t => (t.core n).global? id = none ∧ (t.core n).tlb = (s.core n).tlb
          ∧ ∃ c ∈ (t.core n).causes, c.fcause = k ∧ c.fva = a.va % 2 ^ 64 ∧ c.issued = a.issued))
    ∧ (∀ n id, (s.core n).global? id = none ∨ (∀ h ∈ (s.core n).holds, ¬(h.id = id ∧ h.cause = 2)) → exec (.tlbWalkDone n id) s = .next s)
    ∧ (good → x.shootdowns.length < 16 → gives .tlbinvDb fun t => t.xlate.issued = (x.issued + 1) % 2 ^ 64
        ∧ t.xlate.shootdowns = x.shootdowns ++ [(va, ctl)] ∧ t.cores = s.cores)
    ∧ (¬good ∨ 16 ≤ x.shootdowns.length → exec .tlbinvDb s = .next s)
    ∧ (x.shootdowns = [] → exec .shootdownComplete s = .next s)
    ∧ (∀ v k r, x.shootdowns = (v, k) :: r → (∀ p ∈ s.cores, p.2.globals = []) → (∀ p ∈ s.saved, p.ctx.globals = []) →
        (∀ p ∈ x.parked, p.engine = false) →
        gives .shootdownComplete fun t => t.xlate.shootdowns = r ∧ t.xlate.doneCnt = (x.doneCnt + 1) % 2 ^ 64 ∧ t.xlate.dropped = none
          ∧ (∀ n, x.dropped ≠ none → (t.core n).tlb = (s.core n).tlb) ∧ (x.dropped ≠ none → t.xlate.dieTlb = x.dieTlb)
          ∧ (∀ n e, x.dropped = none →
              (e ∈ (t.core n).tlb ↔ e ∈ (s.core n).tlb ∧ (coverOf v k).hits e.ctx (e.vpage * 2 ^ e.size) e.size = false))
          ∧ ∀ p, x.dropped = none →
              (p ∈ t.xlate.dieTlb ↔ p ∈ x.dieTlb ∧ (coverOf v k).hits p.2.ctx (p.2.vpage * 2 ^ p.2.size) p.2.size = false))
    ∧ (∀ v, gives (.heatCfgWrite v) fun t => t.xlate.heatCfg = v &&& 0x1FF00FFFF ∧ t.xlate.heat = x.heat ∧ t.xlate.thr = x.thr
        ∧ t.cores = s.cores)
    ∧ (x.decay ≠ 0 → x.decayAt + x.decay ≤ s.chip → gives .heatDecay fun t =>
        t.xlate.heat.map (·.count) = x.heat.map (·.count / 2) ∧ t.xlate.decayAt = s.chip)
    ∧ gives .pageHeat (fun t => t.xlate.heatRing = [] ∧ t.cores = s.cores ∧ t.mem.tier = s.mem.tier)
    ∧ (let slot := x.migCtl.toNat / 2 ^ 16 % 4
      (∀ m, s.mig? slot = some m → gives .migDb fun t => t.mem = s.mem ∧ t.xlate.migs = x.migs)
      ∧ (s.mig? slot = none → s.migRequest = none → gives .migDb fun t => t.mem = s.mem ∧ t.xlate.migs = x.migs
          ∧ t.xlate.migstat = x.migstat.mapIdx fun i w => if i = slot then 0x13 else w)
      ∧ (∀ m, s.mig? slot = none → s.migRequest = some m → gives .migDb fun t => t.xlate.migs = x.migs ++ [m]
          ∧ (t.xlate.migstat = x.migstat.mapIdx fun i w => if i = slot then 1 else w)
          ∧ Store.num t.mem.hbm m.pteAddr 8 = pteWith m.pte m.oldPa m.oldLoc true % 2 ^ 64))
    ∧ (∀ slot m, s.mig? slot = some m → (∀ p ∈ s.cores, p.2.globals = []) → (∀ p ∈ s.saved, p.ctx.globals = []) →
      let now (t : State) (q : Migration → Prop) : Prop := ∃ y, t.mig? slot = some y ∧ q y
      let free : Prop := (m.oldLoc = 0 → s.mem.heldLines m.oldPa (2 ^ m.size) = [])
        ∧ (m.newLoc = 0 → s.mem.heldLines m.newPa (2 ^ m.size) = [])
      (m.step = 1 → gives (.migrationCopy slot) fun t => now t (fun y => y.step = 2) ∧ t.mem = s.mem)
      ∧ (m.step ≠ 1 → ¬free → gives (.migrationCopy slot) fun t => t.mem.hbm = s.mem.hbm ∧ t.mem.tier = s.mem.tier
          ∧ now t (fun y => y = m) ∧ ∃ k, s.chip < k ∧ (k, .migrationCopy slot) ∈ t.agenda)
      ∧ (m.step ≠ 1 → free → s.copyError m = 0 → m.oldLoc = 0 → m.newLoc = 2 → gives (.migrationCopy slot) fun t => t.mem.hbm = s.mem.hbm
          ∧ ((∃ k, s.chip < k ∧ (k, .migrationRepoint slot) ∈ t.agenda) ∧ (∀ a, Store.read t.mem.tier a
                = if m.newPa ≤ a ∧ a < m.newPa + 2 ^ m.size then Store.read s.mem.hbm (m.oldPa + (a - m.newPa)) else Store.read s.mem.tier a)
            ∨ (∃ k, s.chip < k ∧ (k, .migrationReplay slot) ∈ t.agenda) ∧ t.mem = s.mem ∧ now t fun y => y.failed = 4 ∧ y.step = 4))
      ∧ (m.step ≠ 1 → free → s.copyError m = 3 → m.retried = false → gives (.migrationCopy slot) fun t => t.mem = s.mem
          ∧ now t (fun y => y.retried = true ∧ y.step = m.step ∧ y.failed = m.failed) ∧ ∃ k, s.chip < k ∧ (k, .migrationCopy slot) ∈ t.agenda)
      ∧ (m.step ≠ 1 → free → s.copyError m ≠ 0 → s.copyError m ≠ 3 ∨ m.retried = true → gives (.migrationCopy slot) fun t => t.mem = s.mem
          ∧ now t (fun y => y.failed = s.copyError m ∧ y.step = 4) ∧ ∃ k, s.chip < k ∧ (k, .migrationReplay slot) ∈ t.agenda)
      ∧ gives (.migrationRepoint slot) (fun t => now t (fun y => y.step = 3)
          ∧ Store.num t.mem.hbm m.pteAddr 8 = pteWith m.pte m.newPa m.newLoc true % 2 ^ 64)
      ∧ (x.parked = [] → gives (.migrationReplay slot) fun t => now t (fun y => y.step = 4) ∧ t.mem = s.mem
          ∧ ∃ k, s.chip < k ∧ (k, .migrationFinish slot) ∈ t.agenda)
      ∧ (∀ p d, x.parked = [p] → p.slot = slot → p.die < 4 → p.kind = .store d → p.len = d.length → m.failed = 0 → m.newLoc = 2 →
          gives (.migrationReplay slot) fun t => put (fun u => u.mem.tier) t (m.newPa + p.off) d ∧ t.mem.hbm = s.mem.hbm)
      ∧ (m.step ≠ 5 → gives (.migrationFinish slot) fun t => now t (fun y => y.step = 5)
          ∧ Store.num t.mem.hbm m.pteAddr 8 = pteWith m.pte m.target.2 m.target.1 false % 2 ^ 64)
      ∧ (m.step = 5 → x.parked = [] → (∀ p ∈ s.cores, p.2.holds = []) → (∀ p ∈ s.saved, p.ctx.holds = []) →
          gives (.migrationFinish slot) fun t => t.mig? slot = none ∧ t.mem = s.mem
            ∧ t.xlate.migstat = x.migstat.mapIdx fun i w =>
                if i = slot then migWord w (if m.failed = 0 then 2 else 3) m.failed else w))

/-- 07 R118 to R132, 06 R111: the rotating scan's steps, array rows, and what the carder finds. -/
def Obligations.Reliability : Prop :=
  ∀ s : State,
    let gives (i : Instr) (p : State → Prop) : Prop := ∃ t, exec i s = .next t ∧ p t
    let r := s.reliab
    let scan (t : State) (d : Nat) : Scan := t.reliab.scans.getD d Scan.reset
    let kept (t : State) : Prop := ∀ m, Core.SameRegs (s.core m) (t.core m)
    (∀ d, (scan s d).stopped = true → exec (.scanName d) s = .next (s.scanFree d))
    ∧ (∀ d, (scan s d).stopped = false → (scan s d).named ≠ none ∨ s.power.ready = false ∨ s.spareOf d = none ∨ s.chip < (scan s d).nextAt →
        exec (.scanName d) s = .next s)
    ∧ (∀ d k, d < r.scans.length → (scan s d).stopped = false → (scan s d).named = none → (scan s d).nextAt ≤ s.chip →
        s.power.ready = true → s.spareOf d ≠ none → s.oldestOf d (s.homed d) = some k →
        gives (.scanName d) fun t => (scan t d).named = some k ∧ (scan t d).namedAt = s.chip ∧ (scan t d).nextAt = s.chip + r.scanIvl
          ∧ t.cores = s.cores)
    ∧ (∀ d k, d < r.scans.length → (scan s d).named = some k → s.spareOf d ≠ none → (scan s d).moving = false →
        (scan s d).scanning = none → (∀ n ∈ clusterCores d k, (s.core n).scanReady = true) → 4 ≤ s.shadowFree d →
        gives (.scanMigration d) fun t => (scan t d).moving = true ∧ t.cores = s.cores
          ∧ ∃ j, s.chip < j ∧ j ≤ s.chip + 10000 ∧ (j, .scanMigration d) ∈ t.agenda)
    ∧ (∀ d k q, d < r.scans.length → (scan s d).named = some k → s.spareOf d = some q → (scan s d).moving = true → r.badCores = [] →
        s.launches = [] → gives (.scanMigration d) fun t => t.bound d k = q ∧ (scan t d).scanning = some (s.bound d k)
          ∧ (scan t d).named = none ∧ (scan t d).rot = ((scan s d).rot + 1) % 512 ∧ (scan t d).startedAt = s.chip
          ∧ (s.chip + 150000, .scanResult d true) ∈ t.agenda)
    ∧ (∀ d b, (scan s d).scanning = none → exec (.scanResult d b) s = .next s)
    ∧ (∀ d p, d < r.scans.length → (scan s d).scanning = some p → (scan s d).inPlace = false →
        gives (.scanResult d true) (fun t => (scan t d).scanning = none ∧ t.reliab.retired = r.retired
          ∧ t.lastPass (17 * d + p) = (scan s d).startedAt)
        ∧ gives (.scanResult d false) (fun t => (17 * d + p) ∈ t.reliab.retired ∧ (scan t d).stopped = true
          ∧ t.power.nospare.testBit d = true))
    ∧ (∀ d k, s.inPlaceNow d ≠ some (k % 16) → exec (.scanInPlace d k) s = .next s)
    ∧ (∀ d k, d < r.scans.length → k < 16 → s.inPlaceNow d = some k → gives (.scanInPlace d k) fun t =>
          (scan t d).scanning = some (s.bound d k) ∧ (scan t d).inPlace = true ∧ (scan t d).subject = k ∧ (scan t d).startedAt = s.chip
            ∧ t.cores = s.cores ∧ (s.chip + 150000, .scanResult d true) ∈ t.agenda)
    ∧ (∀ n, (s.core n).launch ≠ none → exec (.rowRetire n) s = .next s)
    ∧ (∀ n q, (s.core n).launch = none → r.pendingRows = [(s.physCore n, q)] → gives (.rowRetire n) fun t =>
        t.reliab.spares = r.spares ++ [(s.physCore n, q)] ∧ t.reliab.pendingRows = []
          ∧ Store.read t.reliab.rows (128 * s.physCore n + q) = 0 ∧ t.cores = s.cores)
    ∧ (r.decayPeriod ≠ 0 → r.decayAt = s.chip → s.memOk = true → gives .rowDecay fun t => t.cores = s.cores
        ∧ ∀ k, Store.read t.reliab.rows k = Store.read r.rows k >>> 1)
    ∧ (∀ v : Word, let n := v.toNat
        (n < 2 ^ 28 → 200 ≤ n % 2 ^ 16 → n % 2 ^ 16 ≤ 10000 → gives (.relcfgWrite v) fun t => t.reliab.relcfg = v ∧ t.cores = s.cores)
        ∧ (2 ^ 28 ≤ n ∨ n % 2 ^ 16 < 200 ∨ 10000 < n % 2 ^ 16 → exec (.relcfgWrite v) s = .next s))
    ∧ (∀ e, gives (.carderScrub e false) fun t => t.reliab.ce = min (r.ce + 1) (2 ^ 32 - 1) ∧ t.mem = s.mem ∧ t.cores = s.cores)
    ∧ (∀ line, s.ctxAt line = none → gives (.carderScrub (.hbm line) true) fun t => t.mem.hbm = s.mem.hbm ∧ t.cores = s.cores
        ∧ ((∀ y ∈ s.mem.l2, y.1 ≠ line) → line ∈ t.mem.hbmPoison) ∧ (∀ y ∈ t.mem.l2, y.1 = line → y.2.bad = true)
        ∧ t.reliab.ue = min (r.ue + 1) 65535 ∧ (r.ueaddr.getLsbD 63 = false → t.reliab.ueaddr.getLsbD 63 = true)
        ∧ (r.ueaddr.getLsbD 63 = true → t.reliab.ueaddr = r.ueaddr))
    ∧ (∀ line, (∀ y ∈ s.mem.l2, y.1 ≠ line) → gives (.carderScrub (.l2 line true) true) fun t => t.mem.hbm = s.mem.hbm
        ∧ t.mem.hbmPoison = s.mem.hbmPoison ∧ t.cores = s.cores ∧ t.reliab.ue = r.ue)
    ∧ (∀ n line, s.liveOwner ((s.core n).tagOf line) = none → gives (.carderScrub (.vault n line) true) fun t => t.mem = s.mem
        ∧ (∀ a, 64 * line ≤ a → a < 64 * line + 64 → Store.read (t.core n).vault a = 0) ∧ ∀ m, m ≠ n → t.core m = s.core m)
    ∧ (∀ n k, gives (.carderScrub (.codeOrDict n k false) true) fun t => k ∈ (t.core n).codeBad ∧ t.mem = s.mem)
    ∧ gives .carderRate (fun t => t.reliab.sweeps.length = 1357 ∧ (∀ x ∈ t.reliab.sweeps, 1 ≤ x.rate ∧ x.rate ≤ 16)
        ∧ (s.chip + 1250000, .carderRate) ∈ t.agenda ∧ kept t ∧ t.mem.hbm = s.mem.hbm)

/-- 08 R134 to R144: debug stops and their end, the trace ring's registers, sketches and the steps of a dump. Which stop reaches a
core first and what a STEP counts (log 24), and that a START while a dump is busy changes nothing and that a dump is written page by
page (log 27), are the model's readings. -/
def Obligations.DebugAndSketches : Prop :=
  ∀ s : State,
    let gives (i : Instr) (p : State → Prop) : Prop := ∃ t, exec i s = .next t ∧ p t
    let d := s.dbg
    (∀ n id l, (s.core n).launch = some id → s.launch? id = some l → l.dbgAt = none →
      gives (.dbgStop n) fun t => t.inDebug n = true ∧ (∀ m, (s.core m).launch = some id → (s.core m).mode = .running →
          (t.core m).mode = .debug) ∧ (∀ m, Core.SameRegs (s.core m) (t.core m))
        ∧ t.dbg.dbgstat.toNat / 2 ^ 32 = (s.core n).schedcyc % 2 ^ 32)
    ∧ (∀ n, (s.core n).launch = none → exec (.dbgStop n) s = .next s)
    ∧ (∀ n l t0, (s.core n).launch = some l.id → s.launches = [l] → l.dbgAt = some t0 → n ∈ l.pkt.cores →
        (s.core n).mode = .debug → s.dumpsLaunch n = false →
        gives (.dbgResume n) (fun t => (t.core n).mode = .running ∧ t.inDebug n = false)
        ∧ ∀ k, gives (.dbgStep n k) fun t => (t.core n).mode = .running ∧ t.dbg.step = some (n, l.id, (s.core n).schedcyc + max k 1))
    ∧ (∀ n id l k, d.step = some (n, id, k) → (s.core n).launch = some id → s.launch? id = some l → l.dbgAt = none →
        k ≤ (s.core n).schedcyc → gives (.dbgStepDone n) fun t => t.inDebug n = true ∧ t.dbg.step = none)
    ∧ (∀ n, d.step = none → exec (.dbgStepDone n) s = .next s)
    ∧ (∀ v, gives (.trccfgWrite v) fun t => t.cores = s.cores ∧ t.mem = s.mem ∧ t.dbg.trc.base = d.trc.base)
    ∧ (∀ v, (d.trc.cons ≤ v.toNat → v.toNat ≤ d.trc.prod → gives (.trcconsWrite v) fun t => t.dbg.trc = { d.trc with cons := v.toNat })
        ∧ (v.toNat < d.trc.cons ∨ d.trc.prod < v.toNat → exec (.trcconsWrite v) s = .next s))
    ∧ (∀ v, gives (.sketchSeedWrite v) fun t => t.dbg.seed = v ∧ t.dbg.sketch = [] ∧ t.dbg.skq = none
        ∧ (d.skq ≠ none → t.dbg.skqest = 0x8000000000000000))
    ∧ (∀ v : Word, gives (.skctlWrite v) fun t => (∀ b < 64, t.dbg.skctl.getLsbD b
          = (v.getLsbD b && (b == 0 || (decide (7 ≤ b) && decide (b ≤ 11)) || b == 15)))
        ∧ (v.getLsbD 0 = d.skctl.getLsbD 0 → t.dbg.sketch = d.sketch) ∧ (v.getLsbD 0 ≠ d.skctl.getLsbD 0 → t.dbg.sketch = []))
    ∧ gives .skctlClr (fun t => t.dbg = { d with sketch := [] } ∧ t.cores = s.cores)
    ∧ (∀ v, gives (.sketchQuery v) fun t => t.dbg.skq = some v ∧ t.dbg.skqest = 0
        ∧ ∃ k, s.chip < k ∧ k ≤ s.chip + 1250 ∧ (k, .sketchQueryDone) ∈ t.agenda)
    ∧ (∀ v : Word, d.skq = some v → gives .sketchQueryDone fun t => t.dbg.skq = none ∧ t.dbg.skqest.getLsbD 63 = true
        ∧ ∀ j < 4, t.dbg.skqest.toNat % 2 ^ 63 ≤ (Store.read d.sketch (sketchKey (d.skctl.toNat / 2 ^ 10 % 4) (d.skctl.toNat / 2 ^ 7 % 8) j
            (sketchHash d.seed.toNat j v.toNat))).toNat)
    ∧ (∀ v : Word, d.dump ≠ none → exec (.dumpStart v) s = .next s)
    ∧ (∀ v : Word, d.dump = none → s.launchOf (v.toNat / 2 ^ 8 % 256) = none → gives (.dumpStart v) fun t => t.dbg.dumpStat = 5 ∧ t.dbg.dump = none)
    ∧ (∀ (v : Word) l t0, d.dump = none → s.launchOf (v.toNat / 2 ^ 8 % 256) = some l → l.dbgAt = some t0 → v.toNat < 2 ^ 40 →
        v.toNat / 2 ^ 3 % 32 = 0 → v.toNat / 2 ^ 16 % 2 ^ 24 ≠ 0 → d.dumpVa.toNat % 64 = 0 → d.dumpVa.toNat < 2 ^ 57 →
        gives (.dumpStart v) fun t => t.dbg.dumpStat = 1
          ∧ (∃ x, t.dbg.dump = some x ∧ x.core = v.toNat / 2 ^ 8 % 256 ∧ x.launch = l.id ∧ x.off = 0)
          ∧ ∃ k, (k, .dumpComplete) ∈ t.agenda)
    ∧ (d.dump = none → exec .dumpComplete s = .next s)
    ∧ ∀ x, d.dump = some x → x.auto = false → (x.off = 0 → (s.core x.core).atomicsOpen = false) →
        let last := min x.limit Config.dumpBytes
        let at_ := d.dumpVa.toNat + x.off
        (last ≤ x.off → gives .dumpComplete fun t => t.dbg.dump = none ∧ t.cores = s.cores
            ∧ t.dbg.dumpStat.toNat = last * 2 ^ 8 + if x.limit < Config.dumpBytes then 3 else 2)
        ∧ (x.off < last → ∀ k, s.tellerPa (s.dumpRoot x) at_ true = .error k → gives .dumpComplete fun t => t.dbg.dump = none
            ∧ t.cores = s.cores ∧ t.dbg.dumpStat.toNat % 16 = 4)
        ∧ (x.off < last → ∀ pa, s.tellerPa (s.dumpRoot x) at_ true = .ok pa → gives .dumpComplete fun t => t.cores = s.cores
            ∧ (∃ y, t.dbg.dump = some y ∧ x.off < y.off ∧ y = { x with off := y.off }) ∧ t.dbg.dumpStat = d.dumpStat
            ∧ (x.off = 0 → Store.num t.mem.hbm (pa + 56) 8 = dumpWord7 0 0 1) ∧ ∃ k, s.chip < k ∧ (k, .dumpComplete) ∈ t.agenda)

/-- 09 R158 to R162, 11 R199, R200, 19 R333: late results: a satisfied flag wait ends two chip cycles on; the release of a round lets
every member that waits issue with LAG 0 and with the value of its lowest member; an expired allowance is due at the next boundary,
which a core in a wait reaches at once, and goes to the tellers; RELs without open operations perform; an acknowledged command that
has written all it has, or has failed, ends, and its status word is the lateral write of that chip cycle; a fatom's packet leaves. -/
def Obligations.LateResults : Prop :=
  ∀ s : State,
    let gives (i : Instr) (p : State → Prop) : Prop := ∃ t, exec i s = .next t ∧ p t
    let ends (n id : Nat) (c : Core) (e : EngCmd) (left : Nat) : Prop :=
      gives (.engineComplete n id) fun t => (t.core n).ackc = c.ackc - left ∧ (t.core n).eng? id = none ∧ t.mem = s.mem
        ∧ t.lateral = s.lateral ++ [⟨n, c.launch, e.stw, numBytes 8 e.completion.toNat, true,
            if e.post then some (e.entry e.completion) else none⟩] ∧ e.completion.getLsbD 63 = true
    (∀ n w, (s.core n).flagWait = some w → w.resume = none → (s.core n).mode = .running →
      ((s.core n).flags.getLsbD w.flag = w.val → gives (.flagWaitSatisfy n) fun t =>
          (t.core n).flagWait = some { w with resume := some (s.chip + 2) } ∧ Core.SameRegs (s.core n) (t.core n) ∧ t.mem = s.mem)
      ∧ ((s.core n).flags.getLsbD w.flag ≠ w.val → gives (.flagWaitSatisfy n) fun t => t.core n = s.core n ∧ t.mem = s.mem))
    ∧ (∀ l g, (∀ r ∈ s.rounds, r.launch = l → r.group = g → r.closed = false) → exec (.rdvRoundRelease l g) s = .next s)
    ∧ (∀ l g r, s.rounds = [r] → r.launch = l → r.group = g → r.closed = true → (r.arrived.map Prod.fst).Nodup →
        (∀ x, s.launch? l = some x → x.dbgAt = none ∧ x.stops = []) →
        (∀ a ∈ r.arrived, (s.core a.1).launch = some l ∧ (s.core a.1).mode = .running ∧ ∃ w, (s.core a.1).rdvWait = some w ∧ w.group = g) →
        gives (.rdvRoundRelease l g) fun t => t.rounds = [] ∧ t.mem = s.mem ∧ ∀ low ∈ r.arrived, (∀ a ∈ r.arrived, low.1 ≤ a.1) →
          ∀ a ∈ r.arrived, ∀ w, (s.core a.1).rdvWait = some w → (t.core a.1).rdvWait = none ∧ (t.core a.1).lag = 0
            ∧ (t.core a.1).rdvVal = some low.2
            ∧ ∃ i ∈ (t.core a.1).items, i.due = (s.core a.1).sched ∧ i.act = .land (.scalar w.dst low.2))
    ∧ (∀ n, gives (.allowanceExpiry n) fun t => (t.core n) = { s.core n with allowDue := true } ∧ (∀ m, m ≠ n → t.core m = s.core m)
        ∧ t.mem = s.mem)
    ∧ (∀ n, (s.core n).flagWait = none → (s.core n).rdvWait = none → s.waitCause n = none)
    ∧ (∀ n, (s.core n).mode = .running → (s.core n).allowDue = true → ((s.core n).flagWait ≠ none ∨ (s.core n).rdvWait ≠ none) →
        (s.waitCause n).isSome = true
        ∧ ((∀ l k, ((s.landNow n).core n).issue = .slots l k → s.earlyCauses (s.landNow n) n l = []) →
          s.earlyCauses (s.landNow n) n [] = [] → s.waitCause n = some ⟨(s.core n).cause .allowance, .plain⟩))
    ∧ (∀ n k l, k.cls = .allowance → s.launchOf n = some l → l.pkt.deleg.testBit Trap.allowance.bit = false ∨ (s.core n).handler = true →
        let t := s.takeTrap n k
        (t.core n).mode = .tellers ∧ Core.SameRegs (s.core n) (t.core n) ∧ (∃ r, (t.core n).record = some r ∧ r.escalated = true)
          ∧ ((∃ j, (j, .tellerTrapEvent n) ∈ t.agenda) ∨ (true, .tellerTrapEvent n) ∈ t.tellers.pending
            ∨ (true, .tellerTrapEvent n) ∈ t.tellers.full))
    ∧ (∀ n, gives (.relPerform n) fun t => (t.core n).rels = (s.core n).rels.filter (fun r => !r.waits.isEmpty)
        ∧ Core.SameRegs (s.core n) (t.core n) ∧ t.mem = s.mem)
    ∧ (∀ n id, (s.owner n id).eng? id = none → exec (.engineComplete n id) s = .next s)
    ∧ (∀ n id e l, (s.owner n id).eng? id = some e → e.id = id → e.held = false → e.started = true → e.failed = none →
        (s.owner n id).statusOpen e = false → e.op = 6 ∨ e.op = 7 ∨ e.op = 8 → e.layout = some l → e.n ≤ e.count → s.opOf n id = none →
        s.parkedOf n id = false → (s.core n).owns id = true → ends n id (s.owner n id) e 1)
    ∧ (∀ n id e code count left, (s.owner n id).eng? id = some e → e.id = id → ackOp e.op = true → e.started = true →
        e.failed = some (code, count, left) → (s.owner n id).statusOpen e = false → s.opOf n id = none → (s.core n).owns id = true →
        (s.parkedOf n id = false → ends n id (s.owner n id) { e with fault := some (code, 0), count := count } left)
        ∧ (s.parkedOf n id = true → gives (.engineComplete n id) fun t => t.core n = s.core n ∧ t.mem = s.mem ∧ t.lateral = s.lateral
            ∧ ∃ k, s.chip < k ∧ (k, .engineComplete n id) ∈ t.agenda))
    ∧ (∀ w : Lateral, (s.core w.core).launch = w.launch →
        let t := s.performLateral w
        (∀ a, Store.read (t.core w.core).vault a = if w.addr ≤ a ∧ a < w.addr + w.data.length then w.data.getD (a - w.addr) 0
          else Store.read (s.core w.core).vault a)
        ∧ (∀ e, w.entry = some e → (s.core w.core).engQ.length < 16 → (t.core w.core).engQ = (s.core w.core).engQ ++ [e]))
    ∧ ∀ n id e, (s.owner n id).eng? id = some e → e.id = id → e.held = false → e.started = true → e.failed = none →
        (s.owner n id).statusOpen e = false → e.op = 0x0B → e.writes = 0 → e.reads ≠ 0 →
        gives (.engineComplete n id) fun t => ∃ o, t.fabric.outstanding = s.fabric.outstanding ++ [o] ∧ o.core = n ∧ o.cmd = id
          ∧ o.pkt.kind = 4 ∧ o.pkt.addr = e.va.toNat ∧ o.pkt.op = e.cf % 8 ∧ o.pkt.count = (if e.cf.testBit 3 then 8 else 4)
          ∧ o.sentAt = s.chip

/-! The package as a whole. -/

/-- Log 2: every step keeps the memories' canonical form, from any state that has it. -/
def Obligations.MemoryKept : Prop := Kept fun s => s.memOk = true

/-- 00 R7, 01 R20, R23, 02 R28, R36, 03 R64, 04 R70, 07 R132, 08 R138: what reset leaves; the first step is the bring-up. -/
def Obligations.ResetState : Prop :=
  let s := State.reset
  s.memOk = true ∧ s.chip = 0 ∧ s.power.ready = false ∧ s.cores = [] ∧ s.launches = [] ∧ s.saved = []
    ∧ s.fabric.ports = List.replicate 24 Port.reset ∧ Port.reset.state = 0 ∧ s.fabric.holds = []
    ∧ (∀ q, s.queue q = Queue.reset) ∧ Queue.reset.state = .free ∧ (∀ g, (s.fabric.entry g).valid = false)
    ∧ s.xlate.heatCfg = 0x100000100 ∧ s.xlate.shootdowns = [] ∧ s.xlate.migs = []
    ∧ s.reliab.relcfg.toNat % 2 ^ 16 = 400 ∧ s.reliab.relcfg.toNat / 2 ^ 16 % 256 = 10 ∧ s.reliab.relcfg.toNat / 2 ^ 24 % 16 = 4
    ∧ s.reliab.cardThr = 75 ∧ s.dbg.trc.minLost = 1 ∧ s.dbg.sketch = [] ∧ s.nq.on = false
    ∧ step s = exec (.powerUp BootInput.standard) { s with agenda := [] }
    ∧ ∃ t, step s = .next t ∧ t.power.ready = true ∧ t.power.hostLink = true ∧ t.cores = []
end

