-- ==== Sys2Proof/Laws/Fields.lean ====
section
/-! SUPPORT. The fields of an encoded slot value are those it was encoded from. -/

namespace Sys2Proof

theorem guardOf_code (p : Nat) (n : Bool) (h : p < 64) (v : Nat) (e : v = p * 2 + b2n n) :
    guardOf v = ⟨p, n⟩ := by
  subst e
  cases n <;> simp [guardOf, b2n] <;> omega

theorem bit_of (v n : Nat) (b : Bool) (h : v / 2 ^ n % 2 = b2n b) : bit v n = b := by
  cases b <;> simp [bit, h, b2n]

theorem b2n_lt (b : Bool) : b2n b < 2 := by cases b <;> decide

/-- The X slot. -/
theorem xFields_encodeX (base : Nat) (x : XArgs) (h : x.wf = true) (hb : base < 32) :
    xFields (encodeX base x) x.lit = x ∧ bits (encodeX base x) 28 5 = base ∧ bits (encodeX base x) 27 6 = 2 * base + b2n x.imm
      ∧ encodeX base x < 2 ^ 40 := by
  obtain ⟨⟨p, n⟩, dst, sa, imm, sb, lit⟩ := x
  simp only [XArgs.wf, Guard.wf, Bool.and_eq_true, decide_eq_true_eq] at h
  obtain ⟨⟨⟨⟨⟨⟨hp, hd⟩, hs⟩, hb'⟩, -⟩, -⟩, -⟩ := h
  have hn := b2n_lt n
  have g1 := b2n_lt imm
  simp only [xFields, encodeX, Guard.code]
  refine ⟨?_, by simp only [bits]; omega, by simp only [bits]; omega, by omega⟩
  rw [guardOf_code p n hp _ (by simp only [bits]; omega), bit_of _ 27 imm (by omega)]
  simp only [bits, XArgs.mk.injEq, true_and, and_true]
  omega

/-- A vector form of an M slot. -/
theorem mFields_encodeM (op : Nat) (m : MArgs) (h : m.wf = true) (ho : op < 64) :
    mFields m.port (encodeM op m) m.lit = m ∧ bits (encodeM op m) 35 6 = op ∧ encodeM op m < 2 ^ 48 := by
  obtain ⟨port, ⟨p, n⟩, ply, w, base, off, lit⟩ := m
  simp only [MArgs.wf, Guard.wf, Bool.and_eq_true, decide_eq_true_eq] at h
  obtain ⟨⟨⟨⟨⟨⟨hp, h1⟩, h2⟩, h3⟩, h4⟩, -⟩, -⟩ := h
  have hn := b2n_lt n
  simp only [mFields, encodeM, Guard.code]
  refine ⟨?_, by simp only [bits]; omega, by omega⟩
  rw [guardOf_code p n hp _ (by simp only [bits]; omega)]
  simp only [bits, MArgs.mk.injEq, true_and, and_true]
  omega

/-- ldx and stx. -/
theorem scalarMemFields_encode (op : Nat) (m : ScalarMemArgs) (h : m.wf = true) (ho : op < 64) :
    scalarMemFields m.port (encodeScalarMem op m) m.lit = m ∧ bits (encodeScalarMem op m) 35 6 = op
      ∧ bits (encodeScalarMem op m) 30 5 = 0 ∧ bit (encodeScalarMem op m) 20 = false
      ∧ encodeScalarMem op m < 2 ^ 48 := by
  obtain ⟨port, ⟨p, n⟩, reg, size, sgn, base, off, lit⟩ := m
  simp only [ScalarMemArgs.wf, Guard.wf, Bool.and_eq_true, decide_eq_true_eq] at h
  obtain ⟨⟨⟨⟨⟨⟨hp, h1⟩, h2⟩, h3⟩, h4⟩, -⟩, -⟩ := h
  have hn := b2n_lt n
  have g1 := b2n_lt sgn
  simp only [scalarMemFields, encodeScalarMem, Guard.code]
  refine ⟨?_, by simp only [bits]; omega, by simp only [bits]; omega, bit_of _ 20 false (by rw [show b2n false = 0 from rfl]; omega), by omega⟩
  rw [guardOf_code p n hp _ (by simp only [bits]; omega), bit_of _ 21 sgn (by omega)]
  simp only [bits, ScalarMemArgs.mk.injEq, true_and, and_true]
  omega

/-- Atomics. -/
theorem atomFields_encode (op : Nat) (a : AtomArgs) (h : a.wf = true) (ho : op < 64) :
    atomFields a.port (encodeAtom op a) a.lit = a ∧ bits (encodeAtom op a) 35 6 = op ∧ bits (encodeAtom op a) 30 5 = 0
      ∧ encodeAtom op a < 2 ^ 48 := by
  obtain ⟨port, ⟨p, n⟩, dst, size, level, base, off, src, lit⟩ := a
  simp only [AtomArgs.wf, Guard.wf, Bool.and_eq_true, Bool.or_eq_true, decide_eq_true_eq, beq_iff_eq] at h
  obtain ⟨⟨⟨⟨⟨⟨⟨⟨hp, h1⟩, h2⟩, h3⟩, h4⟩, h5⟩, h6⟩, -⟩, -⟩ := h
  have hn := b2n_lt n
  simp only [atomFields, encodeAtom, Guard.code]
  refine ⟨?_, by simp only [bits]; omega, by simp only [bits]; omega, by omega⟩
  rw [guardOf_code p n hp _ (by simp only [bits]; omega)]
  simp only [bits, AtomArgs.mk.injEq, true_and, and_true]
  omega

/-- A V slot; the family gives sub, and b is the lowest bit of OP. -/
theorem vFields_encodeV (op : Nat) (v : VArgs) (h : v.wf = true) (ho : op < 256) (hb : op % 2 = b2n v.b) :
    vFields v.port (encodeV op v) v.sub = v ∧ bits (encodeV op v) 41 8 = op ∧ bits (encodeV op v) 37 4 = v.dw
      ∧ bits (encodeV op v) 0 11 = v.sb ∧ bits (encodeV op v) 8 3 = v.sb / 256 ∧ encodeV op v < 2 ^ 56 := by
  obtain ⟨port, ⟨p, n⟩, sub, b, dw, dst, sw, sa, sb⟩ := v
  simp only [VArgs.wf, Guard.wf, Bool.and_eq_true, decide_eq_true_eq] at h
  obtain ⟨⟨⟨⟨⟨hp, h1⟩, h2⟩, h3⟩, h4⟩, h5⟩ := h
  have hn := b2n_lt n
  simp only at hb h1 h2 h3 h4 h5
  simp only [vFields, encodeV, Guard.code]
  refine ⟨?_, by simp only [bits]; omega, by simp only [bits]; omega, by simp only [bits]; omega, by simp only [bits]; omega,
    by omega⟩
  rw [guardOf_code p n hp _ (by simp only [bits]; omega), bit_of _ 41 b (by omega)]
  simp only [bits, VArgs.mk.injEq, true_and]
  omega

/-- The T slot. -/
theorem tFields_encodeT (code : Nat) (t : TArgs) (h : t.wf = true) (hc : code < 16) :
    tFields (encodeT code t) = t ∧ bits (encodeT code t) 29 4 = code ∧ encodeT code t < 2 ^ 40 := by
  obtain ⟨⟨p, n⟩, neg, disc, blk, ow, cks, desc, row, aux⟩ := t
  simp only [TArgs.wf, Guard.wf, Bool.and_eq_true, decide_eq_true_eq] at h
  obtain ⟨⟨⟨hp, h1⟩, h2⟩, h3⟩ := h
  have hn := b2n_lt n
  have g1 := b2n_lt neg
  have g2 := b2n_lt disc
  have g3 := b2n_lt blk
  have g4 := b2n_lt ow
  have g5 := b2n_lt cks
  simp only [tFields, encodeT, Guard.code]
  refine ⟨?_, by simp only [bits]; omega, by omega⟩
  rw [guardOf_code p n hp _ (by simp only [bits]; omega), bit_of _ 28 neg (by omega), bit_of _ 27 disc (by omega),
    bit_of _ 26 blk (by omega), bit_of _ 25 ow (by omega), bit_of _ 24 cks (by omega)]
  simp only [bits, TArgs.mk.injEq, true_and]
  omega

/-- The E slot. -/
theorem eFields_encodeE (op : Nat) (e : EArgs) (h : e.wf = true) (ho : op < 64) :
    eFields (encodeE op e) e.lit = e ∧ bits (encodeE op e) 35 6 = op ∧ encodeE op e < 2 ^ 48 := by
  obtain ⟨⟨p, n⟩, sa, sb, sc, ofs, post, cf, lit⟩ := e
  simp only [EArgs.wf, Guard.wf, Bool.and_eq_true, decide_eq_true_eq] at h
  obtain ⟨⟨⟨⟨⟨⟨⟨hp, h1⟩, h2⟩, h3⟩, h4⟩, h5⟩, -⟩, -⟩ := h
  have hn := b2n_lt n
  have g1 := b2n_lt post
  simp only [eFields, encodeE, Guard.code]
  refine ⟨?_, by simp only [bits]; omega, by omega⟩
  rw [guardOf_code p n hp _ (by simp only [bits]; omega), bit_of _ 6 post (by omega)]
  simp only [bits, EArgs.mk.injEq, true_and, and_true]
  omega

end Sys2Proof
end

