-- ==== Sys2Proof/Laws/State.lean ====
section
/-! SUPPORT. What each update of the state changes, one lemma per field. -/

namespace Sys2Proof.Machine

/-! setCore. -/

@[simp] theorem State.setCore_chip (s : State) (n : Nat) (c : Core) : (s.setCore n c).chip = s.chip := rfl
@[simp] theorem State.setCore_agenda (s : State) (n : Nat) (c : Core) : (s.setCore n c).agenda = s.agenda := rfl
@[simp] theorem State.setCore_fresh (s : State) (n : Nat) (c : Core) : (s.setCore n c).fresh = s.fresh := rfl
@[simp] theorem State.setCore_cur (s : State) (n : Nat) (c : Core) : (s.setCore n c).cur = s.cur := rfl
@[simp] theorem State.setCore_nextId (s : State) (n : Nat) (c : Core) : (s.setCore n c).nextId = s.nextId := rfl
@[simp] theorem State.setCore_out (s : State) (n : Nat) (c : Core) : (s.setCore n c).out = s.out := rfl
@[simp] theorem State.setCore_power (s : State) (n : Nat) (c : Core) : (s.setCore n c).power = s.power := rfl
@[simp] theorem State.setCore_flash (s : State) (n : Nat) (c : Core) : (s.setCore n c).flash = s.flash := rfl
@[simp] theorem State.setCore_cores (s : State) (n : Nat) (c : Core) : (s.setCore n c).cores = setAt s.cores n c := rfl
@[simp] theorem State.setCore_mem (s : State) (n : Nat) (c : Core) : (s.setCore n c).mem = s.mem := rfl
@[simp] theorem State.setCore_queues (s : State) (n : Nat) (c : Core) : (s.setCore n c).queues = s.queues := rfl
@[simp] theorem State.setCore_launches (s : State) (n : Nat) (c : Core) : (s.setCore n c).launches = s.launches := rfl
@[simp] theorem State.setCore_saved (s : State) (n : Nat) (c : Core) : (s.setCore n c).saved = s.saved := rfl
@[simp] theorem State.setCore_marks (s : State) (n : Nat) (c : Core) : (s.setCore n c).marks = s.marks := rfl
@[simp] theorem State.setCore_busyCores (s : State) (n : Nat) (c : Core) : (s.setCore n c).busyCores = s.busyCores := rfl
@[simp] theorem State.setCore_tellers (s : State) (n : Nat) (c : Core) : (s.setCore n c).tellers = s.tellers := rfl
@[simp] theorem State.setCore_rounds (s : State) (n : Nat) (c : Core) : (s.setCore n c).rounds = s.rounds := rfl
@[simp] theorem State.setCore_lateral (s : State) (n : Nat) (c : Core) : (s.setCore n c).lateral = s.lateral := rfl
@[simp] theorem State.setCore_ownerNext (s : State) (n : Nat) (c : Core) : (s.setCore n c).ownerNext = s.ownerNext := rfl
@[simp] theorem State.setCore_ctxsave (s : State) (n : Nat) (c : Core) : (s.setCore n c).ctxsave = s.ctxsave := rfl
@[simp] theorem State.setCore_fabric (s : State) (n : Nat) (c : Core) : (s.setCore n c).fabric = s.fabric := rfl
@[simp] theorem State.setCore_xlate (s : State) (n : Nat) (c : Core) : (s.setCore n c).xlate = s.xlate := rfl
@[simp] theorem State.setCore_nq (s : State) (n : Nat) (c : Core) : (s.setCore n c).nq = s.nq := rfl
@[simp] theorem State.setCore_fw (s : State) (n : Nat) (c : Core) : (s.setCore n c).fw = s.fw := rfl
@[simp] theorem State.setCore_reliab (s : State) (n : Nat) (c : Core) : (s.setCore n c).reliab = s.reliab := rfl
@[simp] theorem State.setCore_dbg (s : State) (n : Nat) (c : Core) : (s.setCore n c).dbg = s.dbg := rfl

/-! updCore. -/

@[simp] theorem State.updCore_chip (s : State) (n : Nat) (f : Core → Core) : (s.updCore n f).chip = s.chip := rfl
@[simp] theorem State.updCore_agenda (s : State) (n : Nat) (f : Core → Core) : (s.updCore n f).agenda = s.agenda := rfl
@[simp] theorem State.updCore_fresh (s : State) (n : Nat) (f : Core → Core) : (s.updCore n f).fresh = s.fresh := rfl
@[simp] theorem State.updCore_cur (s : State) (n : Nat) (f : Core → Core) : (s.updCore n f).cur = s.cur := rfl
@[simp] theorem State.updCore_nextId (s : State) (n : Nat) (f : Core → Core) : (s.updCore n f).nextId = s.nextId := rfl
@[simp] theorem State.updCore_out (s : State) (n : Nat) (f : Core → Core) : (s.updCore n f).out = s.out := rfl
@[simp] theorem State.updCore_power (s : State) (n : Nat) (f : Core → Core) : (s.updCore n f).power = s.power := rfl
@[simp] theorem State.updCore_flash (s : State) (n : Nat) (f : Core → Core) : (s.updCore n f).flash = s.flash := rfl
@[simp] theorem State.updCore_cores (s : State) (n : Nat) (f : Core → Core) : (s.updCore n f).cores = setAt s.cores n (f (s.core n)) := rfl
@[simp] theorem State.updCore_mem (s : State) (n : Nat) (f : Core → Core) : (s.updCore n f).mem = s.mem := rfl
@[simp] theorem State.updCore_queues (s : State) (n : Nat) (f : Core → Core) : (s.updCore n f).queues = s.queues := rfl
@[simp] theorem State.updCore_launches (s : State) (n : Nat) (f : Core → Core) : (s.updCore n f).launches = s.launches := rfl
@[simp] theorem State.updCore_saved (s : State) (n : Nat) (f : Core → Core) : (s.updCore n f).saved = s.saved := rfl
@[simp] theorem State.updCore_marks (s : State) (n : Nat) (f : Core → Core) : (s.updCore n f).marks = s.marks := rfl
@[simp] theorem State.updCore_busyCores (s : State) (n : Nat) (f : Core → Core) : (s.updCore n f).busyCores = s.busyCores := rfl
@[simp] theorem State.updCore_tellers (s : State) (n : Nat) (f : Core → Core) : (s.updCore n f).tellers = s.tellers := rfl
@[simp] theorem State.updCore_rounds (s : State) (n : Nat) (f : Core → Core) : (s.updCore n f).rounds = s.rounds := rfl
@[simp] theorem State.updCore_lateral (s : State) (n : Nat) (f : Core → Core) : (s.updCore n f).lateral = s.lateral := rfl
@[simp] theorem State.updCore_ownerNext (s : State) (n : Nat) (f : Core → Core) : (s.updCore n f).ownerNext = s.ownerNext := rfl
@[simp] theorem State.updCore_ctxsave (s : State) (n : Nat) (f : Core → Core) : (s.updCore n f).ctxsave = s.ctxsave := rfl
@[simp] theorem State.updCore_fabric (s : State) (n : Nat) (f : Core → Core) : (s.updCore n f).fabric = s.fabric := rfl
@[simp] theorem State.updCore_xlate (s : State) (n : Nat) (f : Core → Core) : (s.updCore n f).xlate = s.xlate := rfl
@[simp] theorem State.updCore_nq (s : State) (n : Nat) (f : Core → Core) : (s.updCore n f).nq = s.nq := rfl
@[simp] theorem State.updCore_fw (s : State) (n : Nat) (f : Core → Core) : (s.updCore n f).fw = s.fw := rfl
@[simp] theorem State.updCore_reliab (s : State) (n : Nat) (f : Core → Core) : (s.updCore n f).reliab = s.reliab := rfl
@[simp] theorem State.updCore_dbg (s : State) (n : Nat) (f : Core → Core) : (s.updCore n f).dbg = s.dbg := rfl

/-! onCur. -/

@[simp] theorem State.onCur_chip (s : State) (f : Core → Core) : (s.onCur f).chip = s.chip := rfl
@[simp] theorem State.onCur_agenda (s : State) (f : Core → Core) : (s.onCur f).agenda = s.agenda := rfl
@[simp] theorem State.onCur_fresh (s : State) (f : Core → Core) : (s.onCur f).fresh = s.fresh := rfl
@[simp] theorem State.onCur_cur (s : State) (f : Core → Core) : (s.onCur f).cur = s.cur := rfl
@[simp] theorem State.onCur_nextId (s : State) (f : Core → Core) : (s.onCur f).nextId = s.nextId := rfl
@[simp] theorem State.onCur_out (s : State) (f : Core → Core) : (s.onCur f).out = s.out := rfl
@[simp] theorem State.onCur_power (s : State) (f : Core → Core) : (s.onCur f).power = s.power := rfl
@[simp] theorem State.onCur_flash (s : State) (f : Core → Core) : (s.onCur f).flash = s.flash := rfl
@[simp] theorem State.onCur_cores (s : State) (f : Core → Core) : (s.onCur f).cores = setAt s.cores s.cur (f s.curCore) := rfl
@[simp] theorem State.onCur_mem (s : State) (f : Core → Core) : (s.onCur f).mem = s.mem := rfl
@[simp] theorem State.onCur_queues (s : State) (f : Core → Core) : (s.onCur f).queues = s.queues := rfl
@[simp] theorem State.onCur_launches (s : State) (f : Core → Core) : (s.onCur f).launches = s.launches := rfl
@[simp] theorem State.onCur_saved (s : State) (f : Core → Core) : (s.onCur f).saved = s.saved := rfl
@[simp] theorem State.onCur_marks (s : State) (f : Core → Core) : (s.onCur f).marks = s.marks := rfl
@[simp] theorem State.onCur_busyCores (s : State) (f : Core → Core) : (s.onCur f).busyCores = s.busyCores := rfl
@[simp] theorem State.onCur_tellers (s : State) (f : Core → Core) : (s.onCur f).tellers = s.tellers := rfl
@[simp] theorem State.onCur_rounds (s : State) (f : Core → Core) : (s.onCur f).rounds = s.rounds := rfl
@[simp] theorem State.onCur_lateral (s : State) (f : Core → Core) : (s.onCur f).lateral = s.lateral := rfl
@[simp] theorem State.onCur_ownerNext (s : State) (f : Core → Core) : (s.onCur f).ownerNext = s.ownerNext := rfl
@[simp] theorem State.onCur_ctxsave (s : State) (f : Core → Core) : (s.onCur f).ctxsave = s.ctxsave := rfl
@[simp] theorem State.onCur_fabric (s : State) (f : Core → Core) : (s.onCur f).fabric = s.fabric := rfl
@[simp] theorem State.onCur_xlate (s : State) (f : Core → Core) : (s.onCur f).xlate = s.xlate := rfl
@[simp] theorem State.onCur_nq (s : State) (f : Core → Core) : (s.onCur f).nq = s.nq := rfl
@[simp] theorem State.onCur_fw (s : State) (f : Core → Core) : (s.onCur f).fw = s.fw := rfl
@[simp] theorem State.onCur_reliab (s : State) (f : Core → Core) : (s.onCur f).reliab = s.reliab := rfl
@[simp] theorem State.onCur_dbg (s : State) (f : Core → Core) : (s.onCur f).dbg = s.dbg := rfl

/-! plan. -/

@[simp] theorem State.plan_chip (s : State) (k : Nat) (i : Instr) : (s.plan k i).chip = s.chip := rfl
@[simp] theorem State.plan_agenda (s : State) (k : Nat) (i : Instr) : (s.plan k i).agenda = s.agenda ++ [(k, i)] := rfl
@[simp] theorem State.plan_fresh (s : State) (k : Nat) (i : Instr) : (s.plan k i).fresh = s.fresh := rfl
@[simp] theorem State.plan_cur (s : State) (k : Nat) (i : Instr) : (s.plan k i).cur = s.cur := rfl
@[simp] theorem State.plan_nextId (s : State) (k : Nat) (i : Instr) : (s.plan k i).nextId = s.nextId := rfl
@[simp] theorem State.plan_out (s : State) (k : Nat) (i : Instr) : (s.plan k i).out = s.out := rfl
@[simp] theorem State.plan_power (s : State) (k : Nat) (i : Instr) : (s.plan k i).power = s.power := rfl
@[simp] theorem State.plan_flash (s : State) (k : Nat) (i : Instr) : (s.plan k i).flash = s.flash := rfl
@[simp] theorem State.plan_cores (s : State) (k : Nat) (i : Instr) : (s.plan k i).cores = s.cores := rfl
@[simp] theorem State.plan_mem (s : State) (k : Nat) (i : Instr) : (s.plan k i).mem = s.mem := rfl
@[simp] theorem State.plan_queues (s : State) (k : Nat) (i : Instr) : (s.plan k i).queues = s.queues := rfl
@[simp] theorem State.plan_launches (s : State) (k : Nat) (i : Instr) : (s.plan k i).launches = s.launches := rfl
@[simp] theorem State.plan_saved (s : State) (k : Nat) (i : Instr) : (s.plan k i).saved = s.saved := rfl
@[simp] theorem State.plan_marks (s : State) (k : Nat) (i : Instr) : (s.plan k i).marks = s.marks := rfl
@[simp] theorem State.plan_busyCores (s : State) (k : Nat) (i : Instr) : (s.plan k i).busyCores = s.busyCores := rfl
@[simp] theorem State.plan_tellers (s : State) (k : Nat) (i : Instr) : (s.plan k i).tellers = s.tellers := rfl
@[simp] theorem State.plan_rounds (s : State) (k : Nat) (i : Instr) : (s.plan k i).rounds = s.rounds := rfl
@[simp] theorem State.plan_lateral (s : State) (k : Nat) (i : Instr) : (s.plan k i).lateral = s.lateral := rfl
@[simp] theorem State.plan_ownerNext (s : State) (k : Nat) (i : Instr) : (s.plan k i).ownerNext = s.ownerNext := rfl
@[simp] theorem State.plan_ctxsave (s : State) (k : Nat) (i : Instr) : (s.plan k i).ctxsave = s.ctxsave := rfl
@[simp] theorem State.plan_fabric (s : State) (k : Nat) (i : Instr) : (s.plan k i).fabric = s.fabric := rfl
@[simp] theorem State.plan_xlate (s : State) (k : Nat) (i : Instr) : (s.plan k i).xlate = s.xlate := rfl
@[simp] theorem State.plan_nq (s : State) (k : Nat) (i : Instr) : (s.plan k i).nq = s.nq := rfl
@[simp] theorem State.plan_fw (s : State) (k : Nat) (i : Instr) : (s.plan k i).fw = s.fw := rfl
@[simp] theorem State.plan_reliab (s : State) (k : Nat) (i : Instr) : (s.plan k i).reliab = s.reliab := rfl
@[simp] theorem State.plan_dbg (s : State) (k : Nat) (i : Instr) : (s.plan k i).dbg = s.dbg := rfl

/-! draw. -/

@[simp] theorem State.draw_chip (s : State) : (s.draw.2).chip = s.chip := rfl
@[simp] theorem State.draw_agenda (s : State) : (s.draw.2).agenda = s.agenda := rfl
@[simp] theorem State.draw_fresh (s : State) : (s.draw.2).fresh = s.fresh + 1 := rfl
@[simp] theorem State.draw_cur (s : State) : (s.draw.2).cur = s.cur := rfl
@[simp] theorem State.draw_nextId (s : State) : (s.draw.2).nextId = s.nextId := rfl
@[simp] theorem State.draw_out (s : State) : (s.draw.2).out = s.out := rfl
@[simp] theorem State.draw_power (s : State) : (s.draw.2).power = s.power := rfl
@[simp] theorem State.draw_flash (s : State) : (s.draw.2).flash = s.flash := rfl
@[simp] theorem State.draw_cores (s : State) : (s.draw.2).cores = s.cores := rfl
@[simp] theorem State.draw_mem (s : State) : (s.draw.2).mem = s.mem := rfl
@[simp] theorem State.draw_queues (s : State) : (s.draw.2).queues = s.queues := rfl
@[simp] theorem State.draw_launches (s : State) : (s.draw.2).launches = s.launches := rfl
@[simp] theorem State.draw_saved (s : State) : (s.draw.2).saved = s.saved := rfl
@[simp] theorem State.draw_marks (s : State) : (s.draw.2).marks = s.marks := rfl
@[simp] theorem State.draw_busyCores (s : State) : (s.draw.2).busyCores = s.busyCores := rfl
@[simp] theorem State.draw_tellers (s : State) : (s.draw.2).tellers = s.tellers := rfl
@[simp] theorem State.draw_rounds (s : State) : (s.draw.2).rounds = s.rounds := rfl
@[simp] theorem State.draw_lateral (s : State) : (s.draw.2).lateral = s.lateral := rfl
@[simp] theorem State.draw_ownerNext (s : State) : (s.draw.2).ownerNext = s.ownerNext := rfl
@[simp] theorem State.draw_ctxsave (s : State) : (s.draw.2).ctxsave = s.ctxsave := rfl
@[simp] theorem State.draw_fabric (s : State) : (s.draw.2).fabric = s.fabric := rfl
@[simp] theorem State.draw_xlate (s : State) : (s.draw.2).xlate = s.xlate := rfl
@[simp] theorem State.draw_nq (s : State) : (s.draw.2).nq = s.nq := rfl
@[simp] theorem State.draw_fw (s : State) : (s.draw.2).fw = s.fw := rfl
@[simp] theorem State.draw_reliab (s : State) : (s.draw.2).reliab = s.reliab := rfl
@[simp] theorem State.draw_dbg (s : State) : (s.draw.2).dbg = s.dbg := rfl

/-! drawBelow. -/

@[simp] theorem State.drawBelow_chip (s : State) (n : Nat) : ((s.drawBelow n).2).chip = s.chip := rfl
@[simp] theorem State.drawBelow_agenda (s : State) (n : Nat) : ((s.drawBelow n).2).agenda = s.agenda := rfl
@[simp] theorem State.drawBelow_fresh (s : State) (n : Nat) : ((s.drawBelow n).2).fresh = s.fresh + 1 := rfl
@[simp] theorem State.drawBelow_cur (s : State) (n : Nat) : ((s.drawBelow n).2).cur = s.cur := rfl
@[simp] theorem State.drawBelow_nextId (s : State) (n : Nat) : ((s.drawBelow n).2).nextId = s.nextId := rfl
@[simp] theorem State.drawBelow_out (s : State) (n : Nat) : ((s.drawBelow n).2).out = s.out := rfl
@[simp] theorem State.drawBelow_power (s : State) (n : Nat) : ((s.drawBelow n).2).power = s.power := rfl
@[simp] theorem State.drawBelow_flash (s : State) (n : Nat) : ((s.drawBelow n).2).flash = s.flash := rfl
@[simp] theorem State.drawBelow_cores (s : State) (n : Nat) : ((s.drawBelow n).2).cores = s.cores := rfl
@[simp] theorem State.drawBelow_mem (s : State) (n : Nat) : ((s.drawBelow n).2).mem = s.mem := rfl
@[simp] theorem State.drawBelow_queues (s : State) (n : Nat) : ((s.drawBelow n).2).queues = s.queues := rfl
@[simp] theorem State.drawBelow_launches (s : State) (n : Nat) : ((s.drawBelow n).2).launches = s.launches := rfl
@[simp] theorem State.drawBelow_saved (s : State) (n : Nat) : ((s.drawBelow n).2).saved = s.saved := rfl
@[simp] theorem State.drawBelow_marks (s : State) (n : Nat) : ((s.drawBelow n).2).marks = s.marks := rfl
@[simp] theorem State.drawBelow_busyCores (s : State) (n : Nat) : ((s.drawBelow n).2).busyCores = s.busyCores := rfl
@[simp] theorem State.drawBelow_tellers (s : State) (n : Nat) : ((s.drawBelow n).2).tellers = s.tellers := rfl
@[simp] theorem State.drawBelow_rounds (s : State) (n : Nat) : ((s.drawBelow n).2).rounds = s.rounds := rfl
@[simp] theorem State.drawBelow_lateral (s : State) (n : Nat) : ((s.drawBelow n).2).lateral = s.lateral := rfl
@[simp] theorem State.drawBelow_ownerNext (s : State) (n : Nat) : ((s.drawBelow n).2).ownerNext = s.ownerNext := rfl
@[simp] theorem State.drawBelow_ctxsave (s : State) (n : Nat) : ((s.drawBelow n).2).ctxsave = s.ctxsave := rfl
@[simp] theorem State.drawBelow_fabric (s : State) (n : Nat) : ((s.drawBelow n).2).fabric = s.fabric := rfl
@[simp] theorem State.drawBelow_xlate (s : State) (n : Nat) : ((s.drawBelow n).2).xlate = s.xlate := rfl
@[simp] theorem State.drawBelow_nq (s : State) (n : Nat) : ((s.drawBelow n).2).nq = s.nq := rfl
@[simp] theorem State.drawBelow_fw (s : State) (n : Nat) : ((s.drawBelow n).2).fw = s.fw := rfl
@[simp] theorem State.drawBelow_reliab (s : State) (n : Nat) : ((s.drawBelow n).2).reliab = s.reliab := rfl
@[simp] theorem State.drawBelow_dbg (s : State) (n : Nat) : ((s.drawBelow n).2).dbg = s.dbg := rfl

/-! newId. -/

@[simp] theorem State.newId_chip (s : State) : (s.newId.2).chip = s.chip := rfl
@[simp] theorem State.newId_agenda (s : State) : (s.newId.2).agenda = s.agenda := rfl
@[simp] theorem State.newId_fresh (s : State) : (s.newId.2).fresh = s.fresh := rfl
@[simp] theorem State.newId_cur (s : State) : (s.newId.2).cur = s.cur := rfl
@[simp] theorem State.newId_nextId (s : State) : (s.newId.2).nextId = s.nextId + 1 := rfl
@[simp] theorem State.newId_out (s : State) : (s.newId.2).out = s.out := rfl
@[simp] theorem State.newId_power (s : State) : (s.newId.2).power = s.power := rfl
@[simp] theorem State.newId_flash (s : State) : (s.newId.2).flash = s.flash := rfl
@[simp] theorem State.newId_cores (s : State) : (s.newId.2).cores = s.cores := rfl
@[simp] theorem State.newId_mem (s : State) : (s.newId.2).mem = s.mem := rfl
@[simp] theorem State.newId_queues (s : State) : (s.newId.2).queues = s.queues := rfl
@[simp] theorem State.newId_launches (s : State) : (s.newId.2).launches = s.launches := rfl
@[simp] theorem State.newId_saved (s : State) : (s.newId.2).saved = s.saved := rfl
@[simp] theorem State.newId_marks (s : State) : (s.newId.2).marks = s.marks := rfl
@[simp] theorem State.newId_busyCores (s : State) : (s.newId.2).busyCores = s.busyCores := rfl
@[simp] theorem State.newId_tellers (s : State) : (s.newId.2).tellers = s.tellers := rfl
@[simp] theorem State.newId_rounds (s : State) : (s.newId.2).rounds = s.rounds := rfl
@[simp] theorem State.newId_lateral (s : State) : (s.newId.2).lateral = s.lateral := rfl
@[simp] theorem State.newId_ownerNext (s : State) : (s.newId.2).ownerNext = s.ownerNext := rfl
@[simp] theorem State.newId_ctxsave (s : State) : (s.newId.2).ctxsave = s.ctxsave := rfl
@[simp] theorem State.newId_fabric (s : State) : (s.newId.2).fabric = s.fabric := rfl
@[simp] theorem State.newId_xlate (s : State) : (s.newId.2).xlate = s.xlate := rfl
@[simp] theorem State.newId_nq (s : State) : (s.newId.2).nq = s.nq := rfl
@[simp] theorem State.newId_fw (s : State) : (s.newId.2).fw = s.fw := rfl
@[simp] theorem State.newId_reliab (s : State) : (s.newId.2).reliab = s.reliab := rfl
@[simp] theorem State.newId_dbg (s : State) : (s.newId.2).dbg = s.dbg := rfl

/-! emit. -/

@[simp] theorem State.emit_chip (s : State) (o : Output) : (s.emit o).chip = s.chip := rfl
@[simp] theorem State.emit_agenda (s : State) (o : Output) : (s.emit o).agenda = s.agenda := rfl
@[simp] theorem State.emit_fresh (s : State) (o : Output) : (s.emit o).fresh = s.fresh := rfl
@[simp] theorem State.emit_cur (s : State) (o : Output) : (s.emit o).cur = s.cur := rfl
@[simp] theorem State.emit_nextId (s : State) (o : Output) : (s.emit o).nextId = s.nextId := rfl
@[simp] theorem State.emit_out (s : State) (o : Output) : (s.emit o).out = o :: s.out := rfl
@[simp] theorem State.emit_power (s : State) (o : Output) : (s.emit o).power = s.power := rfl
@[simp] theorem State.emit_flash (s : State) (o : Output) : (s.emit o).flash = s.flash := rfl
@[simp] theorem State.emit_cores (s : State) (o : Output) : (s.emit o).cores = s.cores := rfl
@[simp] theorem State.emit_mem (s : State) (o : Output) : (s.emit o).mem = s.mem := rfl
@[simp] theorem State.emit_queues (s : State) (o : Output) : (s.emit o).queues = s.queues := rfl
@[simp] theorem State.emit_launches (s : State) (o : Output) : (s.emit o).launches = s.launches := rfl
@[simp] theorem State.emit_saved (s : State) (o : Output) : (s.emit o).saved = s.saved := rfl
@[simp] theorem State.emit_marks (s : State) (o : Output) : (s.emit o).marks = s.marks := rfl
@[simp] theorem State.emit_busyCores (s : State) (o : Output) : (s.emit o).busyCores = s.busyCores := rfl
@[simp] theorem State.emit_tellers (s : State) (o : Output) : (s.emit o).tellers = s.tellers := rfl
@[simp] theorem State.emit_rounds (s : State) (o : Output) : (s.emit o).rounds = s.rounds := rfl
@[simp] theorem State.emit_lateral (s : State) (o : Output) : (s.emit o).lateral = s.lateral := rfl
@[simp] theorem State.emit_ownerNext (s : State) (o : Output) : (s.emit o).ownerNext = s.ownerNext := rfl
@[simp] theorem State.emit_ctxsave (s : State) (o : Output) : (s.emit o).ctxsave = s.ctxsave := rfl
@[simp] theorem State.emit_fabric (s : State) (o : Output) : (s.emit o).fabric = s.fabric := rfl
@[simp] theorem State.emit_xlate (s : State) (o : Output) : (s.emit o).xlate = s.xlate := rfl
@[simp] theorem State.emit_nq (s : State) (o : Output) : (s.emit o).nq = s.nq := rfl
@[simp] theorem State.emit_fw (s : State) (o : Output) : (s.emit o).fw = s.fw := rfl
@[simp] theorem State.emit_reliab (s : State) (o : Output) : (s.emit o).reliab = s.reliab := rfl
@[simp] theorem State.emit_dbg (s : State) (o : Output) : (s.emit o).dbg = s.dbg := rfl

/-! updLaunch. -/

@[simp] theorem State.updLaunch_chip (s : State) (id : Nat) (f : Launch → Launch) : (s.updLaunch id f).chip = s.chip := rfl
@[simp] theorem State.updLaunch_agenda (s : State) (id : Nat) (f : Launch → Launch) : (s.updLaunch id f).agenda = s.agenda := rfl
@[simp] theorem State.updLaunch_fresh (s : State) (id : Nat) (f : Launch → Launch) : (s.updLaunch id f).fresh = s.fresh := rfl
@[simp] theorem State.updLaunch_cur (s : State) (id : Nat) (f : Launch → Launch) : (s.updLaunch id f).cur = s.cur := rfl
@[simp] theorem State.updLaunch_nextId (s : State) (id : Nat) (f : Launch → Launch) : (s.updLaunch id f).nextId = s.nextId := rfl
@[simp] theorem State.updLaunch_out (s : State) (id : Nat) (f : Launch → Launch) : (s.updLaunch id f).out = s.out := rfl
@[simp] theorem State.updLaunch_power (s : State) (id : Nat) (f : Launch → Launch) : (s.updLaunch id f).power = s.power := rfl
@[simp] theorem State.updLaunch_flash (s : State) (id : Nat) (f : Launch → Launch) : (s.updLaunch id f).flash = s.flash := rfl
@[simp] theorem State.updLaunch_cores (s : State) (id : Nat) (f : Launch → Launch) : (s.updLaunch id f).cores = s.cores := rfl
@[simp] theorem State.updLaunch_mem (s : State) (id : Nat) (f : Launch → Launch) : (s.updLaunch id f).mem = s.mem := rfl
@[simp] theorem State.updLaunch_queues (s : State) (id : Nat) (f : Launch → Launch) : (s.updLaunch id f).queues = s.queues := rfl
@[simp] theorem State.updLaunch_launches (s : State) (id : Nat) (f : Launch → Launch) : (s.updLaunch id f).launches = s.launches.map fun l => if l.id = id then f l else l := rfl
@[simp] theorem State.updLaunch_saved (s : State) (id : Nat) (f : Launch → Launch) : (s.updLaunch id f).saved = s.saved := rfl
@[simp] theorem State.updLaunch_marks (s : State) (id : Nat) (f : Launch → Launch) : (s.updLaunch id f).marks = s.marks := rfl
@[simp] theorem State.updLaunch_busyCores (s : State) (id : Nat) (f : Launch → Launch) : (s.updLaunch id f).busyCores = s.busyCores := rfl
@[simp] theorem State.updLaunch_tellers (s : State) (id : Nat) (f : Launch → Launch) : (s.updLaunch id f).tellers = s.tellers := rfl
@[simp] theorem State.updLaunch_rounds (s : State) (id : Nat) (f : Launch → Launch) : (s.updLaunch id f).rounds = s.rounds := rfl
@[simp] theorem State.updLaunch_lateral (s : State) (id : Nat) (f : Launch → Launch) : (s.updLaunch id f).lateral = s.lateral := rfl
@[simp] theorem State.updLaunch_ownerNext (s : State) (id : Nat) (f : Launch → Launch) : (s.updLaunch id f).ownerNext = s.ownerNext := rfl
@[simp] theorem State.updLaunch_ctxsave (s : State) (id : Nat) (f : Launch → Launch) : (s.updLaunch id f).ctxsave = s.ctxsave := rfl
@[simp] theorem State.updLaunch_fabric (s : State) (id : Nat) (f : Launch → Launch) : (s.updLaunch id f).fabric = s.fabric := rfl
@[simp] theorem State.updLaunch_xlate (s : State) (id : Nat) (f : Launch → Launch) : (s.updLaunch id f).xlate = s.xlate := rfl
@[simp] theorem State.updLaunch_nq (s : State) (id : Nat) (f : Launch → Launch) : (s.updLaunch id f).nq = s.nq := rfl
@[simp] theorem State.updLaunch_fw (s : State) (id : Nat) (f : Launch → Launch) : (s.updLaunch id f).fw = s.fw := rfl
@[simp] theorem State.updLaunch_reliab (s : State) (id : Nat) (f : Launch → Launch) : (s.updLaunch id f).reliab = s.reliab := rfl
@[simp] theorem State.updLaunch_dbg (s : State) (id : Nat) (f : Launch → Launch) : (s.updLaunch id f).dbg = s.dbg := rfl

/-! updQueue. -/

@[simp] theorem State.updQueue_chip (s : State) (q : Nat) (f : Queue → Queue) : (s.updQueue q f).chip = s.chip := rfl
@[simp] theorem State.updQueue_agenda (s : State) (q : Nat) (f : Queue → Queue) : (s.updQueue q f).agenda = s.agenda := rfl
@[simp] theorem State.updQueue_fresh (s : State) (q : Nat) (f : Queue → Queue) : (s.updQueue q f).fresh = s.fresh := rfl
@[simp] theorem State.updQueue_cur (s : State) (q : Nat) (f : Queue → Queue) : (s.updQueue q f).cur = s.cur := rfl
@[simp] theorem State.updQueue_nextId (s : State) (q : Nat) (f : Queue → Queue) : (s.updQueue q f).nextId = s.nextId := rfl
@[simp] theorem State.updQueue_out (s : State) (q : Nat) (f : Queue → Queue) : (s.updQueue q f).out = s.out := rfl
@[simp] theorem State.updQueue_power (s : State) (q : Nat) (f : Queue → Queue) : (s.updQueue q f).power = s.power := rfl
@[simp] theorem State.updQueue_flash (s : State) (q : Nat) (f : Queue → Queue) : (s.updQueue q f).flash = s.flash := rfl
@[simp] theorem State.updQueue_cores (s : State) (q : Nat) (f : Queue → Queue) : (s.updQueue q f).cores = s.cores := rfl
@[simp] theorem State.updQueue_mem (s : State) (q : Nat) (f : Queue → Queue) : (s.updQueue q f).mem = s.mem := rfl
@[simp] theorem State.updQueue_queues (s : State) (q : Nat) (f : Queue → Queue) : (s.updQueue q f).queues = setAt s.queues q (f (s.queue q)) := rfl
@[simp] theorem State.updQueue_launches (s : State) (q : Nat) (f : Queue → Queue) : (s.updQueue q f).launches = s.launches := rfl
@[simp] theorem State.updQueue_saved (s : State) (q : Nat) (f : Queue → Queue) : (s.updQueue q f).saved = s.saved := rfl
@[simp] theorem State.updQueue_marks (s : State) (q : Nat) (f : Queue → Queue) : (s.updQueue q f).marks = s.marks := rfl
@[simp] theorem State.updQueue_busyCores (s : State) (q : Nat) (f : Queue → Queue) : (s.updQueue q f).busyCores = s.busyCores := rfl
@[simp] theorem State.updQueue_tellers (s : State) (q : Nat) (f : Queue → Queue) : (s.updQueue q f).tellers = s.tellers := rfl
@[simp] theorem State.updQueue_rounds (s : State) (q : Nat) (f : Queue → Queue) : (s.updQueue q f).rounds = s.rounds := rfl
@[simp] theorem State.updQueue_lateral (s : State) (q : Nat) (f : Queue → Queue) : (s.updQueue q f).lateral = s.lateral := rfl
@[simp] theorem State.updQueue_ownerNext (s : State) (q : Nat) (f : Queue → Queue) : (s.updQueue q f).ownerNext = s.ownerNext := rfl
@[simp] theorem State.updQueue_ctxsave (s : State) (q : Nat) (f : Queue → Queue) : (s.updQueue q f).ctxsave = s.ctxsave := rfl
@[simp] theorem State.updQueue_fabric (s : State) (q : Nat) (f : Queue → Queue) : (s.updQueue q f).fabric = s.fabric := rfl
@[simp] theorem State.updQueue_xlate (s : State) (q : Nat) (f : Queue → Queue) : (s.updQueue q f).xlate = s.xlate := rfl
@[simp] theorem State.updQueue_nq (s : State) (q : Nat) (f : Queue → Queue) : (s.updQueue q f).nq = s.nq := rfl
@[simp] theorem State.updQueue_fw (s : State) (q : Nat) (f : Queue → Queue) : (s.updQueue q f).fw = s.fw := rfl
@[simp] theorem State.updQueue_reliab (s : State) (q : Nat) (f : Queue → Queue) : (s.updQueue q f).reliab = s.reliab := rfl
@[simp] theorem State.updQueue_dbg (s : State) (q : Nat) (f : Queue → Queue) : (s.updQueue q f).dbg = s.dbg := rfl

/-! The tellers' event queue: an event that enters it changes the queue, the agenda and the count of free values drawn, and nothing
else. -/

theorem State.takeEvent_form (s : State) (i : Instr) (idle : Bool) :
    ∃ q a k, s.takeEvent i idle = { s with tellers := q, agenda := a, fresh := k } := by
  unfold State.takeEvent
  dsimp only [State.planWithin, State.drawBelow, State.draw, State.plan]
  repeat' split
  all_goals exact ⟨_, _, _, rfl⟩

theorem State.serve_form (s : State) (idle : Bool) :
    ∃ q a k, s.serve idle = { s with tellers := q, agenda := a, fresh := k } := by
  unfold State.serve
  dsimp only
  split
  · exact ⟨_, _, _, rfl⟩
  · split
    · exact ⟨_, _, _, rfl⟩
    · obtain ⟨q, a, k, h⟩ := State.takeEvent_form { s with tellers := _ } _ idle
      exact ⟨q, a, k, h⟩

theorem State.post_form (s : State) (i : Instr) : ∃ q a k, s.post i = { s with tellers := q, agenda := a, fresh := k } := by
  unfold State.post
  dsimp only
  split
  · exact ⟨_, _, _, rfl⟩
  · split
    · exact ⟨_, _, _, rfl⟩
    · obtain ⟨q, a, k, h⟩ := State.serve_form { s with tellers := _ } true
      exact ⟨q, a, k, h⟩

theorem State.handled_form (s : State) (i : Instr) : ∃ q a k, s.handled i = { s with tellers := q, agenda := a, fresh := k } := by
  unfold State.handled
  split
  · obtain ⟨q, a, k, h⟩ := State.serve_form { s with tellers := _ } false
    exact ⟨q, a, k, h⟩
  · exact ⟨_, _, _, rfl⟩

@[simp] theorem State.post_chip (s : State) (i : Instr) : (s.post i).chip = s.chip := by
  obtain ⟨_, _, _, h⟩ := s.post_form i; rw [h]
@[simp] theorem State.post_cur (s : State) (i : Instr) : (s.post i).cur = s.cur := by
  obtain ⟨_, _, _, h⟩ := s.post_form i; rw [h]
@[simp] theorem State.post_nextId (s : State) (i : Instr) : (s.post i).nextId = s.nextId := by
  obtain ⟨_, _, _, h⟩ := s.post_form i; rw [h]
@[simp] theorem State.post_out (s : State) (i : Instr) : (s.post i).out = s.out := by
  obtain ⟨_, _, _, h⟩ := s.post_form i; rw [h]
@[simp] theorem State.post_power (s : State) (i : Instr) : (s.post i).power = s.power := by
  obtain ⟨_, _, _, h⟩ := s.post_form i; rw [h]
@[simp] theorem State.post_flash (s : State) (i : Instr) : (s.post i).flash = s.flash := by
  obtain ⟨_, _, _, h⟩ := s.post_form i; rw [h]
@[simp] theorem State.post_cores (s : State) (i : Instr) : (s.post i).cores = s.cores := by
  obtain ⟨_, _, _, h⟩ := s.post_form i; rw [h]
@[simp] theorem State.post_mem (s : State) (i : Instr) : (s.post i).mem = s.mem := by
  obtain ⟨_, _, _, h⟩ := s.post_form i; rw [h]
@[simp] theorem State.post_queues (s : State) (i : Instr) : (s.post i).queues = s.queues := by
  obtain ⟨_, _, _, h⟩ := s.post_form i; rw [h]
@[simp] theorem State.post_launches (s : State) (i : Instr) : (s.post i).launches = s.launches := by
  obtain ⟨_, _, _, h⟩ := s.post_form i; rw [h]
@[simp] theorem State.post_saved (s : State) (i : Instr) : (s.post i).saved = s.saved := by
  obtain ⟨_, _, _, h⟩ := s.post_form i; rw [h]
@[simp] theorem State.post_marks (s : State) (i : Instr) : (s.post i).marks = s.marks := by
  obtain ⟨_, _, _, h⟩ := s.post_form i; rw [h]
@[simp] theorem State.post_busyCores (s : State) (i : Instr) : (s.post i).busyCores = s.busyCores := by
  obtain ⟨_, _, _, h⟩ := s.post_form i; rw [h]
@[simp] theorem State.post_rounds (s : State) (i : Instr) : (s.post i).rounds = s.rounds := by
  obtain ⟨_, _, _, h⟩ := s.post_form i; rw [h]
@[simp] theorem State.post_lateral (s : State) (i : Instr) : (s.post i).lateral = s.lateral := by
  obtain ⟨_, _, _, h⟩ := s.post_form i; rw [h]
@[simp] theorem State.post_ownerNext (s : State) (i : Instr) : (s.post i).ownerNext = s.ownerNext := by
  obtain ⟨_, _, _, h⟩ := s.post_form i; rw [h]
@[simp] theorem State.post_ctxsave (s : State) (i : Instr) : (s.post i).ctxsave = s.ctxsave := by
  obtain ⟨_, _, _, h⟩ := s.post_form i; rw [h]
@[simp] theorem State.post_fabric (s : State) (i : Instr) : (s.post i).fabric = s.fabric := by
  obtain ⟨_, _, _, h⟩ := s.post_form i; rw [h]
@[simp] theorem State.post_xlate (s : State) (i : Instr) : (s.post i).xlate = s.xlate := by
  obtain ⟨_, _, _, h⟩ := s.post_form i; rw [h]
@[simp] theorem State.post_nq (s : State) (i : Instr) : (s.post i).nq = s.nq := by
  obtain ⟨_, _, _, h⟩ := s.post_form i; rw [h]
@[simp] theorem State.post_fw (s : State) (i : Instr) : (s.post i).fw = s.fw := by
  obtain ⟨_, _, _, h⟩ := s.post_form i; rw [h]
@[simp] theorem State.post_reliab (s : State) (i : Instr) : (s.post i).reliab = s.reliab := by
  obtain ⟨_, _, _, h⟩ := s.post_form i; rw [h]
@[simp] theorem State.post_dbg (s : State) (i : Instr) : (s.post i).dbg = s.dbg := by
  obtain ⟨_, _, _, h⟩ := s.post_form i; rw [h]

@[simp] theorem State.handled_chip (s : State) (i : Instr) : (s.handled i).chip = s.chip := by
  obtain ⟨_, _, _, h⟩ := s.handled_form i; rw [h]
@[simp] theorem State.handled_cur (s : State) (i : Instr) : (s.handled i).cur = s.cur := by
  obtain ⟨_, _, _, h⟩ := s.handled_form i; rw [h]
@[simp] theorem State.handled_nextId (s : State) (i : Instr) : (s.handled i).nextId = s.nextId := by
  obtain ⟨_, _, _, h⟩ := s.handled_form i; rw [h]
@[simp] theorem State.handled_out (s : State) (i : Instr) : (s.handled i).out = s.out := by
  obtain ⟨_, _, _, h⟩ := s.handled_form i; rw [h]
@[simp] theorem State.handled_power (s : State) (i : Instr) : (s.handled i).power = s.power := by
  obtain ⟨_, _, _, h⟩ := s.handled_form i; rw [h]
@[simp] theorem State.handled_flash (s : State) (i : Instr) : (s.handled i).flash = s.flash := by
  obtain ⟨_, _, _, h⟩ := s.handled_form i; rw [h]
@[simp] theorem State.handled_cores (s : State) (i : Instr) : (s.handled i).cores = s.cores := by
  obtain ⟨_, _, _, h⟩ := s.handled_form i; rw [h]
@[simp] theorem State.handled_mem (s : State) (i : Instr) : (s.handled i).mem = s.mem := by
  obtain ⟨_, _, _, h⟩ := s.handled_form i; rw [h]
@[simp] theorem State.handled_queues (s : State) (i : Instr) : (s.handled i).queues = s.queues := by
  obtain ⟨_, _, _, h⟩ := s.handled_form i; rw [h]
@[simp] theorem State.handled_launches (s : State) (i : Instr) : (s.handled i).launches = s.launches := by
  obtain ⟨_, _, _, h⟩ := s.handled_form i; rw [h]
@[simp] theorem State.handled_saved (s : State) (i : Instr) : (s.handled i).saved = s.saved := by
  obtain ⟨_, _, _, h⟩ := s.handled_form i; rw [h]
@[simp] theorem State.handled_marks (s : State) (i : Instr) : (s.handled i).marks = s.marks := by
  obtain ⟨_, _, _, h⟩ := s.handled_form i; rw [h]
@[simp] theorem State.handled_busyCores (s : State) (i : Instr) : (s.handled i).busyCores = s.busyCores := by
  obtain ⟨_, _, _, h⟩ := s.handled_form i; rw [h]
@[simp] theorem State.handled_rounds (s : State) (i : Instr) : (s.handled i).rounds = s.rounds := by
  obtain ⟨_, _, _, h⟩ := s.handled_form i; rw [h]
@[simp] theorem State.handled_lateral (s : State) (i : Instr) : (s.handled i).lateral = s.lateral := by
  obtain ⟨_, _, _, h⟩ := s.handled_form i; rw [h]
@[simp] theorem State.handled_ownerNext (s : State) (i : Instr) : (s.handled i).ownerNext = s.ownerNext := by
  obtain ⟨_, _, _, h⟩ := s.handled_form i; rw [h]
@[simp] theorem State.handled_ctxsave (s : State) (i : Instr) : (s.handled i).ctxsave = s.ctxsave := by
  obtain ⟨_, _, _, h⟩ := s.handled_form i; rw [h]
@[simp] theorem State.handled_fabric (s : State) (i : Instr) : (s.handled i).fabric = s.fabric := by
  obtain ⟨_, _, _, h⟩ := s.handled_form i; rw [h]
@[simp] theorem State.handled_xlate (s : State) (i : Instr) : (s.handled i).xlate = s.xlate := by
  obtain ⟨_, _, _, h⟩ := s.handled_form i; rw [h]
@[simp] theorem State.handled_nq (s : State) (i : Instr) : (s.handled i).nq = s.nq := by
  obtain ⟨_, _, _, h⟩ := s.handled_form i; rw [h]
@[simp] theorem State.handled_fw (s : State) (i : Instr) : (s.handled i).fw = s.fw := by
  obtain ⟨_, _, _, h⟩ := s.handled_form i; rw [h]
@[simp] theorem State.handled_reliab (s : State) (i : Instr) : (s.handled i).reliab = s.reliab := by
  obtain ⟨_, _, _, h⟩ := s.handled_form i; rw [h]
@[simp] theorem State.handled_dbg (s : State) (i : Instr) : (s.handled i).dbg = s.dbg := by
  obtain ⟨_, _, _, h⟩ := s.handled_form i; rw [h]

/-! A pending item of a core. -/

@[simp] theorem Core.push_mode (c : Core) (n src : Nat) (a : Act) : (c.push n src a).mode = c.mode := rfl
@[simp] theorem Core.push_launch (c : Core) (n src : Nat) (a : Act) : (c.push n src a).launch = c.launch := rfl
@[simp] theorem Core.push_pc (c : Core) (n src : Nat) (a : Act) : (c.push n src a).pc = c.pc := rfl
@[simp] theorem Core.push_npc (c : Core) (n src : Nat) (a : Act) : (c.push n src a).npc = c.npc := rfl
@[simp] theorem Core.push_loops (c : Core) (n src : Nat) (a : Act) : (c.push n src a).loops = c.loops := rfl
@[simp] theorem Core.push_rets (c : Core) (n src : Nat) (a : Act) : (c.push n src a).rets = c.rets := rfl
@[simp] theorem Core.push_xfer (c : Core) (n src : Nat) (a : Act) : (c.push n src a).xfer = c.xfer := rfl
@[simp] theorem Core.push_rep (c : Core) (n src : Nat) (a : Act) : (c.push n src a).rep = c.rep := rfl
@[simp] theorem Core.push_rdvVal (c : Core) (n src : Nat) (a : Act) : (c.push n src a).rdvVal = c.rdvVal := rfl
@[simp] theorem Core.push_sched (c : Core) (n src : Nat) (a : Act) : (c.push n src a).sched = c.sched := rfl
@[simp] theorem Core.push_lag (c : Core) (n src : Nat) (a : Act) : (c.push n src a).lag = c.lag := rfl
@[simp] theorem Core.push_allow (c : Core) (n src : Nat) (a : Act) : (c.push n src a).allow = c.allow := rfl
@[simp] theorem Core.push_allowDue (c : Core) (n src : Nat) (a : Act) : (c.push n src a).allowDue = c.allowDue := rfl
@[simp] theorem Core.push_slack (c : Core) (n src : Nat) (a : Act) : (c.push n src a).slack = c.slack := rfl
@[simp] theorem Core.push_seq (c : Core) (n src : Nat) (a : Act) : (c.push n src a).seq = c.seq + 1 := rfl
@[simp] theorem Core.push_scalars (c : Core) (n src : Nat) (a : Act) : (c.push n src a).scalars = c.scalars := rfl
@[simp] theorem Core.push_preds (c : Core) (n src : Nat) (a : Act) : (c.push n src a).preds = c.preds := rfl
@[simp] theorem Core.push_plies (c : Core) (n src : Nat) (a : Act) : (c.push n src a).plies = c.plies := rfl
@[simp] theorem Core.push_flagFile (c : Core) (n src : Nat) (a : Act) : (c.push n src a).flagFile = c.flagFile := rfl
@[simp] theorem Core.push_ctrl (c : Core) (n src : Nat) (a : Act) : (c.push n src a).ctrl = c.ctrl := rfl
@[simp] theorem Core.push_engQ (c : Core) (n src : Nat) (a : Act) : (c.push n src a).engQ = c.engQ := rfl
@[simp] theorem Core.push_corQ (c : Core) (n src : Nat) (a : Act) : (c.push n src a).corQ = c.corQ := rfl
@[simp] theorem Core.push_ackc (c : Core) (n src : Nat) (a : Act) : (c.push n src a).ackc = c.ackc := rfl
@[simp] theorem Core.push_corrcnt (c : Core) (n src : Nat) (a : Act) : (c.push n src a).corrcnt = c.corrcnt := rfl
@[simp] theorem Core.push_trappc (c : Core) (n src : Nat) (a : Act) : (c.push n src a).trappc = c.trappc := rfl
@[simp] theorem Core.push_trapcause (c : Core) (n src : Nat) (a : Act) : (c.push n src a).trapcause = c.trapcause := rfl
@[simp] theorem Core.push_flags (c : Core) (n src : Nat) (a : Act) : (c.push n src a).flags = c.flags := rfl
@[simp] theorem Core.push_codebook (c : Core) (n src : Nat) (a : Act) : (c.push n src a).codebook = c.codebook := rfl
@[simp] theorem Core.push_code (c : Core) (n src : Nat) (a : Act) : (c.push n src a).code = c.code := rfl
@[simp] theorem Core.push_codeLen (c : Core) (n src : Nat) (a : Act) : (c.push n src a).codeLen = c.codeLen := rfl
@[simp] theorem Core.push_dict (c : Core) (n src : Nat) (a : Act) : (c.push n src a).dict = c.dict := rfl
@[simp] theorem Core.push_dictValid (c : Core) (n src : Nat) (a : Act) : (c.push n src a).dictValid = c.dictValid := rfl
@[simp] theorem Core.push_codeBad (c : Core) (n src : Nat) (a : Act) : (c.push n src a).codeBad = c.codeBad := rfl
@[simp] theorem Core.push_dictBad (c : Core) (n src : Nat) (a : Act) : (c.push n src a).dictBad = c.dictBad := rfl
@[simp] theorem Core.push_vault (c : Core) (n src : Nat) (a : Act) : (c.push n src a).vault = c.vault := rfl
@[simp] theorem Core.push_items (c : Core) (n src : Nat) (a : Act) : (c.push n src a).items = c.items ++ [⟨c.sched + n, src, c.sched, c.seq, a⟩] := rfl
@[simp] theorem Core.push_causes (c : Core) (n src : Nat) (a : Act) : (c.push n src a).causes = c.causes := rfl
@[simp] theorem Core.push_globals (c : Core) (n src : Nat) (a : Act) : (c.push n src a).globals = c.globals := rfl
@[simp] theorem Core.push_holds (c : Core) (n src : Nat) (a : Act) : (c.push n src a).holds = c.holds := rfl
@[simp] theorem Core.push_late (c : Core) (n src : Nat) (a : Act) : (c.push n src a).late = c.late := rfl
@[simp] theorem Core.push_flagWait (c : Core) (n src : Nat) (a : Act) : (c.push n src a).flagWait = c.flagWait := rfl
@[simp] theorem Core.push_rdvWait (c : Core) (n src : Nat) (a : Act) : (c.push n src a).rdvWait = c.rdvWait := rfl
@[simp] theorem Core.push_episode (c : Core) (n src : Nat) (a : Act) : (c.push n src a).episode = c.episode := rfl
@[simp] theorem Core.push_tlb (c : Core) (n src : Nat) (a : Act) : (c.push n src a).tlb = c.tlb := rfl
@[simp] theorem Core.push_addrTab (c : Core) (n src : Nat) (a : Act) : (c.push n src a).addrTab = c.addrTab := rfl
@[simp] theorem Core.push_recs (c : Core) (n src : Nat) (a : Act) : (c.push n src a).recs = c.recs := rfl
@[simp] theorem Core.push_rels (c : Core) (n src : Nat) (a : Act) : (c.push n src a).rels = c.rels := rfl
@[simp] theorem Core.push_held (c : Core) (n src : Nat) (a : Act) : (c.push n src a).held = c.held := rfl
@[simp] theorem Core.push_poison (c : Core) (n src : Nat) (a : Act) : (c.push n src a).poison = c.poison := rfl
@[simp] theorem Core.push_v0Busy (c : Core) (n src : Nat) (a : Act) : (c.push n src a).v0Busy = c.v0Busy := rfl
@[simp] theorem Core.push_v1Busy (c : Core) (n src : Nat) (a : Act) : (c.push n src a).v1Busy = c.v1Busy := rfl
@[simp] theorem Core.push_array (c : Core) (n src : Nat) (a : Act) : (c.push n src a).array = c.array := rfl
@[simp] theorem Core.push_engines (c : Core) (n src : Nat) (a : Act) : (c.push n src a).engines = c.engines := rfl
@[simp] theorem Core.push_engBanks (c : Core) (n src : Nat) (a : Act) : (c.push n src a).engBanks = c.engBanks := rfl
@[simp] theorem Core.push_record (c : Core) (n src : Nat) (a : Act) : (c.push n src a).record = c.record := rfl
@[simp] theorem Core.push_handler (c : Core) (n src : Nat) (a : Act) : (c.push n src a).handler = c.handler := rfl
@[simp] theorem Core.push_done (c : Core) (n src : Nat) (a : Act) : (c.push n src a).done = c.done := rfl
@[simp] theorem Core.push_resumePc (c : Core) (n src : Nat) (a : Act) : (c.push n src a).resumePc = c.resumePc := rfl
@[simp] theorem Core.push_lagCheck (c : Core) (n src : Nat) (a : Act) : (c.push n src a).lagCheck = c.lagCheck := rfl
@[simp] theorem Core.push_brkSkip (c : Core) (n src : Nat) (a : Act) : (c.push n src a).brkSkip = c.brkSkip := rfl
@[simp] theorem Core.push_atPoint (c : Core) (n src : Nat) (a : Act) : (c.push n src a).atPoint = c.atPoint := rfl
@[simp] theorem Core.push_atScan (c : Core) (n src : Nat) (a : Act) : (c.push n src a).atScan = c.atScan := rfl
@[simp] theorem Core.push_clean (c : Core) (n src : Nat) (a : Act) : (c.push n src a).clean = c.clean := rfl
@[simp] theorem Core.push_frzAt (c : Core) (n src : Nat) (a : Act) : (c.push n src a).frzAt = c.frzAt := rfl
@[simp] theorem Core.push_prevQueue (c : Core) (n src : Nat) (a : Act) : (c.push n src a).prevQueue = c.prevQueue := rfl
@[simp] theorem Core.push_vaultTag (c : Core) (n src : Nat) (a : Act) : (c.push n src a).vaultTag = c.vaultTag := rfl
@[simp] theorem Core.push_lineTags (c : Core) (n src : Nat) (a : Act) : (c.push n src a).lineTags = c.lineTags := rfl
@[simp] theorem Core.push_haltSched (c : Core) (n src : Nat) (a : Act) : (c.push n src a).haltSched = c.haltSched := rfl

end Sys2Proof.Machine
end

