-- ==== Sys2Proof/Laws/Store.lean ====
section
/-! SUPPORT. Sparse stores: read after write, and the canonical form under every memory operation. -/

namespace Sys2Proof.Machine

/-! Reads. -/

theorem Store.read_append {w : Nat} (m n : Store w) (k : Nat) :
    Store.read (m ++ n) k = if m.any (fun c => c.1 == k) then Store.read m k else Store.read n k := by
  induction m with
  | nil => simp
  | cons c r ih =>
    by_cases h : c.1 = k
    · simp [Store.read, h]
    · simp [Store.read, h, ih]

theorem Store.read_filter {w : Nat} (m : Store w) (p : Nat → Bool) (k : Nat) :
    Store.read (m.filter fun c => p c.1) k = if p k then Store.read m k else 0 := by
  induction m with
  | nil => simp [Store.read]
  | cons c r ih =>
    by_cases h : c.1 = k
    · subst h
      by_cases hp : p c.1 <;> simp [Store.read, hp, ih]
    · by_cases hp : p c.1 <;> simp [Store.read, hp, ih, h]

theorem Store.read_absent {w : Nat} (m : Store w) (k : Nat) (h : m.any (fun c => c.1 == k) = false) :
    Store.read m k = 0 := by
  induction m with
  | nil => rfl
  | cons c r ih =>
    simp at h
    simp [Store.read, h.1]
    exact ih (by simpa using h.2)

theorem Store.cells_zero {w : Nat} (a : Nat) (v : BitVec w) (r : List (BitVec w)) (h : v = 0) :
    Store.cells a (v :: r) = Store.cells (a + 1) r := by
  simp only [Store.cells]; rw [if_pos h]

theorem Store.cells_nonzero {w : Nat} (a : Nat) (v : BitVec w) (r : List (BitVec w)) (h : ¬v = 0) :
    Store.cells a (v :: r) = (a, v) :: Store.cells (a + 1) r := by
  simp only [Store.cells]; rw [if_neg h]

theorem Store.cells_mem {w : Nat} (vs : List (BitVec w)) (a : Nat) (c : Nat × BitVec w) (h : c ∈ Store.cells a vs) :
    a ≤ c.1 ∧ c.1 < a + vs.length ∧ c.2 ≠ 0 := by
  induction vs generalizing a with
  | nil => simp [Store.cells] at h
  | cons v r ih =>
    by_cases hv : v = 0
    · rw [Store.cells_zero _ _ _ hv] at h
      have := ih (a + 1) h
      simp only [List.length_cons]
      exact ⟨by omega, by omega, this.2.2⟩
    · rw [Store.cells_nonzero _ _ _ hv] at h
      rcases List.mem_cons.mp h with h | h
      · subst h; exact ⟨by simp, by simp, hv⟩
      · have := ih (a + 1) h
        simp only [List.length_cons]
        exact ⟨by omega, by omega, this.2.2⟩

theorem Store.read_cells {w : Nat} (vs : List (BitVec w)) (a k : Nat) :
    Store.read (Store.cells a vs) k = if a ≤ k then vs.getD (k - a) 0 else 0 := by
  induction vs generalizing a with
  | nil => simp [Store.cells, Store.read]
  | cons v r ih =>
    by_cases hk : a = k
    · subst hk
      by_cases hv : v = 0
      · rw [Store.cells_zero _ _ _ hv, ih]
        have n1 : ¬ a + 1 ≤ a := by omega
        simp [n1, hv]
      · rw [Store.cells_nonzero _ _ _ hv]
        simp [Store.read]
    · have e : Store.read (Store.cells a (v :: r)) k = Store.read (Store.cells (a + 1) r) k := by
        by_cases hv : v = 0
        · rw [Store.cells_zero _ _ _ hv]
        · rw [Store.cells_nonzero _ _ _ hv]; simp [Store.read, hk]
      rw [e, ih]
      by_cases h : a + 1 ≤ k
      · have h' : a ≤ k := by omega
        have e2 : k - a = (k - (a + 1)) + 1 := by omega
        simp [h, h', e2]
      · have h' : ¬ a ≤ k := by omega
        simp [h, h']

/-- A key inside the written range reads what was written. -/
theorem Store.read_put_in {w : Nat} (m : Store w) (a k : Nat) (vs : List (BitVec w)) (h : a ≤ k) (h' : k < a + vs.length) :
    Store.read (Store.put m a vs) k = vs.getD (k - a) 0 := by
  have e1 : (m.filter (fun c => decide (c.1 < a))).any (fun c => c.1 == k) = false := by
    simp; intro x b _ _; omega
  have f2 := Store.read_filter m (fun x => decide (a + vs.length ≤ x)) k
  have n2 : ¬ (a + vs.length ≤ k) := by omega
  simp only [n2, decide_false, Bool.false_eq_true, if_false] at f2
  simp only [Store.put]
  rw [List.append_assoc, Store.read_append, e1, Store.read_append, f2, Store.read_cells, if_pos h]
  simp only [Bool.false_eq_true, if_false]
  split
  · rfl
  · rename_i hn
    have := Store.read_absent (Store.cells a vs) k (by simpa only [Bool.not_eq_true] using hn)
    rw [Store.read_cells, if_pos h] at this
    exact this.symm

/-- A key outside the written range reads what it read before. -/
theorem Store.read_put_out {w : Nat} (m : Store w) (a k : Nat) (vs : List (BitVec w)) (h : k < a ∨ a + vs.length ≤ k) :
    Store.read (Store.put m a vs) k = Store.read m k := by
  have f1 := Store.read_filter m (fun x => decide (x < a)) k
  have f2 := Store.read_filter m (fun x => decide (a + vs.length ≤ x)) k
  have hc : (Store.cells a vs).any (fun c => c.1 == k) = false := by
    simp only [List.any_eq_false]
    intro c hc
    have := Store.cells_mem vs a c hc
    simp; omega
  simp only [Store.put]
  rw [List.append_assoc, Store.read_append, Store.read_append, hc, f1, f2]
  rcases h with h | h
  · have n2 : ¬ (a + vs.length ≤ k) := by omega
    simp only [h, n2, decide_true, decide_false, if_true, Bool.false_eq_true, if_false]
    split
    · rfl
    · rename_i hn
      have := Store.read_absent _ k (by simpa only [Bool.not_eq_true] using hn)
      rw [f1] at this; simpa [h] using this.symm
  · have n1 : ¬ k < a := by omega
    have e1 : (m.filter (fun c => decide (c.1 < a))).any (fun c => c.1 == k) = false := by
      simp; intro x b _ _; omega
    simp only [e1, h, decide_true, if_true, Bool.false_eq_true, if_false]

/-- Read after write at the same key. -/
@[simp] theorem Store.read_write_same {w : Nat} (m : Store w) (a : Nat) (v : BitVec w) :
    Store.read (Store.write m a v) a = v := by
  have := Store.read_put_in m a a [v] (by omega) (by simp)
  simpa [Store.write] using this

/-- A write leaves every other key alone. -/
theorem Store.read_write_other {w : Nat} (m : Store w) (a k : Nat) (v : BitVec w) (h : k ≠ a) :
    Store.read (Store.write m a v) k = Store.read m k :=
  Store.read_put_out m a k [v] (by simp; omega)

/-- Cleared keys read 0, all others as before. -/
theorem Store.read_clear {w : Nat} (m : Store w) (a n k : Nat) :
    Store.read (Store.clear m a n) k = if k < a ∨ a + n ≤ k then Store.read m k else 0 := by
  have := Store.read_filter m (fun x => decide (x < a) || decide (a + n ≤ x)) k
  simpa [Store.clear] using this

/-! The canonical form. -/

/-- The canonical form as a property of all pairs. -/
theorem Store.wf_iff {w : Nat} (m : Store w) :
    Store.wf m = true ↔ m.Pairwise (fun x y => x.1 < y.1) ∧ ∀ c ∈ m, c.2 ≠ 0 := by
  induction m with
  | nil => simp [Store.wf]
  | cons c r ih =>
    cases r with
    | nil => simp [Store.wf]
    | cons d r =>
      obtain ⟨a, v⟩ := c
      obtain ⟨b, u⟩ := d
      simp only [Store.wf, Bool.and_eq_true, ih, List.pairwise_cons, List.mem_cons, forall_eq_or_imp, bne_iff_ne, ne_eq,
        decide_eq_true_eq]
      constructor
      · rintro ⟨⟨hv, hab⟩, ⟨hb, hr⟩, hu, hz⟩
        exact ⟨⟨⟨hab, fun x hx => Nat.lt_trans hab (hb x hx)⟩, hb, hr⟩, hv, hu, hz⟩
      · rintro ⟨⟨⟨hab, _⟩, hb, hr⟩, hv, hu, hz⟩
        exact ⟨⟨hv, hab⟩, ⟨hb, hr⟩, hu, hz⟩

theorem Store.wf_filter {w : Nat} (m : Store w) (p : Nat × BitVec w → Bool) (h : Store.wf m = true) :
    Store.wf (m.filter p) = true := by
  rw [Store.wf_iff] at *
  exact ⟨h.1.filter p, fun c hc => h.2 c (List.mem_filter.mp hc).1⟩

theorem Store.wf_cells {w : Nat} (vs : List (BitVec w)) (a : Nat) : Store.wf (Store.cells a vs) = true := by
  rw [Store.wf_iff]
  refine ⟨?_, fun c hc => (Store.cells_mem vs a c hc).2.2⟩
  induction vs generalizing a with
  | nil => simp [Store.cells]
  | cons v r ih =>
    by_cases hv : v = 0
    · simp [Store.cells, hv, ih]
    · simp only [Store.cells, hv, if_false, List.pairwise_cons]
      refine ⟨fun c hc => ?_, ih (a + 1)⟩
      have := Store.cells_mem r (a + 1) c hc
      simp; omega

/-- Canonical stores over rising ranges join into a canonical store. -/
theorem Store.wf_append {w : Nat} (m n : Store w) (hm : Store.wf m = true) (hn : Store.wf n = true)
    (h : ∀ c ∈ m, ∀ d ∈ n, c.1 < d.1) : Store.wf (m ++ n) = true := by
  rw [Store.wf_iff] at *
  refine ⟨List.pairwise_append.mpr ⟨hm.1, hn.1, h⟩, fun c hc => ?_⟩
  rcases List.mem_append.mp hc with hc | hc
  · exact hm.2 c hc
  · exact hn.2 c hc

/-- Writing values keeps the canonical form. -/
theorem Store.wf_put {w : Nat} (m : Store w) (a : Nat) (vs : List (BitVec w)) (h : Store.wf m = true) :
    Store.wf (Store.put m a vs) = true := by
  simp only [Store.put]
  refine Store.wf_append _ _ (Store.wf_append _ _ (Store.wf_filter _ _ h) (Store.wf_cells vs a) ?_)
    (Store.wf_filter _ _ h) ?_
  · intro c hc d hd
    have h1 : c.1 < a := by simpa using (List.mem_filter.mp hc).2
    have h2 := Store.cells_mem vs a d hd
    omega
  · intro c hc d hd
    have h2 : a + vs.length ≤ d.1 := by simpa using (List.mem_filter.mp hd).2
    rcases List.mem_append.mp hc with hc | hc
    · have h1 : c.1 < a := by simpa using (List.mem_filter.mp hc).2
      omega
    · have h1 := Store.cells_mem vs a c hc
      omega

theorem Store.wf_write {w : Nat} (m : Store w) (a : Nat) (v : BitVec w) (h : Store.wf m = true) :
    Store.wf (Store.write m a v) = true := Store.wf_put m a [v] h

/-- Clearing keys keeps the canonical form. -/
theorem Store.wf_clear {w : Nat} (m : Store w) (a n : Nat) (h : Store.wf m = true) : Store.wf (Store.clear m a n) = true :=
  Store.wf_filter m _ h

/-- Copying keys keeps the canonical form. -/
theorem Store.wf_blit {w : Nat} (dst src : Store w) (a b n : Nat) (h : Store.wf dst = true) (h' : Store.wf src = true) :
    Store.wf (Store.blit dst src a b n) = true := by
  have key : Store.wf ((src.filter fun c => decide (a ≤ c.1) && decide (c.1 < a + n)).map
      (fun c => (c.1 - a + b, c.2))) = true := by
    have hf := Store.wf_filter src (fun c => decide (a ≤ c.1) && decide (c.1 < a + n)) h'
    rw [Store.wf_iff] at *
    refine ⟨?_, ?_⟩
    · refine List.Pairwise.map _ ?_ (List.Pairwise.and_mem.mp hf.1)
      rintro c d ⟨hc, hd, hcd⟩
      have h1 : a ≤ c.1 := by
        have := (List.mem_filter.mp hc).2
        simp at this; exact this.1
      simp; omega
    · intro c hc
      obtain ⟨d, hd, rfl⟩ := List.mem_map.mp hc
      exact hf.2 d hd
  simp only [Store.blit]
  refine Store.wf_append _ _ (Store.wf_append _ _ (Store.wf_filter _ _ h) key ?_) (Store.wf_filter _ _ h) ?_
  · intro c hc d hd
    have h1 : c.1 < b := by simpa using (List.mem_filter.mp hc).2
    obtain ⟨e, he, rfl⟩ := List.mem_map.mp hd
    simp; omega
  · intro c hc d hd
    have h2 : b + n ≤ d.1 := by simpa using (List.mem_filter.mp hd).2
    rcases List.mem_append.mp hc with hc | hc
    · have h1 : c.1 < b := by simpa using (List.mem_filter.mp hc).2
      omega
    · obtain ⟨e, he, rfl⟩ := List.mem_map.mp hc
      have := (List.mem_filter.mp he).2
      simp at this ⊢; omega

/-! Keyed lists. -/

theorem setAt_find_same {α : Type} (l : List (Nat × α)) (n : Nat) (a : α) :
    (setAt l n a).find? (fun p => p.1 == n) = some (n, a) := by
  induction l with
  | nil => simp [setAt]
  | cons p r ih =>
    obtain ⟨k, b⟩ := p
    simp only [setAt]
    split
    · simp
    · split
      · simp
      · rename_i h _
        simp [h, ih]

theorem setAt_find_other {α : Type} (l : List (Nat × α)) (n m : Nat) (a : α) (h : m ≠ n) :
    (setAt l n a).find? (fun p => p.1 == m) = l.find? fun p => p.1 == m := by
  induction l with
  | nil => simp [setAt, h.symm]
  | cons p r ih =>
    obtain ⟨k, b⟩ := p
    simp only [setAt]
    split
    · rename_i e; subst e
      simp [h.symm]
    · split
      · simp [h.symm]
      · simp only [List.find?_cons, ih]

/-- A replaced core is the one that is read. -/
@[simp] theorem State.core_setCore_same (s : State) (n : Nat) (c : Core) : (s.setCore n c).core n = c := by
  simp [State.core, setAt_find_same]

/-- Replacing a core leaves every other one. -/
theorem State.core_setCore_other (s : State) (n m : Nat) (c : Core) (h : m ≠ n) : (s.setCore n c).core m = s.core m := by
  simp [State.core, setAt_find_other _ _ _ _ h]

@[simp] theorem State.core_updCore_same (s : State) (n : Nat) (f : Core → Core) : (s.updCore n f).core n = f (s.core n) :=
  State.core_setCore_same s n _

theorem State.core_updCore_other (s : State) (n m : Nat) (f : Core → Core) (h : m ≠ n) :
    (s.updCore n f).core m = s.core m := State.core_setCore_other s n m _ h

@[simp] theorem State.curCore_onCur (s : State) (f : Core → Core) : (s.onCur f).curCore = f s.curCore :=
  State.core_updCore_same s s.cur f

theorem State.core_onCur_other (s : State) (m : Nat) (f : Core → Core) (h : m ≠ s.cur) : (s.onCur f).core m = s.core m :=
  State.core_updCore_other s s.cur m f h

@[simp] theorem State.core_plan (s : State) (k : Nat) (i : Instr) (n : Nat) : (s.plan k i).core n = s.core n := rfl

@[simp] theorem State.core_emit (s : State) (o : Output) (n : Nat) : (s.emit o).core n = s.core n := rfl

/-- A queue page that has been changed is the one that is read. -/
@[simp] theorem State.queue_updQueue_same (s : State) (q : Nat) (f : Queue → Queue) :
    (s.updQueue q f).queue q = f (s.queue q) := by
  simp [State.queue, setAt_find_same]

theorem State.queue_updQueue_other (s : State) (q p : Nat) (f : Queue → Queue) (h : p ≠ q) :
    (s.updQueue q f).queue p = s.queue p := by
  simp [State.queue, setAt_find_other _ _ _ _ h]

end Sys2Proof.Machine
end

