-- ==== Sys2Proof/Laws/Slots.lean ====
section
/-! SUPPORT. What a slot can do: the ways in which slotRun and vRun answer, and what a landing changes. -/

namespace Sys2Proof.Machine

/-- Everything that slotRun can answer. -/
theorem slotRun_cases (g : Guard) (checks : State → List Trap) (eff : State → State) (s : State) :
    (s.curCore.guard g = none ∧ slotRun g checks eff s = .next (s.trapHere .nonuniform))
    ∨ (s.curCore.guard g = some false ∧ slotRun g checks eff s = .next s)
    ∨ (s.curCore.guard g = some true ∧ checks s = [] ∧ slotRun g checks eff s = .next (eff s))
    ∨ (∃ t r, s.curCore.guard g = some true ∧ checks s = t :: r ∧ slotRun g checks eff s = .next (s.trapHere t)) := by
  simp only [slotRun]
  match hg : s.curCore.guard g with
  | none => exact .inl ⟨rfl, rfl⟩
  | some false => exact .inr (.inl ⟨rfl, rfl⟩)
  | some true =>
    match hc : checks s with
    | [] => exact .inr (.inr (.inl ⟨rfl, rfl, rfl⟩))
    | t :: r => exact .inr (.inr (.inr ⟨t, r, rfl, rfl, rfl⟩))

/-- A true guard without a failing check runs the effect. -/
theorem slotRun_runs (g : Guard) (checks : State → List Trap) (eff : State → State) (s : State)
    (hg : s.curCore.guard g = some true) (hc : checks s = []) : slotRun g checks eff s = .next (eff s) := by
  simp only [slotRun, hg, hc]

/-- A false guard does nothing. -/
theorem slotRun_off (g : Guard) (checks : State → List Trap) (eff : State → State) (s : State)
    (hg : s.curCore.guard g = some false) : slotRun g checks eff s = .next s := by
  simp only [slotRun, hg]

/-- A guard that is not uniform traps. -/
theorem slotRun_nonuniform (g : Guard) (checks : State → List Trap) (eff : State → State) (s : State)
    (hg : s.curCore.guard g = none) : slotRun g checks eff s = .next (s.trapHere .nonuniform) := by
  simp only [slotRun, hg]

/-- The first failing check traps. -/
theorem slotRun_traps (g : Guard) (checks : State → List Trap) (eff : State → State) (s : State) (t : Trap)
    (r : List Trap) (hg : s.curCore.guard g = some true) (hc : checks s = t :: r) :
    slotRun g checks eff s = .next (s.trapHere t) := by
  simp only [slotRun, hg, hc]

/-- The checks of a V form. -/
def vChecks (v : VArgs) (illegal : Core → Bool) (foot : Nat → List (Nat × Nat)) (c : Core) : List Trap :=
  check (illegal c) .illegal ++ check ((foot c.jord).any fun f => 2048 < f.1 + f.2) .plyRange
    ++ check (c.sched < c.vBusy v.port) .timing

/-- A V form with an active lane and no failing check runs its effect and occupies its slot. -/
theorem vRun_runs (v : VArgs) (illegal : Core → Bool) (foot : Nat → List (Nat × Nat)) (occ : Nat → Nat)
    (eff : Nat → LaneMask → Core → Core) (s : State) (hm : s.curCore.guardLanes v.port v.guard ≠ 0)
    (hc : vChecks v illegal foot s.curCore = []) :
    vRun v illegal foot occ eff s
      = .next (s.onCur fun c => (eff s.curCore.jord (s.curCore.guardLanes v.port v.guard) c).occupy v.port
          (occ s.curCore.jord)) := by
  simp only [vChecks] at hc
  simp only [vRun, hm, if_false, hc]

/-- A V form without an active lane does nothing. -/
theorem vRun_off (v : VArgs) (illegal : Core → Bool) (foot : Nat → List (Nat × Nat)) (occ : Nat → Nat)
    (eff : Nat → LaneMask → Core → Core) (s : State) (hm : s.curCore.guardLanes v.port v.guard = 0) :
    vRun v illegal foot occ eff s = .next s := by
  simp only [vRun, hm, if_true]

/-- The first failing check of a V form traps. -/
theorem vRun_traps (v : VArgs) (illegal : Core → Bool) (foot : Nat → List (Nat × Nat)) (occ : Nat → Nat)
    (eff : Nat → LaneMask → Core → Core) (s : State) (t : Trap) (r : List Trap)
    (hm : s.curCore.guardLanes v.port v.guard ≠ 0) (hc : vChecks v illegal foot s.curCore = t :: r) :
    vRun v illegal foot occ eff s = .next (s.trapHere t) := by
  simp only [vChecks] at hc
  simp only [vRun, hm, if_false, hc]

/-! Guards. -/

theorem guard_unguarded (c : Core) : c.guard ⟨0, false⟩ = some true := by
  have h : c.viewLanes ≠ 0 := by
    simp only [Core.viewLanes]
    split
    · decide
    · rename_i hne
      intro h0
      have hlt : (c.ctl 1 ||| c.ctl 2) % 256 < 256 := Nat.mod_lt _ (by decide)
      generalize (c.ctl 1 ||| c.ctl 2) % 256 = g at *
      have all : ∀ g : Fin 256, g.val ≠ 0 → groupLanes g.val ≠ 0 := by decide +kernel
      exact all ⟨g, hlt⟩ hne h0
  have e : c.pred 0 &&& c.viewLanes = c.viewLanes := by
    simp only [Core.pred, if_true, BitVec.allOnes_and]
  simp only [Core.guard, Core.uniform, e, if_neg h, if_true, Option.map_some, Bool.xor_false]

/-! Landings. -/

@[simp] theorem Core.landScalar_vault (c : Core) (r : Nat) (v : Word) : (c.landScalar r v).vault = c.vault := by
  simp only [Core.landScalar]; split <;> rfl

@[simp] theorem Core.landPred_vault (c : Core) (p : Nat) (m b : LaneMask) : (c.landPred p m b).vault = c.vault := by
  simp only [Core.landPred]; split <;> rfl

/-- No landing writes a vault. -/
theorem Core.land_vault (c : Core) (d : Dest) : (c.land d).vault = c.vault := by
  cases d <;> simp [Core.land] <;> rfl

/-- Reads of mapped registers change only the two queues. -/
theorem Core.readScalars_queues (c : Core) (rs : List Nat) :
    ∃ q k, (c.readScalars rs).2 = { c with engQ := q, corQ := k } := by
  simp only [Core.readScalars]
  split <;> split <;> exact ⟨_, _, rfl⟩

/-- Without a mapped register nothing is popped. -/
theorem Core.readScalars_unmapped (c : Core) (rs : List Nat) (h : ∀ r ∈ rs, c.mapped r = false) :
    c.readScalars rs = (rs.map c.scalar, c) := by
  have e : ¬ (rs.contains 63 && c.engMapped) = true := by
    intro hx
    simp at hx
    have := h 63 hx.1
    simp [Core.mapped, hx.2] at this
  have k : ¬ (rs.contains 62 && c.corMapped) = true := by
    intro hx
    simp at hx
    have := h 62 hx.1
    simp [Core.mapped, hx.2] at this
  simp only [Core.readScalars, e, k, if_false, Bool.false_eq_true]
  congr 1
  apply List.map_congr_left
  intro r hr
  have := h r hr
  simp [Core.mapped] at this
  simp
  split
  · rename_i hx; exact absurd hx.2 (by simpa using this.1 hx.1)
  · split
    · rename_i hx; exact absurd hx.2 (by simpa using this.2 hx.1)
    · rfl

end Sys2Proof.Machine
end

