-- ==== Sys2Proof/Laws/Forms.lean ====
section
/-! SUPPORT. Every slot's meaning in the shared forms: a run under the uniform view of its guard, or a run over its active lanes. -/

namespace Sys2Proof.Machine

/-- A slot with a uniform guard is one slotRun, whatever its checks and effect, but for a conv that 12 R217 makes ILLEGAL whatever its
guard. -/
theorem exec_isSlotRun (i : Instr) (g : Guard) (s : State) (h : uniformGuard i = some g) (hc : ∀ e, i = .convE e → s.convRs e = false) :
    ∃ checks eff, exec i s = slotRun g checks eff s := by
  cases i <;> simp only [uniformGuard, Option.some.injEq, reduceCtorEq] at h <;> subst h <;>
    simp only [exec, execBr, execBrs, execCall, execRet, execLoop, execSpool, execRep, execRdv, execSelv, execSetf,
      execWaitf, execPpt, execPptScan, execRelPkg, execRelSys, execRfence, execMovc, execRdc, execBrk, execEret,
      execHalt, execXAdd, execXSub, execXMul, execMulhu, execMulhs, execXAnd, execXOr, execXXor, execXShl, execXShr,
      execSar, execXMin, execXMax, execMinu, execMaxu, execCeq, execCne, execClt, execCltu, execCle, execCleu, execExt,
      execExts, execIns, execMovh, execRdi, execPopc, execClz, execLdV, execLdC, execLdD, execLdG, execStV, execStC,
      execStD, execStG, execLdsV, execLdsG, execChksV, execChksG, execLdply, execStply, execLdcb, execLdxV, execLdxG,
      execStxV, execStxG, execAtomAdd, execAtomSwap, execAtomAnd, execAtomOr, execAtomXor, execAtomMax, execAtomMin,
      execAtomCas, execZero, execPush, execShift, execAssayBeat, execDrain, execCopy, execTcopy, execTransp, execConvE,
      execGather, execScatter, execHget, execHput, execFput, execFget, execFatom, execMcred, xScalar, xCompare,
      loadVault, storeVault, loadGlobal, storeGlobal, specLoad, specCheck, loadScalar, storeScalar, atomic, engRun] <;> first
      | exact ⟨_, _, rfl⟩
      | (simp only [hc _ rfl, Bool.and_false, Bool.false_eq_true, if_false]; exact ⟨_, _, rfl⟩)

/-- A V slot is one vRun. -/
theorem exec_isVRun (i : Instr) (v : VArgs) (h : vArgs i = some v) (s : State) :
    ∃ illegal foot occ eff, exec i s = vRun v illegal foot occ eff s := by
  cases i <;> simp only [vArgs, Instr.vOp, Option.map_none, Option.map_some, Option.some.injEq, reduceCtorEq] at h <;> subst h <;>
    simp only [exec, execVfAdd, execVfSub, execVfMul, execVfFma, execVfDiv, execVfMin, execVfMax, execSqrt, execVfAbs,
      execVfNeg, execRcp, execRsqrt, execExp, execLog, execSin, execCos, execTanh, execSigmoid, execErf, execVfCmp,
      execVfSel, execCvt, execPand, execPor, execPxor, execPandn, execPorn, execPmov, execPerm, execRed, execXcopy,
      execJseed, execJset, execJget, execJgetD, execJdif, execJint, execFlgrd, execFlgclr, execViAdd, execViSub,
      execViMul, execViAddSat, execViSubSat, execViMulSat, execViMin, execViMax, execViAnd, execViOr, execViXor,
      execViAndn, execViShl, execViShr, execViCmp, execViSel, execViMov, execViAbs, execViNeg, execViMulh, intBinary,
      intUnary, predLogic, floatRun, jetRun, specialFn, floatBinary2] <;> first
      | exact ⟨_, _, _, _, rfl⟩
      | (split <;> exact ⟨_, _, _, _, rfl⟩)

end Sys2Proof.Machine
end

