-- ==== Sys2Proof/Laws/Frames.lean ====
section
/-! SUPPORT. What the shared operations leave unchanged: no register and no memory of a core changes when an item is pushed, a
slot is occupied, operands are read, a trap is taken or a handler returns. -/

namespace Sys2Proof.Machine

theorem Core.sameRegs_refl (c : Core) : Core.SameRegs c c := ⟨rfl, rfl, rfl, rfl, rfl, rfl, rfl, rfl, rfl, rfl, rfl⟩

theorem Core.sameRegs_trans (a b c : Core) (h : Core.SameRegs a b) (k : Core.SameRegs b c) : Core.SameRegs a c :=
  ⟨k.scalars.trans h.scalars, k.preds.trans h.preds, k.plies.trans h.plies, k.flagFile.trans h.flagFile, k.ctrl.trans h.ctrl,
    k.flags.trans h.flags, k.codebook.trans h.codebook, k.code.trans h.code, k.dict.trans h.dict, k.vault.trans h.vault,
    k.corrcnt.trans h.corrcnt⟩

theorem Core.sameRegs_push (c : Core) (n src : Nat) (a : Act) : Core.SameRegs c (c.push n src a) :=
  ⟨rfl, rfl, rfl, rfl, rfl, rfl, rfl, rfl, rfl, rfl, rfl⟩

theorem Core.sameRegs_occupy (c : Core) (port : Bool) (n : Nat) : Core.SameRegs c (c.occupy port n) := by
  cases port <;> exact ⟨rfl, rfl, rfl, rfl, rfl, rfl, rfl, rfl, rfl, rfl, rfl⟩

theorem Core.sameRegs_landFlagCodes (c : Core) (v : VArgs) (n k : Nat) (m : LaneMask) (codes : List (List Nat)) :
    Core.SameRegs c (c.landFlagCodes v n k m codes) := by
  unfold Core.landFlagCodes
  split
  · exact Core.sameRegs_refl c
  · exact Core.sameRegs_push _ _ _ _

theorem Core.sameRegs_readScalars (c : Core) (rs : List Nat) : Core.SameRegs c (c.readScalars rs).2 := by
  unfold Core.readScalars
  dsimp only
  split <;> split <;> exact ⟨rfl, rfl, rfl, rfl, rfl, rfl, rfl, rfl, rfl, rfl, rfl⟩

theorem Core.sameRegs_release (c : Core) (sys : Bool) : Core.SameRegs c (c.release sys) := by
  unfold Core.release
  split <;> exact ⟨rfl, rfl, rfl, rfl, rfl, rfl, rfl, rfl, rfl, rfl, rfl⟩

theorem Core.sameRegs_enterHandler (c : Core) (k : Cause) (vec : Nat) : Core.SameRegs c (c.enterHandler k vec) :=
  ⟨rfl, rfl, rfl, rfl, rfl, rfl, rfl, rfl, rfl, rfl, rfl⟩

theorem Core.sameRegs_holdForTellers (c : Core) (k : Cause) : Core.SameRegs c (c.holdForTellers k) := by
  unfold Core.holdForTellers
  cases c.record <;> exact ⟨rfl, rfl, rfl, rfl, rfl, rfl, rfl, rfl, rfl, rfl, rfl⟩

theorem Core.sameRegs_eret (c : Core) : Core.SameRegs c c.eret := by
  unfold Core.eret
  split <;> exact ⟨rfl, rfl, rfl, rfl, rfl, rfl, rfl, rfl, rfl, rfl, rfl⟩

/-- Any core after one core changed. -/
theorem State.core_updCore (s : State) (n m : Nat) (f : Core → Core) :
    (s.updCore n f).core m = if m = n then f (s.core n) else s.core m := by
  split
  · subst m; simp
  · rename_i h; exact State.core_updCore_other s n m f h

/-- An update that keeps one core's registers keeps those of all cores. -/
theorem State.sameRegs_updCore (s : State) (n m : Nat) (f : Core → Core) (h : Core.SameRegs (s.core n) (f (s.core n))) :
    Core.SameRegs (s.core m) ((s.updCore n f).core m) := by
  rw [State.core_updCore]
  split
  · subst m; exact h
  · exact Core.sameRegs_refl _

theorem State.planWithin_core (s : State) (d m : Nat) (i : Instr) : (s.planWithin d i).core m = s.core m := rfl
theorem State.planFree_core (s : State) (m : Nat) (i : Instr) : (s.planFree i).core m = s.core m := rfl
theorem State.post_core (s : State) (m : Nat) (i : Instr) : (s.post i).core m = s.core m := by
  simp only [State.core, State.post_cores]
theorem State.planWithin_mem (s : State) (d : Nat) (i : Instr) : (s.planWithin d i).mem = s.mem := rfl

/-- The three things that taking a trap can be: a debug stop, a handler's start, or a wait for the tellers. -/
theorem State.takeTrap_cases (s : State) (n : Nat) (k : Cause) :
    (k.cls = .break ∧ s.takeTrap n k = s.debugStop n 2 0)
    ∨ (∃ l, k.cls ≠ .break ∧ s.launchOf n = some l ∧ (s.core n).handler = false ∧ l.pkt.deleg.testBit k.cls.bit = true
        ∧ s.takeTrap n k = s.updCore n fun c => c.enterHandler k l.pkt.trapvec)
    ∨ (k.cls ≠ .break ∧ s.takeTrap n k = (s.updCore n fun c => c.holdForTellers k).post (.tellerTrapEvent n)) := by
  unfold State.takeTrap
  dsimp only
  split
  · rename_i h; exact .inl ⟨h, rfl⟩
  · rename_i h
    split
    · rename_i l hl
      split
      · rename_i hd
        have hd' : (s.core n).handler = false ∧ l.pkt.deleg.testBit k.cls.bit = true := by simpa using hd
        exact .inr (.inl ⟨l, h, hl, hd'.1, hd'.2, rfl⟩)
      · exact .inr (.inr ⟨h, rfl⟩)
    · exact .inr (.inr ⟨h, rfl⟩)

/-- A trap other than BREAK changes no register and no memory of any core. -/
theorem State.sameRegs_takeTrap (s : State) (n m : Nat) (k : Cause) (h : k.cls ≠ .break) :
    Core.SameRegs (s.core m) ((s.takeTrap n k).core m) ∧ (s.takeTrap n k).mem = s.mem := by
  rcases State.takeTrap_cases s n k with ⟨e, _⟩ | ⟨l, _, _, _, _, e⟩ | ⟨_, e⟩
  · exact absurd e h
  · rw [e]; exact ⟨State.sameRegs_updCore _ _ _ _ (Core.sameRegs_enterHandler _ _ _), rfl⟩
  · rw [e]
    exact ⟨by rw [State.post_core]; exact State.sameRegs_updCore _ _ _ _ (Core.sameRegs_holdForTellers _ _), by simp⟩

end Sys2Proof.Machine
end

