-- ==== Sys2Proof/Laws/Memory.lean ====
section
/-! SUPPORT. Every operation that writes a memory keeps its canonical form, and the memories after reset have it (log 2). -/

namespace Sys2Proof.Machine

/-! The memories outside the cores. -/

theorem Mem.wf_iff (m : Mem) :
    m.wf = true ↔ Store.wf m.hbm = true ∧ Store.wf m.tier = true ∧ Store.wf m.host = true := by
  simp [Mem.wf, and_assoc]

theorem Mem.wf_space (m : Mem) (loc : Nat) (h : m.wf = true) : Store.wf (m.space loc) = true := by
  rw [Mem.wf_iff] at h
  simp only [Mem.space]
  split
  · exact h.1
  · split
    · exact h.2.2
    · exact h.2.1

/-- Writing bytes to a space for an owner. -/
theorem Mem.wf_writeAs (m : Mem) (tag loc a : Nat) (data : List Byte) (h : m.wf = true) : (m.writeAs tag loc a data).wf = true := by
  rw [Mem.wf_iff] at h
  simp only [Mem.writeAs]
  split
  · exact (Mem.wf_iff _).2 ⟨Store.wf_put _ _ _ h.1, h.2⟩
  · split
    · exact (Mem.wf_iff _).2 ⟨h.1, h.2.1, Store.wf_put _ _ _ h.2.2⟩
    · exact (Mem.wf_iff _).2 ⟨h.1, Store.wf_put _ _ _ h.2.1, h.2.2⟩

/-- Writing bytes to a space. -/
theorem Mem.wf_write (m : Mem) (loc a : Nat) (data : List Byte) (h : m.wf = true) : (m.write loc a data).wf = true :=
  Mem.wf_writeAs m 0 loc a data h

/-- Lines leave L2. -/
theorem Mem.wf_leaveL2 (m : Mem) (a n : Nat) (h : m.wf = true) : (m.leaveL2 a n).wf = true := h

/-- Marking a line poisoned. -/
theorem Mem.wf_mark (m : Mem) (loc line : Nat) (h : m.wf = true) : (m.mark loc line).wf = true := by
  rw [Mem.wf_iff] at h
  simp only [Mem.mark]
  split
  · exact (Mem.wf_iff _).2 h
  · split <;> exact (Mem.wf_iff _).2 h

/-- Copying a page. -/
theorem Mem.wf_copyPage (m : Mem) (srcLoc src dstLoc dst n : Nat) (h : m.wf = true) :
    (m.copyPage srcLoc src dstLoc dst n).wf = true := by
  have k := Store.wf_blit (m.space dstLoc) (m.space srcLoc) src dst n (Mem.wf_space m _ h) (Mem.wf_space m _ h)
  rw [Mem.wf_iff] at h
  simp only [Mem.copyPage]
  split
  · exact (Mem.wf_iff _).2 ⟨k, h.2⟩
  · split
    · exact (Mem.wf_iff _).2 ⟨h.1, h.2.1, k⟩
    · exact (Mem.wf_iff _).2 ⟨h.1, k, h.2.2⟩

/-- An entry put into a ring. -/
theorem Ring.wf_put (r : Ring) (m : Mem) (e : BitVec 128) (h : m.wf = true) : (r.put m e).2.wf = true := by
  unfold Ring.put
  split
  · exact h
  · split
    · exact h
    · exact Mem.wf_write _ _ _ _ h

/-- The register space as bytes. -/
theorem Core.wf_plyImage (c : Core) : Store.wf c.plyImage = true := by
  have key : ∀ (l : Nat) (x : Nat × Byte), x ∈ (((List.range 1024).filter fun k => c.plies.any fun p => p.1 / 2 == k).filterMap fun k =>
      let nib (p : Nat) : Nat := (Store.read c.plies p).toNat >>> (4 * l) % 16
      let v : Byte := BitVec.ofNat 8 (nib (2 * k) + 16 * nib (2 * k + 1))
      if v = 0 then none else some (1024 * l + k, v)) → 1024 * l ≤ x.1 ∧ x.1 < 1024 * l + 1024 ∧ x.2 ≠ 0 := by
    intro l x hx
    obtain ⟨k, hk, e⟩ := List.mem_filterMap.1 hx
    have h1 : k < 1024 := List.mem_range.1 (List.mem_filter.1 hk).1
    dsimp only at e
    split at e
    · cases e
    · rename_i hv
      cases e
      exact ⟨Nat.le_add_right _ _, Nat.add_lt_add_left h1 _, hv⟩
  refine (Store.wf_iff _).2 ⟨?_, ?_⟩
  · unfold Core.plyImage
    refine List.pairwise_flatMap.2 ⟨fun l _ => ?_, ?_⟩
    · refine List.pairwise_filterMap.2 (List.Pairwise.imp ?_ (List.Pairwise.filter _ List.pairwise_lt_range))
      intro a b hab x hx y hy
      dsimp only at hx hy
      split at hx
      · cases hx
      · split at hy
        · cases hy
        · cases hx; cases hy; exact Nat.add_lt_add_left hab _
    · refine List.Pairwise.imp ?_ (List.pairwise_lt_range (n := 128))
      intro a b hab x hx y hy
      have h1 := key a x hx
      have h2 := key b y hy
      omega
  · intro x hx
    obtain ⟨l, _, h⟩ := List.mem_flatMap.1 hx
    exact (key l x h).2.2

/-- The image of a dump. -/
theorem State.wf_dumpImage (s : State) (d : Dump) (h : Store.wf (s.core d.core).vault = true) : Store.wf (s.dumpImage d) = true := by
  unfold State.dumpImage
  exact Store.wf_blit _ _ _ _ _ (Store.wf_put _ _ _ (Store.wf_blit _ _ _ _ _ (Store.wf_put _ _ _ (Store.wf_put _ _ _ (Store.wf_put _ _ _
    (Store.wf_put _ _ _ rfl)))) (Core.wf_plyImage _))) h

/-- The image of a context in its slot of the save area. -/
theorem wf_slotImage (c : Core) (k : Nat) (h : Store.wf c.vault = true) : Store.wf (slotImage c k) = true := by
  unfold slotImage
  exact Store.wf_put _ _ _ (Store.wf_put _ _ _ (Store.wf_put _ _ _ (Store.wf_blit _ _ _ _ _ (Store.wf_blit _ _ _ _ _ rfl h)
    (Core.wf_plyImage _))))

/-! The package. -/

theorem State.memOk_iff (s : State) :
    s.memOk = true ↔ s.mem.wf = true ∧ (∀ p ∈ s.cores, Store.wf p.2.vault = true)
      ∧ (∀ x ∈ s.saved, Store.wf x.ctx.vault = true) ∧ Store.wf s.reliab.rows = true := by
  simp [State.memOk, and_assoc, List.all_eq_true]

theorem State.memOk_reset : State.reset.memOk = true := by decide

/-- The vault of any core, a core that no launch has touched included. -/
theorem State.wf_vault (s : State) (n : Nat) (h : s.memOk = true) : Store.wf (s.core n).vault = true := by
  simp only [State.core]
  split
  · rename_i p e
    exact ((State.memOk_iff s).1 h).2.1 p (List.mem_of_find?_eq_some e)
  · rfl

theorem mem_setAt {α : Type} (l : List (Nat × α)) (n : Nat) (a : α) (p : Nat × α) (h : p ∈ setAt l n a) : p = (n, a) ∨ p ∈ l := by
  induction l with
  | nil => simpa [setAt] using h
  | cons x r ih =>
    obtain ⟨k, b⟩ := x
    simp only [setAt] at h
    split at h
    · rcases List.mem_cons.1 h with h | h
      · exact .inl h
      · exact .inr (List.mem_cons_of_mem _ h)
    · split at h
      · rcases List.mem_cons.1 h with h | h
        · exact .inl h
        · exact .inr h
      · rcases List.mem_cons.1 h with h | h
        · exact .inr (h ▸ List.mem_cons_self)
        · exact (ih h).imp id (List.mem_cons_of_mem _)

/-- Replacing a core by one whose vault has the form. -/
theorem State.memOk_setCore (s : State) (n : Nat) (c : Core) (h : s.memOk = true) (hc : Store.wf c.vault = true) :
    (s.setCore n c).memOk = true := by
  rw [State.memOk_iff] at *
  refine ⟨h.1, fun p hp => ?_, h.2.2⟩
  rcases mem_setAt _ _ _ _ hp with e | e
  · subst e; exact hc
  · exact h.2.1 p e

/-- Changing a core by a function that keeps the form of its vault. -/
theorem State.memOk_updCore (s : State) (n : Nat) (f : Core → Core) (h : s.memOk = true)
    (hf : ∀ c : Core, Store.wf c.vault = true → Store.wf (f c).vault = true) : (s.updCore n f).memOk = true :=
  State.memOk_setCore _ _ _ h (hf _ (State.wf_vault s n h))

/-- Changing the context that owns a command, a saved one included. -/
theorem State.memOk_updOwner (s : State) (n id : Nat) (f : Core → Core) (h : s.memOk = true)
    (hf : ∀ c : Core, Store.wf c.vault = true → Store.wf (f c).vault = true) : (s.updOwner n id f).memOk = true := by
  unfold State.updOwner
  split
  · exact State.memOk_updCore s n f h hf
  · rw [State.memOk_iff] at *
    refine ⟨h.1, h.2.1, fun x hx => ?_, h.2.2.2⟩
    obtain ⟨y, hy, rfl⟩ := List.mem_map.1 hx
    split
    · exact hf _ (h.2.2.1 y hy)
    · exact h.2.2.1 y hy

/-- A write to HBM4, the second tier or the host's memory. -/
theorem State.memOk_writeMem (s : State) (loc a : Nat) (data : List Byte) (h : s.memOk = true) : (s.writeMem loc a data).memOk = true := by
  rw [State.memOk_iff] at *
  exact ⟨Mem.wf_write _ _ _ _ h.1, h.2⟩

/-- A write of a launch. -/
theorem State.memOk_writeFor (s : State) (id : Option Nat) (loc a : Nat) (data : List Byte) (h : s.memOk = true) :
    (s.writeFor id loc a data).memOk = true := by
  rw [State.memOk_iff] at *
  exact ⟨Mem.wf_writeAs _ _ _ _ _ h.1, h.2⟩

/-- Entering an event of the tellers. -/
theorem State.memOk_post (s : State) (i : Instr) (h : s.memOk = true) : (s.post i).memOk = true := by
  simpa [State.memOk] using h

/-- A context written to its slot of the save area. -/
theorem State.memOk_saveSlot (s : State) (n : Nat) (c : Core) (h : s.memOk = true) (hc : Store.wf c.vault = true) :
    (s.saveSlot n c).memOk = true := by
  rw [State.memOk_iff] at *
  have k := (Mem.wf_iff _).1 h.1
  exact ⟨(Mem.wf_iff _).2 ⟨Store.wf_blit _ _ _ _ _ k.1 (wf_slotImage c _ hc), k.2⟩, h.2⟩

/-- A write to a vault. -/
theorem State.memOk_writeVault (s : State) (n t a : Nat) (data : List Byte) (h : s.memOk = true) :
    (s.writeVault n t a data).memOk = true := by
  unfold State.writeVault
  have k := State.memOk_updCore s t (fun c => c.putVault (s.ownerTag (s.core n).launch) a data) h fun c hc => Store.wf_put _ _ _ hc
  dsimp only
  split
  · exact State.memOk_updCore _ _ _ k fun c hc => hc
  · exact k

/-- A lateral write of an acknowledged command. -/
theorem State.memOk_performLateral (s : State) (w : Lateral) (h : s.memOk = true) : (s.performLateral w).memOk = true := by
  have step (c : Core) (tag : Nat) (hc : Store.wf c.vault = true) : Store.wf (match w.entry with
      | some e => ((c.putVault tag w.addr w.data).killVaultSpecs w.addr w.data.length).pushEng e
      | none => (c.putVault tag w.addr w.data).killVaultSpecs w.addr w.data.length).vault = true := by
    split
    · unfold Core.pushEng; split <;> exact Store.wf_put _ _ _ hc
    · exact Store.wf_put _ _ _ hc
  unfold State.performLateral
  dsimp only
  split
  · exact State.memOk_updCore _ _ _ h fun c hc => step c _ hc
  · rw [State.memOk_iff] at *
    refine ⟨h.1, h.2.1, fun x hx => ?_, h.2.2.2⟩
    obtain ⟨y, hy, rfl⟩ := List.mem_map.1 hx
    split
    · exact step _ _ (h.2.2.1 y hy)
    · exact h.2.2.1 y hy

/-- What L2 holds is lost. -/
theorem State.memOk_loseL2 (s : State) (h : s.memOk = true) : s.loseL2.memOk = true := by
  rw [State.memOk_iff] at *
  refine ⟨?_, h.2⟩
  unfold State.loseL2
  dsimp only
  generalize List.filter _ _ = lost
  have key : ∀ (xs : List (Nat × (Nat × L2Line))) (m : Mem), m.wf = true → (xs.foldl (fun (m : Mem) (p : Nat × (Nat × L2Line)) =>
      let line := p.2.1
      let m := { m with
        hbm := Store.put m.hbm (64 * line) (numBytes 64 p.2.2.under), hbmPoison := m.hbmPoison.filter fun l => l ≠ line }
      if p.2.2.bad then m.mark 0 line else m) m).wf = true := by
    intro xs
    induction xs with
    | nil => exact fun _ h => h
    | cons p r ih =>
      intro m hm
      refine ih _ ?_
      have k := (Mem.wf_iff _).1 hm
      have w : ({ m with
        hbm := Store.put m.hbm (64 * p.2.1) (numBytes 64 p.2.2.under),
        hbmPoison := m.hbmPoison.filter fun l => l ≠ p.2.1 } : Mem).wf = true :=
        (Mem.wf_iff _).2 ⟨Store.wf_put _ _ _ k.1, k.2⟩
      dsimp only
      split
      · exact Mem.wf_mark _ _ _ w
      · exact w
  exact key lost s.mem h.1

/-- Halving every row counter. -/
theorem State.memOk_rowDecay (s t : State) (h : s.memOk = true) (e : execRowDecay s = .next t) : t.memOk = true := by
  unfold execRowDecay at e
  dsimp only at e
  split at e
  · cases e; exact h
  · cases e
    rw [State.memOk_iff] at *
    refine ⟨h.1, h.2.1, h.2.2.1, ?_⟩
    have hr := (Store.wf_iff _).1 h.2.2.2
    refine (Store.wf_iff _).2 ⟨?_, ?_⟩
    · exact (List.Pairwise.filter _ (List.Pairwise.map (fun c : Nat × BitVec 4 => (c.1, c.2 >>> 1)) (fun _ _ k => k) hr.1))
    · intro c hc
      simpa using (List.mem_filter.1 hc).2

end Sys2Proof.Machine
end

