-- ==== Sys2Proof/Laws/PerInstr.lean ====
section
/-! SUPPORT. Statements made instruction by instruction. SlotRoundTrip: the slot value that the encoder writes for a
well-formed instruction fits its slot, and the slot's decoder reads the instruction back. -/

namespace Sys2Proof.Laws

open Sys2Proof

/-- The slot value of a well-formed instruction fits its slot and decodes to it. -/
def SlotRoundTrip.Statement (i : Instr) : Prop :=
  i.wf = true → ∀ sl v l, i.encodeSlot = some (sl, v, l) → v < 2 ^ sl.width ∧ decodeSlot sl v l = .ok i

/-- An event has no slot. -/
theorem slot_event (i : Instr) (h : i.encodeSlot = none) : SlotRoundTrip.Statement i := by
  intro _ sl v l e
  rw [h] at e
  cases e

/-- A claimed slot triple is the one that is encoded. -/
theorem slot_of (i : Instr) (sl : Slot) (v : Nat) (l : Option Nat) (h : i.encodeSlot = some (sl, v, l))
    (k : i.wf = true → v < 2 ^ sl.width ∧ decodeSlot sl v l = .ok i) : SlotRoundTrip.Statement i := by
  intro w sl' v' l' e
  rw [h] at e
  cases e
  exact k w

theorem slot_x (i : Instr) (b : Nat) (x : XArgs) (h : i.encodeSlot = some (.x, encodeX b x, x.lit)) (hb : 0 < b ∧ b < 32)
    (hf : xForm b x = some i) (hw : i.wf = true → x.wf = true) : SlotRoundTrip.Statement i := by
  refine slot_of i _ _ _ h fun w => ?_
  have k := xFields_encodeX b x (hw w) hb.2
  refine ⟨by simp only [Slot.width]; exact k.2.2.2, ?_⟩
  have n0 : ¬ bits (encodeX b x) 27 6 = 0 := by rw [k.2.2.1]; omega
  simp only [decodeSlot, decodeX, if_neg n0, k.2.1, k.1, hf, accept, w, if_true]

theorem slot_m (i : Instr) (op : Nat) (m : MArgs) (h : i.encodeSlot = some (if m.port then .m1 else .m0, encodeM op m, m.lit))
    (ho : 0 < op ∧ op < 64) (hf : mForm op m = some i) (hw : i.wf = true → m.wf = true) : SlotRoundTrip.Statement i := by
  refine slot_of i _ _ _ h fun w => ?_
  have k := mFields_encodeM op m (hw w) ho.2
  have n0 : ¬ op = 0 := by omega
  have d : decodeM m.port (encodeM op m) m.lit = .ok i := by
    simp only [decodeM, k.2.1, if_neg n0, k.1, hf, accept, w, if_true]
  cases hp : m.port <;> rw [hp] at d <;> exact ⟨by simp only [Slot.width]; exact k.2.2, d⟩

theorem slot_sm (i : Instr) (op : Nat) (m : ScalarMemArgs)
    (h : i.encodeSlot = some (if m.port then .m1 else .m0, encodeScalarMem op m, m.lit)) (ho : 0 < op ∧ op < 64)
    (hn : ∀ x, mForm op x = none) (hf : scalarMemForm op m = some i) (hw : i.wf = true → m.wf = true) :
    SlotRoundTrip.Statement i := by
  refine slot_of i _ _ _ h fun w => ?_
  have k := scalarMemFields_encode op m (hw w) ho.2
  have n0 : ¬ op = 0 := by omega
  have d : decodeM m.port (encodeScalarMem op m) m.lit = .ok i := by
    unfold decodeM
    rw [k.2.1]
    show (if op = 0 then _ else _) = _
    rw [if_neg n0, hn]
    show (match scalarMemForm op _ with | some j => _ | none => _) = _
    rw [k.1, hf]
    show (if _ then accept i else _) = _
    rw [if_pos ⟨k.2.2.1, k.2.2.2.1⟩, accept, if_pos w]
  cases hp : m.port <;> rw [hp] at d <;> exact ⟨by simp only [Slot.width]; exact k.2.2.2.2, d⟩

theorem slot_a (i : Instr) (op : Nat) (a : AtomArgs)
    (h : i.encodeSlot = some (if a.port then .m1 else .m0, encodeAtom op a, a.lit)) (ho : 0 < op ∧ op < 64)
    (hn : ∀ x, mForm op x = none) (hs : ∀ x, scalarMemForm op x = none) (hf : atomForm op a = some i)
    (hw : i.wf = true → a.wf = true) : SlotRoundTrip.Statement i := by
  refine slot_of i _ _ _ h fun w => ?_
  have k := atomFields_encode op a (hw w) ho.2
  have n0 : ¬ op = 0 := by omega
  have d : decodeM a.port (encodeAtom op a) a.lit = .ok i := by
    unfold decodeM
    rw [k.2.1]
    show (if op = 0 then _ else _) = _
    rw [if_neg n0, hn]
    show (match scalarMemForm op _ with | some j => _ | none => _) = _
    rw [hs]
    show (match atomForm op _ with | some j => _ | none => _) = _
    rw [k.1, hf]
    show (if _ then accept i else _) = _
    rw [if_pos k.2.2.1, accept, if_pos w]
  cases hp : a.port <;> rw [hp] at d <;> exact ⟨by simp only [Slot.width]; exact k.2.2.2, d⟩

theorem slot_t (i : Instr) (c : Nat) (t : TArgs) (h : i.encodeSlot = some (.t, encodeT c t, none)) (hc : 0 < c ∧ c < 16)
    (hf : tForm c t = some i) (hw : i.wf = true → t.wf = true) : SlotRoundTrip.Statement i := by
  refine slot_of i _ _ _ h fun w => ?_
  have k := tFields_encodeT c t (hw w) hc.2
  have n0 : ¬ c = 0 := by omega
  exact ⟨by simp only [Slot.width]; exact k.2.2, by simp only [decodeSlot, decodeT, k.2.1, if_neg n0, k.1, hf, accept, w, if_true]⟩

theorem slot_e (i : Instr) (op : Nat) (e : EArgs) (h : i.encodeSlot = some (.e, encodeE op e, e.lit))
    (ho : 0 < op ∧ op < 64) (hf : eForm op e = some i) (hw : i.wf = true → e.wf = true) : SlotRoundTrip.Statement i := by
  refine slot_of i _ _ _ h fun w => ?_
  have k := eFields_encodeE op e (hw w) ho.2
  have n0 : ¬ op = 0 := by omega
  exact ⟨by simp only [Slot.width]; exact k.2.2, by simp only [decodeSlot, decodeE, k.2.1, if_neg n0, k.1, hf, accept, w, if_true]⟩

/-- A V form: form says what vForm reads from a value whose fields are those of v. -/
theorem slot_v (i : Instr) (op : Nat) (v : VArgs) (h : i.encodeSlot = some (if v.port then .v1 else .v0, encodeV op v, none))
    (hw : i.wf = true → v.wf = true) (ho : i.wf = true → 0 < op ∧ op < 256 ∧ op % 2 = b2n v.b)
    (hf : i.wf = true → ∀ x, bits x 41 8 = op → vFields v.port x v.sub = v → bits x 37 4 = v.dw → bits x 0 11 = v.sb →
      bits x 8 3 = v.sb / 256 → vForm v.port x = some i) : SlotRoundTrip.Statement i := by
  refine slot_of i _ _ _ h fun w => ?_
  obtain ⟨o1, o2, o3⟩ := ho w
  have k := vFields_encodeV op v (hw w) o2 o3
  have f := hf w _ k.2.1 k.1 k.2.2.1 k.2.2.2.1 k.2.2.2.2.1
  have n0 : ¬ op = 0 := by omega
  have d : decodeV v.port (encodeV op v) = .ok i := by
    simp only [decodeV, k.2.1, if_neg n0, f, accept, w, if_true]
  cases hp : v.port <;> rw [hp] at d <;> exact ⟨by simp only [Slot.width]; exact k.2.2.2.2.2, d⟩

/-- A C form. -/
theorem slot_c (i : Instr) (g : Guard) (op o : Nat) (h : i.encodeSlot = some (.c, encodeC g op o, none))
    (hw : i.wf = true → g.wf = true) (hop : op < 128) (ho : i.wf = true → o < 2 ^ 30)
    (hf : i.wf = true → ∀ x, bits x 30 7 = op → guardOf (bits x 41 7) = g → bits x 0 30 = o → decodeC x = .ok i) :
    SlotRoundTrip.Statement i := by
  refine slot_of i _ _ _ h fun w => ?_
  have hg := hw w
  have hl := ho w
  obtain ⟨p, n⟩ := g
  simp only [Guard.wf, decide_eq_true_eq] at hg
  have hn := b2n_lt n
  have hv : encodeC ⟨p, n⟩ op o = (p * 2 + b2n n) * 2 ^ 41 + op * 2 ^ 30 + o := rfl
  refine ⟨by simp only [Slot.width]; omega, ?_⟩
  refine hf w _ ?_ ?_ ?_
  · simp only [bits]; omega
  · exact guardOf_code p n hg _ (by simp only [bits]; omega)
  · simp only [bits]; omega


theorem and_left {a b : Bool} (h : (a && b) = true) : a = true := by
  cases a <;> simp_all

theorem and3_left {a b c : Bool} (h : (a && b && c) = true) : a = true := and_left (and_left h)

theorem wf_bitField (x : XArgs) (h : x.bitFieldWf = true) : x.wf = true := and3_left h

theorem wf_unary (x : XArgs) (h : x.unaryWf = true) : x.wf = true := and3_left h


/-! The V opcode table read by family. -/

theorem vForm_bin (port : Bool) (x k sub b : Nat) (hk : k < 7) (hs : sub < 4) (hb : b < 2)
    (h : bits x 41 8 = 16 + 8 * k + 2 * sub + b) : vForm port x = floatBinary k (vFields port x sub) := by
  have e1 : (16 + 8 * k + 2 * sub + b - 16) / 8 = k := by omega
  have e2 : (16 + 8 * k + 2 * sub + b) % 8 / 2 = sub := by omega
  simp only [vForm, h]
  rw [if_neg (by omega), if_pos (by omega), e1, e2]

theorem vForm_un (port : Bool) (x sub b : Nat) (hs : sub < 4) (hb : b < 2) (h : bits x 41 8 = 72 + 2 * sub + b) :
    vForm port x = floatUnary (bits x 0 11) (vFields port x sub) := by
  have e2 : (72 + 2 * sub + b) % 8 / 2 = sub := by omega
  simp only [vForm, h]
  iterate 2 rw [if_neg (by omega)]
  rw [if_pos (by omega), e2]

theorem vForm_cmp (port : Bool) (x sub b : Nat) (hs : sub < 4) (hb : b < 2) (h : bits x 41 8 = 80 + 2 * sub + b) :
    vForm port x = some (.vfCmp (vFields port x sub)) := by
  have e2 : (80 + 2 * sub + b) % 8 / 2 = sub := by omega
  simp only [vForm, h]
  iterate 3 rw [if_neg (by omega)]
  rw [if_pos (by omega), e2]

theorem vForm_sel (port : Bool) (x sub b : Nat) (hs : sub < 4) (hb : b < 2) (h : bits x 41 8 = 88 + 2 * sub + b) :
    vForm port x = some (.vfSel (vFields port x sub)) := by
  have e2 : (88 + 2 * sub + b) % 8 / 2 = sub := by omega
  simp only [vForm, h]
  iterate 4 rw [if_neg (by omega)]
  rw [if_pos (by omega), e2]

theorem vForm_cvt (port : Bool) (x sub b : Nat) (hs : sub < 2) (hb : b < 2) (h : bits x 41 8 = 96 + 2 * sub + b) :
    vForm port x = some (.cvt (vFields port x sub)) := by
  have e2 : (96 + 2 * sub + b) % 4 / 2 = sub := by omega
  simp only [vForm, h]
  iterate 5 rw [if_neg (by omega)]
  rw [if_pos (by omega), e2]

theorem vForm_pred (port : Bool) (x b : Nat) (hb : b < 2) (h : bits x 41 8 = 100 + b) :
    vForm port x = predForm (bits x 37 4) (vFields port x 0) := by
  simp only [vForm, h]
  iterate 6 rw [if_neg (by omega)]
  rw [if_pos (by omega)]

theorem vForm_jet (port : Bool) (x sub b : Nat) (hs : sub < 4) (hb : b < 2) (h : bits x 41 8 = 112 + 2 * sub + b) :
    vForm port x = jetForm (bits x 8 3) (vFields port x sub) := by
  have e2 : (112 + 2 * sub + b) % 8 / 2 = sub := by omega
  simp only [vForm, h]
  iterate 11 rw [if_neg (by omega)]
  rw [if_pos (by omega), e2]

theorem vForm_int (port : Bool) (x k sub b : Nat) (hk : k < 20) (hs : sub < 2) (hb : b < 2)
    (h : bits x 41 8 = 128 + 4 * k + 2 * sub + b) : vForm port x = intForm k (vFields port x sub) := by
  have e1 : (128 + 4 * k + 2 * sub + b - 128) / 4 = k := by omega
  have e2 : (128 + 4 * k + 2 * sub + b) % 4 / 2 = sub := by omega
  simp only [vForm, h]
  iterate 15 rw [if_neg (by omega)]
  rw [e1, e2]

/-! What well-formedness says of a V slot's fields. -/

theorem and_right {a b : Bool} (h : (a && b) = true) : b = true := by
  cases a <;> simp_all

theorem binary_facts (v : VArgs) (h : v.binaryWf = true) : v.wf = true ∧ v.sub < 4 :=
  ⟨and_left (and3_left h), by simpa using and_right (and3_left h)⟩

theorem unary_sb (v : VArgs) (f : Nat) (h : v.unaryWf f = true) : v.sb = f := by
  simpa using and_right h

theorem pred_facts (v : VArgs) (f : Nat) (h : v.predWf f = true) : v.wf = true ∧ v.sub = 0 ∧ v.dw = f := by
  simp only [VArgs.predWf, Bool.and_eq_true, beq_iff_eq] at h
  exact ⟨h.1.1.1.1.1.1.1.1, h.1.1.1.1.1.1.1.2, h.1.1.1.1.1.2⟩

theorem jet_facts (v : VArgs) (op : Nat) (h : v.jetWf op = true) : (v.wf = true ∧ v.sub < 4) ∧ v.sb / 256 = op := by
  simp only [VArgs.jetWf, Bool.and_eq_true, beq_iff_eq] at h
  exact ⟨binary_facts v h.1.1.1, h.1.1.2⟩

theorem int_facts (v : VArgs) (h : v.intWf = true) : v.wf = true ∧ v.sub < 2 :=
  ⟨and_left h, by simpa using and_right h⟩

theorem slot_bin (i : Instr) (k : Nat) (v : VArgs)
    (h : i.encodeSlot = some (if v.port then .v1 else .v0, encodeV (16 + 8 * k + 2 * v.sub + b2n v.b) v, none))
    (hk : k < 7) (hf : ∀ _ : Unit, floatBinary k v = some i) (hw : i.wf = true → v.wf = true ∧ v.sub < 4) :
    SlotRoundTrip.Statement i := by
  have hb := b2n_lt v.b
  refine slot_v i _ v h (fun w => (hw w).1) (fun w => ?_) (fun w x e1 e2 _ _ _ => ?_)
  · have := (hw w).2; omega
  · rw [vForm_bin v.port x k v.sub (b2n v.b) hk (hw w).2 hb e1, e2]; exact hf ()

theorem slot_un (i : Instr) (f : Nat) (v : VArgs)
    (h : i.encodeSlot = some (if v.port then .v1 else .v0, encodeV (72 + 2 * v.sub + b2n v.b) v, none))
    (hw : i.wf = true → v.wf = true ∧ v.sub < 4) (hs : i.wf = true → v.sb = f) (hf : ∀ _ : Unit, floatUnary f v = some i) :
    SlotRoundTrip.Statement i := by
  have hb := b2n_lt v.b
  refine slot_v i _ v h (fun w => (hw w).1) (fun w => ?_) (fun w x e1 e2 _ e4 _ => ?_)
  · have := (hw w).2; omega
  · rw [vForm_un v.port x v.sub (b2n v.b) (hw w).2 hb e1, e2, e4, hs w]; exact hf ()

theorem slot_pred (i : Instr) (f : Nat) (v : VArgs)
    (h : i.encodeSlot = some (if v.port then .v1 else .v0, encodeV (100 + b2n v.b) v, none))
    (hw : i.wf = true → v.wf = true ∧ v.sub = 0 ∧ v.dw = f) (hf : ∀ _ : Unit, predForm f v = some i) :
    SlotRoundTrip.Statement i := by
  have hb := b2n_lt v.b
  refine slot_v i _ v h (fun w => (hw w).1) (fun w => by omega) (fun w x e1 e2 e3 _ _ => ?_)
  rw [(hw w).2.1] at e2
  rw [vForm_pred v.port x (b2n v.b) hb e1, e2, e3, (hw w).2.2]; exact hf ()

theorem slot_jet (i : Instr) (op : Nat) (v : VArgs)
    (h : i.encodeSlot = some (if v.port then .v1 else .v0, encodeV (112 + 2 * v.sub + b2n v.b) v, none))
    (hw : i.wf = true → (v.wf = true ∧ v.sub < 4) ∧ v.sb / 256 = op) (hf : ∀ _ : Unit, jetForm op v = some i) :
    SlotRoundTrip.Statement i := by
  have hb := b2n_lt v.b
  refine slot_v i _ v h (fun w => (hw w).1.1) (fun w => ?_) (fun w x e1 e2 _ _ e5 => ?_)
  · have := (hw w).1.2; omega
  · rw [vForm_jet v.port x v.sub (b2n v.b) (hw w).1.2 hb e1, e2, e5, (hw w).2]; exact hf ()

theorem slot_int (i : Instr) (k : Nat) (v : VArgs)
    (h : i.encodeSlot = some (if v.port then .v1 else .v0, encodeV (128 + 4 * k + 2 * v.sub + b2n v.b) v, none))
    (hk : k < 20) (hf : ∀ _ : Unit, intForm k v = some i) (hw : i.wf = true → v.wf = true ∧ v.sub < 2) :
    SlotRoundTrip.Statement i := by
  have hb := b2n_lt v.b
  refine slot_v i _ v h (fun w => (hw w).1) (fun w => ?_) (fun w x e1 e2 _ _ _ => ?_)
  · have := (hw w).2; omega
  · rw [vForm_int v.port x k v.sub (b2n v.b) hk (hw w).2 hb e1, e2]; exact hf ()

theorem slot_cmp (v : VArgs) : SlotRoundTrip.Statement (.vfCmp v) := by
  have hb := b2n_lt v.b
  have hw (w : v.cmpWf = true) : v.wf = true ∧ v.sub < 4 := by
    simp only [VArgs.cmpWf, Bool.and_eq_true, decide_eq_true_eq] at w
    exact w.1.1.1
  refine slot_v _ (80 + 2 * v.sub + b2n v.b) v rfl (fun w => (hw w).1) (fun w => ?_) (fun w x e1 e2 _ _ _ => ?_)
  · have := (hw w).2; omega
  · rw [vForm_cmp v.port x v.sub (b2n v.b) (hw w).2 hb e1, e2]

theorem slot_sel (v : VArgs) : SlotRoundTrip.Statement (.vfSel v) := by
  have hb := b2n_lt v.b
  have hw (w : v.selWf = true) : v.wf = true ∧ v.sub < 4 := binary_facts v (and3_left w)
  refine slot_v _ (88 + 2 * v.sub + b2n v.b) v rfl (fun w => (hw w).1) (fun w => ?_) (fun w x e1 e2 _ _ _ => ?_)
  · have := (hw w).2; omega
  · rw [vForm_sel v.port x v.sub (b2n v.b) (hw w).2 hb e1, e2]

theorem slot_cvt (v : VArgs) : SlotRoundTrip.Statement (.cvt v) := by
  have hb := b2n_lt v.b
  have hw (w : v.cvtWf = true) : v.wf = true ∧ v.sub < 2 := by
    simp only [VArgs.cvtWf, Bool.and_eq_true, decide_eq_true_eq] at w
    exact w.1.1.1.1.1.1.1
  refine slot_v _ (96 + 2 * v.sub + b2n v.b) v rfl (fun w => (hw w).1) (fun w => ?_) (fun w x e1 e2 _ _ _ => ?_)
  · have := (hw w).2; omega
  · rw [vForm_cvt v.port x v.sub (b2n v.b) (hw w).2 hb e1, e2]

theorem slot_perm (v : VArgs) : SlotRoundTrip.Statement (.perm v) := by
  have hb := b2n_lt v.b
  have hw (w : v.permWf = true) : v.wf = true ∧ v.sub = 0 := by
    simp only [VArgs.permWf, Bool.and_eq_true, beq_iff_eq] at w
    simp only [w, and_self]
  refine slot_v _ (102 + b2n v.b) v rfl (fun w => (hw w).1) (fun w => by omega) (fun w x e1 e2 _ _ _ => ?_)
  rw [(hw w).2] at e2
  simp only [vForm, e1, e2]
  iterate 7 rw [if_neg (by omega)]
  rw [if_pos (by omega)]

theorem slot_red (v : VArgs) : SlotRoundTrip.Statement (.red v) := by
  have hb := b2n_lt v.b
  have hw (w : v.redWf = true) : v.wf = true ∧ v.sub = 0 := by
    simp only [VArgs.redWf, Bool.and_eq_true, beq_iff_eq] at w
    simp only [w, and_self]
  refine slot_v _ (104 + b2n v.b) v rfl (fun w => (hw w).1) (fun w => by omega) (fun w x e1 e2 _ _ _ => ?_)
  rw [(hw w).2] at e2
  simp only [vForm, e1, e2]
  iterate 8 rw [if_neg (by omega)]
  rw [if_pos (by omega)]

theorem slot_xcopy (v : VArgs) : SlotRoundTrip.Statement (.xcopy v) := by
  have hb := b2n_lt v.b
  have hw (w : v.xcopyWf = true) : v.wf = true ∧ v.sub = 0 := by
    simp only [VArgs.xcopyWf, Bool.and_eq_true, beq_iff_eq] at w
    simp only [w, and_self]
  refine slot_v _ (106 + b2n v.b) v rfl (fun w => (hw w).1) (fun w => by omega) (fun w x e1 e2 _ _ _ => ?_)
  rw [(hw w).2] at e2
  simp only [vForm, e1, e2]
  iterate 9 rw [if_neg (by omega)]
  rw [if_pos (by omega)]

theorem slot_flgrd (v : VArgs) : SlotRoundTrip.Statement (.flgrd v) := by
  have hb := b2n_lt v.b
  have hw (w : v.flgrdWf = true) : v.wf = true ∧ v.sub = 0 := by
    simp only [VArgs.flgrdWf, Bool.and_eq_true, beq_iff_eq] at w
    simp only [w, and_self]
  refine slot_v _ (120 + b2n v.b) v rfl (fun w => (hw w).1) (fun w => by omega) (fun w x e1 e2 _ _ _ => ?_)
  rw [(hw w).2] at e2
  simp only [vForm, e1, e2]
  iterate 12 rw [if_neg (by omega)]
  rw [if_pos (by omega)]

theorem slot_flgclr (v : VArgs) : SlotRoundTrip.Statement (.flgclr v) := by
  have hb := b2n_lt v.b
  have hw (w : v.flgclrWf = true) : v.wf = true ∧ v.sub = 0 := by
    simp only [VArgs.flgclrWf, Bool.and_eq_true, beq_iff_eq] at w
    simp only [w, and_self]
  refine slot_v _ (122 + b2n v.b) v rfl (fun w => (hw w).1) (fun w => by omega) (fun w x e1 e2 _ _ _ => ?_)
  rw [(hw w).2] at e2
  simp only [vForm, e1, e2]
  iterate 13 rw [if_neg (by omega)]
  rw [if_pos (by omega)]

/-! The C forms. -/

theorem slot_c0 (i : Instr) (g : Guard) (op : Nat) (h : i.encodeSlot = some (.c, encodeC g op 0, none))
    (hw : i.wf = true → g.wf = true) (hop : op < 128)
    (hf : ∀ x, bits x 30 7 = op → guardOf (bits x 41 7) = g → bits x 0 30 = 0 → i.wf = true → decodeC x = .ok i) :
    SlotRoundTrip.Statement i :=
  slot_c i g op 0 h hw hop (fun _ => by decide) fun w x h1 h2 h3 => hf x h1 h2 h3 w

theorem slot_br (g : Guard) (neg : Bool) (pred target : Nat) : SlotRoundTrip.Statement (.br g neg pred target) := by
  have b_neg := b2n_lt neg
  have facts (w : Instr.wf (.br g neg pred target) = true) : g.wf = true ∧ pred < 128 ∧ target < 65536 := by
    have f : (g.wf && decide (pred < 128) && target16 target) = true := w
    simpa only [target16, Bool.and_eq_true, decide_eq_true_eq, and_assoc] using f
  refine slot_c _ g 1 (b2n neg * 2 ^ 23 + pred * 2 ^ 16 + target) rfl (fun w => (facts w).1) (by decide) (fun w => ?_) (fun w x h1 h2 h3 => ?_)
  · have := facts w; omega
  · have k := facts w
    have e0 : bit (b2n neg * 2 ^ 23 + pred * 2 ^ 16 + target) 23 = neg := bit_of _ _ _ (by omega)
    have e1 : bits (b2n neg * 2 ^ 23 + pred * 2 ^ 16 + target) 16 7 = pred := by simp only [bits]; omega
    have e2 : bits (b2n neg * 2 ^ 23 + pred * 2 ^ 16 + target) 0 16 = target := by simp only [bits]; omega
    have c0 : b2n neg * 2 ^ 23 + pred * 2 ^ 16 + target < 2 ^ 24 := by omega
    simp only [decodeC, h1, h2, h3, e0, e1, e2, c0, accept, w, decide_true, if_true]

theorem slot_brs (g : Guard) (neg fault : Bool) (sk target : Nat) : SlotRoundTrip.Statement (.brs g neg fault sk target) := by
  have b_neg := b2n_lt neg
  have b_fault := b2n_lt fault
  have facts (w : Instr.wf (.brs g neg fault sk target) = true) : g.wf = true ∧ sk < 64 ∧ target < 65536 := by
    have f : (g.wf && decide (sk < 64) && target16 target) = true := w
    simpa only [target16, Bool.and_eq_true, decide_eq_true_eq, and_assoc] using f
  refine slot_c _ g 2 (b2n neg * 2 ^ 23 + b2n fault * 2 ^ 22 + sk * 2 ^ 16 + target) rfl (fun w => (facts w).1) (by decide) (fun w => ?_) (fun w x h1 h2 h3 => ?_)
  · have := facts w; omega
  · have k := facts w
    have e0 : bit (b2n neg * 2 ^ 23 + b2n fault * 2 ^ 22 + sk * 2 ^ 16 + target) 23 = neg := bit_of _ _ _ (by omega)
    have e1 : bit (b2n neg * 2 ^ 23 + b2n fault * 2 ^ 22 + sk * 2 ^ 16 + target) 22 = fault := bit_of _ _ _ (by omega)
    have e2 : bits (b2n neg * 2 ^ 23 + b2n fault * 2 ^ 22 + sk * 2 ^ 16 + target) 16 6 = sk := by simp only [bits]; omega
    have e3 : bits (b2n neg * 2 ^ 23 + b2n fault * 2 ^ 22 + sk * 2 ^ 16 + target) 0 16 = target := by simp only [bits]; omega
    have c0 : b2n neg * 2 ^ 23 + b2n fault * 2 ^ 22 + sk * 2 ^ 16 + target < 2 ^ 24 := by omega
    simp only [decodeC, h1, h2, h3, e0, e1, e2, e3, c0, accept, w, decide_true, if_true]

theorem slot_call (g : Guard) (target : Nat) : SlotRoundTrip.Statement (.call g target) := by
  have facts (w : Instr.wf (.call g target) = true) : g.wf = true ∧ target < 65536 := by
    have f : (g.wf && target16 target) = true := w
    simpa only [target16, Bool.and_eq_true, decide_eq_true_eq, and_assoc] using f
  refine slot_c _ g 3 (target) rfl (fun w => (facts w).1) (by decide) (fun w => ?_) (fun w x h1 h2 h3 => ?_)
  · have := facts w; omega
  · have k := facts w
    have e0 : bits (target) 0 16 = target := by simp only [bits]; omega
    have c0 : target < 2 ^ 16 := by omega
    simp only [decodeC, h1, h2, h3, e0, c0, accept, w, decide_true, if_true]

theorem slot_selv (g : Guard) (table : Nat) : SlotRoundTrip.Statement (.selv g table) := by
  have facts (w : Instr.wf (.selv g table) = true) : g.wf = true ∧ table < 65536 := by
    have f : (g.wf && target16 table) = true := w
    simpa only [target16, Bool.and_eq_true, decide_eq_true_eq, and_assoc] using f
  refine slot_c _ g 9 (table) rfl (fun w => (facts w).1) (by decide) (fun w => ?_) (fun w x h1 h2 h3 => ?_)
  · have := facts w; omega
  · have k := facts w
    have e0 : bits (table) 0 16 = table := by simp only [bits]; omega
    have c0 : table < 2 ^ 16 := by omega
    simp only [decodeC, h1, h2, h3, e0, c0, accept, w, decide_true, if_true]

theorem slot_spool (g : Guard) (sk bm1 table : Nat) : SlotRoundTrip.Statement (.spool g sk bm1 table) := by
  have facts (w : Instr.wf (.spool g sk bm1 table) = true) : g.wf = true ∧ sk < 64 ∧ bm1 < 64 ∧ table < 65536 := by
    have f : (g.wf && decide (sk < 64) && decide (bm1 < 64) && target16 table) = true := w
    simpa only [target16, Bool.and_eq_true, decide_eq_true_eq, and_assoc] using f
  refine slot_c _ g 6 (sk * 2 ^ 24 + bm1 * 2 ^ 16 + table) rfl (fun w => (facts w).1) (by decide) (fun w => ?_) (fun w x h1 h2 h3 => ?_)
  · have := facts w; omega
  · have k := facts w
    have e0 : bits (sk * 2 ^ 24 + bm1 * 2 ^ 16 + table) 24 6 = sk := by simp only [bits]; omega
    have e1 : bits (sk * 2 ^ 24 + bm1 * 2 ^ 16 + table) 16 6 = bm1 := by simp only [bits]; omega
    have e2 : bits (sk * 2 ^ 24 + bm1 * 2 ^ 16 + table) 0 16 = table := by simp only [bits]; omega
    have e3 : bits (sk * 2 ^ 24 + bm1 * 2 ^ 16 + table) 22 2 = 0 := by simp only [bits]; omega
    simp only [decodeC, h1, h2, h3, e0, e1, e2, e3, accept, w, decide_true, if_true]

theorem slot_rdv (g : Guard) (sv sd nm1 group : Nat) : SlotRoundTrip.Statement (.rdv g sv sd nm1 group) := by
  have facts (w : Instr.wf (.rdv g sv sd nm1 group) = true) : g.wf = true ∧ sv < 64 ∧ sd < 64 ∧ nm1 < 256 ∧ group < 256 := by
    have f : (g.wf && decide (sv < 64) && decide (sd < 64) && decide (nm1 < 256) && decide (group < 256)) = true := w
    simpa only [Bool.and_eq_true, decide_eq_true_eq, and_assoc] using f
  refine slot_c _ g 8 (sv * 2 ^ 22 + sd * 2 ^ 16 + nm1 * 2 ^ 8 + group) rfl (fun w => (facts w).1) (by decide) (fun w => ?_) (fun w x h1 h2 h3 => ?_)
  · have := facts w; omega
  · have k := facts w
    have e0 : bits (sv * 2 ^ 22 + sd * 2 ^ 16 + nm1 * 2 ^ 8 + group) 22 6 = sv := by simp only [bits]; omega
    have e1 : bits (sv * 2 ^ 22 + sd * 2 ^ 16 + nm1 * 2 ^ 8 + group) 16 6 = sd := by simp only [bits]; omega
    have e2 : bits (sv * 2 ^ 22 + sd * 2 ^ 16 + nm1 * 2 ^ 8 + group) 8 8 = nm1 := by simp only [bits]; omega
    have e3 : bits (sv * 2 ^ 22 + sd * 2 ^ 16 + nm1 * 2 ^ 8 + group) 0 8 = group := by simp only [bits]; omega
    have c0 : sv * 2 ^ 22 + sd * 2 ^ 16 + nm1 * 2 ^ 8 + group < 2 ^ 28 := by omega
    simp only [decodeC, h1, h2, h3, e0, e1, e2, e3, c0, accept, w, decide_true, if_true]

theorem slot_setf (g : Guard) (val : Bool) (core flag : Nat) : SlotRoundTrip.Statement (.setf g val core flag) := by
  have b_val := b2n_lt val
  have facts (w : Instr.wf (.setf g val core flag) = true) : g.wf = true ∧ core < 256 ∧ flag < 64 := by
    have f : (g.wf && decide (core < 256) && decide (flag < 64)) = true := w
    simpa only [Bool.and_eq_true, decide_eq_true_eq, and_assoc] using f
  refine slot_c _ g 10 (b2n val * 2 ^ 22 + core * 2 ^ 14 + flag) rfl (fun w => (facts w).1) (by decide) (fun w => ?_) (fun w x h1 h2 h3 => ?_)
  · have := facts w; omega
  · have k := facts w
    have e0 : bit (b2n val * 2 ^ 22 + core * 2 ^ 14 + flag) 22 = val := bit_of _ _ _ (by omega)
    have e1 : bits (b2n val * 2 ^ 22 + core * 2 ^ 14 + flag) 14 8 = core := by simp only [bits]; omega
    have e2 : bits (b2n val * 2 ^ 22 + core * 2 ^ 14 + flag) 0 6 = flag := by simp only [bits]; omega
    have e3 : bits (b2n val * 2 ^ 22 + core * 2 ^ 14 + flag) 6 8 = 0 := by simp only [bits]; omega
    have c0 : b2n val * 2 ^ 22 + core * 2 ^ 14 + flag < 2 ^ 23 := by omega
    simp only [decodeC, h1, h2, h3, e0, e1, e2, e3, c0, accept, w, decide_true, if_true, Bool.and_self]

theorem slot_waitf (g : Guard) (val : Bool) (flag : Nat) : SlotRoundTrip.Statement (.waitf g val flag) := by
  have b_val := b2n_lt val
  have facts (w : Instr.wf (.waitf g val flag) = true) : g.wf = true ∧ flag < 64 := by
    have f : (g.wf && decide (flag < 64)) = true := w
    simpa only [Bool.and_eq_true, decide_eq_true_eq, and_assoc] using f
  refine slot_c _ g 11 (b2n val * 2 ^ 6 + flag) rfl (fun w => (facts w).1) (by decide) (fun w => ?_) (fun w x h1 h2 h3 => ?_)
  · have := facts w; omega
  · have k := facts w
    have e0 : bit (b2n val * 2 ^ 6 + flag) 6 = val := bit_of _ _ _ (by omega)
    have e1 : bits (b2n val * 2 ^ 6 + flag) 0 6 = flag := by simp only [bits]; omega
    have c0 : b2n val * 2 ^ 6 + flag < 2 ^ 7 := by omega
    simp only [decodeC, h1, h2, h3, e0, e1, c0, accept, w, decide_true, if_true]

theorem slot_movc (g : Guard) (ss reg : Nat) : SlotRoundTrip.Statement (.movc g ss reg) := by
  have facts (w : Instr.wf (.movc g ss reg) = true) : g.wf = true ∧ ss < 64 ∧ reg < 256 ∧ ctrlWritable reg = true := by
    have f : (g.wf && decide (ss < 64) && decide (reg < 256) && ctrlWritable reg) = true := w
    simpa only [Bool.and_eq_true, decide_eq_true_eq, and_assoc] using f
  refine slot_c _ g 18 (ss * 2 ^ 8 + reg) rfl (fun w => (facts w).1) (by decide) (fun w => ?_) (fun w x h1 h2 h3 => ?_)
  · have := facts w; omega
  · have k := facts w
    have e0 : bits (ss * 2 ^ 8 + reg) 8 6 = ss := by simp only [bits]; omega
    have e1 : bits (ss * 2 ^ 8 + reg) 0 8 = reg := by simp only [bits]; omega
    have c0 : ss * 2 ^ 8 + reg < 2 ^ 14 := by omega
    simp only [decodeC, h1, h2, h3, e0, e1, c0, accept, w, decide_true, if_true]

theorem slot_rdc (g : Guard) (sd reg : Nat) : SlotRoundTrip.Statement (.rdc g sd reg) := by
  have facts (w : Instr.wf (.rdc g sd reg) = true) : g.wf = true ∧ sd < 64 ∧ reg < 256 := by
    have f : (g.wf && decide (sd < 64) && decide (reg < 256)) = true := w
    simpa only [Bool.and_eq_true, decide_eq_true_eq, and_assoc] using f
  refine slot_c _ g 19 (sd * 2 ^ 8 + reg) rfl (fun w => (facts w).1) (by decide) (fun w => ?_) (fun w x h1 h2 h3 => ?_)
  · have := facts w; omega
  · have k := facts w
    have e0 : bits (sd * 2 ^ 8 + reg) 8 6 = sd := by simp only [bits]; omega
    have e1 : bits (sd * 2 ^ 8 + reg) 0 8 = reg := by simp only [bits]; omega
    have c0 : sd * 2 ^ 8 + reg < 2 ^ 14 := by omega
    simp only [decodeC, h1, h2, h3, e0, e1, c0, accept, w, decide_true, if_true]

theorem slot_loop_true (g : Guard) (n last : Nat) : SlotRoundTrip.Statement (.loop g true n last) := by
  have b0 : b2n true = 1 := rfl
  have facts (w : Instr.wf (.loop g true n last) = true) : g.wf = true ∧ n < 8192 ∧ last < 65536 := by
    have f : (g.wf && decide (n < 8192) && target16 last) = true := w
    simpa only [target16, Bool.and_eq_true, decide_eq_true_eq, and_assoc] using f
  refine slot_c _ g 5 (b2n true * 2 ^ 29 + n * 2 ^ 16 + last) rfl (fun w => (facts w).1) (by decide) (fun w => ?_) (fun w x h1 h2 h3 => ?_)
  · have := facts w; omega
  · have k := facts w
    have e0 : bit (b2n true * 2 ^ 29 + n * 2 ^ 16 + last) 29 = true := bit_of _ _ _ (by omega)
    have e1 : bits (b2n true * 2 ^ 29 + n * 2 ^ 16 + last) 16 13 = n := by simp only [bits]; omega
    have e2 : bits (b2n true * 2 ^ 29 + n * 2 ^ 16 + last) 0 16 = last := by simp only [bits]; omega
    simp only [decodeC, h1, h2, h3, e0, e1, e2, accept, w, if_true]

theorem slot_loop_false (g : Guard) (n last : Nat) : SlotRoundTrip.Statement (.loop g false n last) := by
  have b0 : b2n false = 0 := rfl
  have facts (w : Instr.wf (.loop g false n last) = true) : g.wf = true ∧ n < 64 ∧ last < 65536 := by
    have f : (g.wf && decide (n < 64) && target16 last) = true := w
    simpa only [target16, Bool.and_eq_true, decide_eq_true_eq, and_assoc] using f
  refine slot_c _ g 5 (b2n false * 2 ^ 29 + n * 2 ^ 16 + last) rfl (fun w => (facts w).1) (by decide) (fun w => ?_) (fun w x h1 h2 h3 => ?_)
  · have := facts w; omega
  · have k := facts w
    have e0 : bit (b2n false * 2 ^ 29 + n * 2 ^ 16 + last) 29 = false := bit_of _ _ _ (by omega)
    have e1 : bits (b2n false * 2 ^ 29 + n * 2 ^ 16 + last) 16 6 = n := by simp only [bits]; omega
    have e2 : bits (b2n false * 2 ^ 29 + n * 2 ^ 16 + last) 0 16 = last := by simp only [bits]; omega
    have e3 : bits (b2n false * 2 ^ 29 + n * 2 ^ 16 + last) 22 7 = 0 := by simp only [bits]; omega
    simp only [decodeC, h1, h2, h3, e0, e1, e2, e3, accept, w, decide_true, Bool.false_eq_true, if_false, if_true]

theorem slot_loop (g : Guard) (imm : Bool) (n last : Nat) : SlotRoundTrip.Statement (.loop g imm n last) := by
  cases imm
  · exact slot_loop_false g n last
  · exact slot_loop_true g n last

theorem slot_rep_true (g : Guard) (n : Nat) : SlotRoundTrip.Statement (.rep g true n) := by
  have b0 : b2n true = 1 := rfl
  have facts (w : Instr.wf (.rep g true n) = true) : g.wf = true ∧ n < 8192 := by
    have f : (g.wf && decide (n < 8192)) = true := w
    simpa only [Bool.and_eq_true, decide_eq_true_eq, and_assoc] using f
  refine slot_c _ g 7 (b2n true * 2 ^ 29 + n * 2 ^ 16) rfl (fun w => (facts w).1) (by decide) (fun w => ?_) (fun w x h1 h2 h3 => ?_)
  · have := facts w; omega
  · have k := facts w
    have e0 : bit (b2n true * 2 ^ 29 + n * 2 ^ 16) 29 = true := bit_of _ _ _ (by omega)
    have e1 : bits (b2n true * 2 ^ 29 + n * 2 ^ 16) 16 13 = n := by simp only [bits]; omega
    have e2 : bits (b2n true * 2 ^ 29 + n * 2 ^ 16) 0 16 = 0 := by simp only [bits]; omega
    simp only [decodeC, h1, h2, h3, e0, e1, e2, accept, w, decide_true, if_true]

theorem slot_rep_false (g : Guard) (n : Nat) : SlotRoundTrip.Statement (.rep g false n) := by
  have b0 : b2n false = 0 := rfl
  have facts (w : Instr.wf (.rep g false n) = true) : g.wf = true ∧ n < 64 := by
    have f : (g.wf && decide (n < 64)) = true := w
    simpa only [Bool.and_eq_true, decide_eq_true_eq, and_assoc] using f
  refine slot_c _ g 7 (b2n false * 2 ^ 29 + n * 2 ^ 16) rfl (fun w => (facts w).1) (by decide) (fun w => ?_) (fun w x h1 h2 h3 => ?_)
  · have := facts w; omega
  · have k := facts w
    have e0 : bit (b2n false * 2 ^ 29 + n * 2 ^ 16) 29 = false := bit_of _ _ _ (by omega)
    have e1 : bits (b2n false * 2 ^ 29 + n * 2 ^ 16) 16 6 = n := by simp only [bits]; omega
    have e2 : bits (b2n false * 2 ^ 29 + n * 2 ^ 16) 0 16 = 0 := by simp only [bits]; omega
    have e3 : bits (b2n false * 2 ^ 29 + n * 2 ^ 16) 22 7 = 0 := by simp only [bits]; omega
    simp only [decodeC, h1, h2, h3, e0, e1, e2, e3, accept, w, decide_true, if_true, Bool.and_self, Bool.false_eq_true, if_false]

theorem slot_rep (g : Guard) (imm : Bool) (n : Nat) : SlotRoundTrip.Statement (.rep g imm n) := by
  cases imm
  · exact slot_rep_false g n
  · exact slot_rep_true g n

theorem SlotRoundTrip.powerUp (b : BootInput) : SlotRoundTrip.Statement (.powerUp b) := slot_event _ rfl

theorem SlotRoundTrip.powerLimitHold (cond : Nat) : SlotRoundTrip.Statement (.powerLimitHold cond) := slot_event _ rfl

theorem SlotRoundTrip.admissionResume (cond : Nat) : SlotRoundTrip.Statement (.admissionResume cond) := slot_event _ rfl

theorem SlotRoundTrip.hdmWrite (pa : Nat) (data : List Byte) : SlotRoundTrip.Statement (.hdmWrite pa data) := slot_event _ rfl

theorem SlotRoundTrip.hdmRead (pa len : Nat) : SlotRoundTrip.Statement (.hdmRead pa len) := slot_event _ rfl

theorem SlotRoundTrip.backInvalidateAnswer (line : Nat) : SlotRoundTrip.Statement (.backInvalidateAnswer line) := slot_event _ rfl

theorem SlotRoundTrip.backInvalidateTimeout (line : Nat) : SlotRoundTrip.Statement (.backInvalidateTimeout line) := slot_event _ rfl

theorem SlotRoundTrip.registerWrite (off size : Nat) (val : Word) : SlotRoundTrip.Statement (.registerWrite off size val) := slot_event _ rfl

theorem SlotRoundTrip.qcmdCreate (q : Nat) : SlotRoundTrip.Statement (.qcmdCreate q) := slot_event _ rfl

theorem SlotRoundTrip.qcmdDestroy (q : Nat) : SlotRoundTrip.Statement (.qcmdDestroy q) := slot_event _ rfl

theorem SlotRoundTrip.qtailWrite (q : Nat) (val : Word) : SlotRoundTrip.Statement (.qtailWrite q val) := slot_event _ rfl

theorem SlotRoundTrip.launch (q : Nat) : SlotRoundTrip.Statement (.launch q) := slot_event _ rfl

theorem SlotRoundTrip.wait (q : Nat) : SlotRoundTrip.Statement (.wait q) := slot_event _ rfl

theorem SlotRoundTrip.waitPoll (q : Nat) : SlotRoundTrip.Statement (.waitPoll q) := slot_event _ rfl

theorem SlotRoundTrip.waitTimeout (q : Nat) : SlotRoundTrip.Statement (.waitTimeout q) := slot_event _ rfl

theorem SlotRoundTrip.signal (q : Nat) : SlotRoundTrip.Statement (.signal q) := slot_event _ rfl

theorem SlotRoundTrip.copyPacket (q : Nat) : SlotRoundTrip.Statement (.copyPacket q) := slot_event _ rfl

theorem SlotRoundTrip.copyPacketDone (q : Nat) : SlotRoundTrip.Statement (.copyPacketDone q) := slot_event _ rfl

theorem SlotRoundTrip.query (q : Nat) : SlotRoundTrip.Statement (.query q) := slot_event _ rfl

theorem SlotRoundTrip.tellerTrapEvent (core : Nat) : SlotRoundTrip.Statement (.tellerTrapEvent core) := slot_event _ rfl

theorem SlotRoundTrip.linkEvent (port : Nat) : SlotRoundTrip.Statement (.linkEvent port) := slot_event _ rfl

theorem SlotRoundTrip.packageLoss (pkg mask : Nat) : SlotRoundTrip.Statement (.packageLoss pkg mask) := slot_event _ rfl

theorem SlotRoundTrip.nqcfgWrite (val : Word) : SlotRoundTrip.Statement (.nqcfgWrite val) := slot_event _ rfl

theorem SlotRoundTrip.nqconsWrite (val : Word) : SlotRoundTrip.Statement (.nqconsWrite val) := slot_event _ rfl

theorem SlotRoundTrip.fwctlStage (val : Word) : SlotRoundTrip.Statement (.fwctlStage val) := slot_event _ rfl

theorem SlotRoundTrip.fwStaged (flashOk : Bool) : SlotRoundTrip.Statement (.fwStaged flashOk) := slot_event _ rfl

theorem SlotRoundTrip.fwctlActivate (val : Word) : SlotRoundTrip.Statement (.fwctlActivate val) := slot_event _ rfl

theorem SlotRoundTrip.fwctlAbort (val : Word) : SlotRoundTrip.Statement (.fwctlAbort val) := slot_event _ rfl

theorem SlotRoundTrip.pldmSensorRead (sensor : Sensor) : SlotRoundTrip.Statement (.pldmSensorRead sensor) := slot_event _ rfl

theorem SlotRoundTrip.pldmAdmissionHold (hold : Bool) : SlotRoundTrip.Statement (.pldmAdmissionHold hold) := slot_event _ rfl

theorem SlotRoundTrip.pldmFwUpdate (req : PldmUpdate) : SlotRoundTrip.Statement (.pldmFwUpdate req) := slot_event _ rfl

theorem SlotRoundTrip.flitCrcReplay (port : Nat) : SlotRoundTrip.Statement (.flitCrcReplay port) := slot_event _ rfl

theorem SlotRoundTrip.portReplayLimit (port : Nat) : SlotRoundTrip.Statement (.portReplayLimit port) := slot_event _ rfl

theorem SlotRoundTrip.portRxTimeout (port : Nat) : SlotRoundTrip.Statement (.portRxTimeout port) := slot_event _ rfl

theorem SlotRoundTrip.heartbeatSend (port : Nat) : SlotRoundTrip.Statement (.heartbeatSend port) := slot_event _ rfl

theorem SlotRoundTrip.heartbeat (port : Nat) (p : Packet) : SlotRoundTrip.Statement (.heartbeat port p) := slot_event _ rfl

theorem SlotRoundTrip.portLaneLoss (port : Nat) : SlotRoundTrip.Statement (.portLaneLoss port) := slot_event _ rfl

theorem SlotRoundTrip.portTrained (port peerPkg peerPort : Nat) : SlotRoundTrip.Statement (.portTrained port peerPkg peerPort) := slot_event _ rfl

theorem SlotRoundTrip.fabricWrite (p : Packet) : SlotRoundTrip.Statement (.fabricWrite p) := slot_event _ rfl

theorem SlotRoundTrip.readReq (p : Packet) : SlotRoundTrip.Statement (.readReq p) := slot_event _ rfl

theorem SlotRoundTrip.readData (p : Packet) : SlotRoundTrip.Statement (.readData p) := slot_event _ rfl

theorem SlotRoundTrip.fabricAtomic (p : Packet) : SlotRoundTrip.Statement (.fabricAtomic p) := slot_event _ rfl

theorem SlotRoundTrip.ack (p : Packet) : SlotRoundTrip.Statement (.ack p) := slot_event _ rfl

theorem SlotRoundTrip.ackTimeout (tag : Nat) : SlotRoundTrip.Statement (.ackTimeout tag) := slot_event _ rfl

theorem SlotRoundTrip.reduceContrib (p : Packet) : SlotRoundTrip.Statement (.reduceContrib p) := slot_event _ rfl

theorem SlotRoundTrip.reduceResult (p : Packet) : SlotRoundTrip.Statement (.reduceResult p) := slot_event _ rfl

theorem SlotRoundTrip.groupTimerExpiry (g : Nat) : SlotRoundTrip.Statement (.groupTimerExpiry g) := slot_event _ rfl

theorem SlotRoundTrip.debugHold (p : Packet) : SlotRoundTrip.Statement (.debugHold p) := slot_event _ rfl

theorem SlotRoundTrip.debugRelease (p : Packet) : SlotRoundTrip.Statement (.debugRelease p) := slot_event _ rfl

theorem SlotRoundTrip.routeUpdate (port : Nat) (p : Packet) (table : List (Nat × Nat)) :
    SlotRoundTrip.Statement (.routeUpdate port p table) := slot_event _ rfl

theorem SlotRoundTrip.groupEntryWrite (g word : Nat) (val : Word) : SlotRoundTrip.Statement (.groupEntryWrite g word val) := slot_event _ rfl

theorem SlotRoundTrip.tlbWalkDone (core id : Nat) : SlotRoundTrip.Statement (.tlbWalkDone core id) := slot_event _ rfl

theorem SlotRoundTrip.heatCfgWrite (val : Word) : SlotRoundTrip.Statement (.heatCfgWrite val) := slot_event _ rfl

theorem SlotRoundTrip.migrationCopy (m : Nat) : SlotRoundTrip.Statement (.migrationCopy m) := slot_event _ rfl

theorem SlotRoundTrip.migrationRepoint (m : Nat) : SlotRoundTrip.Statement (.migrationRepoint m) := slot_event _ rfl

theorem SlotRoundTrip.migrationReplay (m : Nat) : SlotRoundTrip.Statement (.migrationReplay m) := slot_event _ rfl

theorem SlotRoundTrip.migrationFinish (m : Nat) : SlotRoundTrip.Statement (.migrationFinish m) := slot_event _ rfl

theorem SlotRoundTrip.preemptStop (q : Nat) : SlotRoundTrip.Statement (.preemptStop q) := slot_event _ rfl

theorem SlotRoundTrip.preemptResume (q : Nat) : SlotRoundTrip.Statement (.preemptResume q) := slot_event _ rfl

theorem SlotRoundTrip.ctxsaveWrite (val : Word) : SlotRoundTrip.Statement (.ctxsaveWrite val) := slot_event _ rfl

theorem SlotRoundTrip.scanName (die : Nat) : SlotRoundTrip.Statement (.scanName die) := slot_event _ rfl

theorem SlotRoundTrip.scanwaitExpiry (core : Nat) : SlotRoundTrip.Statement (.scanwaitExpiry core) := slot_event _ rfl

theorem SlotRoundTrip.scanMigration (die : Nat) : SlotRoundTrip.Statement (.scanMigration die) := slot_event _ rfl

theorem SlotRoundTrip.scanResult (die : Nat) (pass : Bool) : SlotRoundTrip.Statement (.scanResult die pass) := slot_event _ rfl

theorem SlotRoundTrip.scanInPlace (die cluster : Nat) : SlotRoundTrip.Statement (.scanInPlace die cluster) := slot_event _ rfl

theorem SlotRoundTrip.rowRetire (core : Nat) : SlotRoundTrip.Statement (.rowRetire core) := slot_event _ rfl

theorem SlotRoundTrip.relcfgWrite (val : Word) : SlotRoundTrip.Statement (.relcfgWrite val) := slot_event _ rfl

theorem SlotRoundTrip.carderScrub (space : EccSpace) (double : Bool) : SlotRoundTrip.Statement (.carderScrub space double) := slot_event _ rfl

theorem SlotRoundTrip.dbgStop (core : Nat) : SlotRoundTrip.Statement (.dbgStop core) := slot_event _ rfl

theorem SlotRoundTrip.dbgResume (core : Nat) : SlotRoundTrip.Statement (.dbgResume core) := slot_event _ rfl

theorem SlotRoundTrip.dbgStep (core arg : Nat) : SlotRoundTrip.Statement (.dbgStep core arg) := slot_event _ rfl

theorem SlotRoundTrip.dbgStepDone (core : Nat) : SlotRoundTrip.Statement (.dbgStepDone core) := slot_event _ rfl

theorem SlotRoundTrip.dbgHold (epoch : Nat) : SlotRoundTrip.Statement (.dbgHold epoch) := slot_event _ rfl

theorem SlotRoundTrip.dbgRelease (epoch : Nat) : SlotRoundTrip.Statement (.dbgRelease epoch) := slot_event _ rfl

theorem SlotRoundTrip.trccfgWrite (val : Word) : SlotRoundTrip.Statement (.trccfgWrite val) := slot_event _ rfl

theorem SlotRoundTrip.trcconsWrite (val : Word) : SlotRoundTrip.Statement (.trcconsWrite val) := slot_event _ rfl

theorem SlotRoundTrip.sketchSeedWrite (val : Word) : SlotRoundTrip.Statement (.sketchSeedWrite val) := slot_event _ rfl

theorem SlotRoundTrip.skctlWrite (val : Word) : SlotRoundTrip.Statement (.skctlWrite val) := slot_event _ rfl

theorem SlotRoundTrip.sketchQuery (x : Word) : SlotRoundTrip.Statement (.sketchQuery x) := slot_event _ rfl

theorem SlotRoundTrip.dumpStart (val : Word) : SlotRoundTrip.Statement (.dumpStart val) := slot_event _ rfl

theorem SlotRoundTrip.globalResultArrive (core id : Nat) : SlotRoundTrip.Statement (.globalResultArrive core id) := slot_event _ rfl

theorem SlotRoundTrip.remoteWritePerform (core id : Nat) : SlotRoundTrip.Statement (.remoteWritePerform core id) := slot_event _ rfl

theorem SlotRoundTrip.relPerform (core : Nat) : SlotRoundTrip.Statement (.relPerform core) := slot_event _ rfl

theorem SlotRoundTrip.engineComplete (core id : Nat) : SlotRoundTrip.Statement (.engineComplete core id) := slot_event _ rfl

theorem SlotRoundTrip.flagWaitSatisfy (core : Nat) : SlotRoundTrip.Statement (.flagWaitSatisfy core) := slot_event _ rfl

theorem SlotRoundTrip.rdvRoundRelease (launch group : Nat) : SlotRoundTrip.Statement (.rdvRoundRelease launch group) := slot_event _ rfl

theorem SlotRoundTrip.allowanceExpiry (core : Nat) : SlotRoundTrip.Statement (.allowanceExpiry core) := slot_event _ rfl

theorem SlotRoundTrip.br (g : Guard) (neg : Bool) (pred target : Nat) : SlotRoundTrip.Statement (.br g neg pred target) := slot_br g neg pred target

theorem SlotRoundTrip.brs (g : Guard) (neg fault : Bool) (sk target : Nat) : SlotRoundTrip.Statement (.brs g neg fault sk target) := slot_brs g neg fault sk target

theorem SlotRoundTrip.call (g : Guard) (target : Nat) : SlotRoundTrip.Statement (.call g target) := slot_call g target

theorem SlotRoundTrip.ret (g : Guard) : SlotRoundTrip.Statement (.ret g) := slot_c0 _ g 0x04 rfl (fun w => w) (by decide) (fun x h1 h2 h3 w => by simp only [decodeC, h1, h2, h3, accept, w, if_true, decide_true])

theorem SlotRoundTrip.loop (g : Guard) (imm : Bool) (n last : Nat) : SlotRoundTrip.Statement (.loop g imm n last) := slot_loop g imm n last

theorem SlotRoundTrip.spool (g : Guard) (sk bm1 table : Nat) : SlotRoundTrip.Statement (.spool g sk bm1 table) := slot_spool g sk bm1 table

theorem SlotRoundTrip.rep (g : Guard) (imm : Bool) (n : Nat) : SlotRoundTrip.Statement (.rep g imm n) := slot_rep g imm n

theorem SlotRoundTrip.rdv (g : Guard) (sv sd nm1 group : Nat) : SlotRoundTrip.Statement (.rdv g sv sd nm1 group) := slot_rdv g sv sd nm1 group

theorem SlotRoundTrip.selv (g : Guard) (table : Nat) : SlotRoundTrip.Statement (.selv g table) := slot_selv g table

theorem SlotRoundTrip.setf (g : Guard) (val : Bool) (core flag : Nat) : SlotRoundTrip.Statement (.setf g val core flag) := slot_setf g val core flag

theorem SlotRoundTrip.waitf (g : Guard) (val : Bool) (flag : Nat) : SlotRoundTrip.Statement (.waitf g val flag) := slot_waitf g val flag

theorem SlotRoundTrip.ppt (g : Guard) : SlotRoundTrip.Statement (.ppt g) := slot_c0 _ g 0x0C rfl (fun w => w) (by decide) (fun x h1 h2 h3 w => by simp only [decodeC, h1, h2, h3, accept, w, if_true, decide_true])

theorem SlotRoundTrip.pptScan (g : Guard) : SlotRoundTrip.Statement (.pptScan g) := slot_c0 _ g 0x0D rfl (fun w => w) (by decide) (fun x h1 h2 h3 w => by simp only [decodeC, h1, h2, h3, accept, w, if_true, decide_true])

theorem SlotRoundTrip.relPkg (g : Guard) : SlotRoundTrip.Statement (.relPkg g) := slot_c0 _ g 0x0E rfl (fun w => w) (by decide) (fun x h1 h2 h3 w => by simp only [decodeC, h1, h2, h3, accept, w, if_true, decide_true])

theorem SlotRoundTrip.relSys (g : Guard) : SlotRoundTrip.Statement (.relSys g) := slot_c0 _ g 0x0F rfl (fun w => w) (by decide) (fun x h1 h2 h3 w => by simp only [decodeC, h1, h2, h3, accept, w, if_true, decide_true])

theorem SlotRoundTrip.fenceE (g : Guard) : SlotRoundTrip.Statement (.fenceE g) := slot_c0 _ g 0x10 rfl (fun w => w) (by decide) (fun x h1 h2 h3 w => by simp only [decodeC, h1, h2, h3, accept, w, if_true, decide_true])

theorem SlotRoundTrip.rfence (g : Guard) : SlotRoundTrip.Statement (.rfence g) := slot_c0 _ g 0x11 rfl (fun w => w) (by decide) (fun x h1 h2 h3 w => by simp only [decodeC, h1, h2, h3, accept, w, if_true, decide_true])

theorem SlotRoundTrip.movc (g : Guard) (ss reg : Nat) : SlotRoundTrip.Statement (.movc g ss reg) := slot_movc g ss reg

theorem SlotRoundTrip.rdc (g : Guard) (sd reg : Nat) : SlotRoundTrip.Statement (.rdc g sd reg) := slot_rdc g sd reg

theorem SlotRoundTrip.brk (g : Guard) : SlotRoundTrip.Statement (.brk g) := slot_c0 _ g 0x14 rfl (fun w => w) (by decide) (fun x h1 h2 h3 w => by simp only [decodeC, h1, h2, h3, accept, w, if_true, decide_true])

theorem SlotRoundTrip.eret (g : Guard) : SlotRoundTrip.Statement (.eret g) := slot_c0 _ g 0x15 rfl (fun w => w) (by decide) (fun x h1 h2 h3 w => by simp only [decodeC, h1, h2, h3, accept, w, if_true, decide_true])

theorem SlotRoundTrip.halt (g : Guard) : SlotRoundTrip.Statement (.halt g) := slot_c0 _ g 0x16 rfl (fun w => w) (by decide) (fun x h1 h2 h3 w => by simp only [decodeC, h1, h2, h3, accept, w, if_true, decide_true])

theorem SlotRoundTrip.xAdd (x : XArgs) : SlotRoundTrip.Statement (.xAdd x) :=
  slot_x _ 1 x rfl (by decide) rfl (fun w => w)

theorem SlotRoundTrip.xSub (x : XArgs) : SlotRoundTrip.Statement (.xSub x) :=
  slot_x _ 2 x rfl (by decide) rfl (fun w => w)

theorem SlotRoundTrip.xMul (x : XArgs) : SlotRoundTrip.Statement (.xMul x) :=
  slot_x _ 3 x rfl (by decide) rfl (fun w => w)

theorem SlotRoundTrip.mulhu (x : XArgs) : SlotRoundTrip.Statement (.mulhu x) :=
  slot_x _ 4 x rfl (by decide) rfl (fun w => w)

theorem SlotRoundTrip.mulhs (x : XArgs) : SlotRoundTrip.Statement (.mulhs x) :=
  slot_x _ 5 x rfl (by decide) rfl (fun w => w)

theorem SlotRoundTrip.xAnd (x : XArgs) : SlotRoundTrip.Statement (.xAnd x) :=
  slot_x _ 6 x rfl (by decide) rfl (fun w => w)

theorem SlotRoundTrip.xOr (x : XArgs) : SlotRoundTrip.Statement (.xOr x) :=
  slot_x _ 7 x rfl (by decide) rfl (fun w => w)

theorem SlotRoundTrip.xXor (x : XArgs) : SlotRoundTrip.Statement (.xXor x) :=
  slot_x _ 8 x rfl (by decide) rfl (fun w => w)

theorem SlotRoundTrip.xShl (x : XArgs) : SlotRoundTrip.Statement (.xShl x) :=
  slot_x _ 9 x rfl (by decide) rfl (fun w => w)

theorem SlotRoundTrip.xShr (x : XArgs) : SlotRoundTrip.Statement (.xShr x) :=
  slot_x _ 10 x rfl (by decide) rfl (fun w => w)

theorem SlotRoundTrip.sar (x : XArgs) : SlotRoundTrip.Statement (.sar x) :=
  slot_x _ 11 x rfl (by decide) rfl (fun w => w)

theorem SlotRoundTrip.xMin (x : XArgs) : SlotRoundTrip.Statement (.xMin x) :=
  slot_x _ 12 x rfl (by decide) rfl (fun w => w)

theorem SlotRoundTrip.xMax (x : XArgs) : SlotRoundTrip.Statement (.xMax x) :=
  slot_x _ 13 x rfl (by decide) rfl (fun w => w)

theorem SlotRoundTrip.minu (x : XArgs) : SlotRoundTrip.Statement (.minu x) :=
  slot_x _ 14 x rfl (by decide) rfl (fun w => w)

theorem SlotRoundTrip.maxu (x : XArgs) : SlotRoundTrip.Statement (.maxu x) :=
  slot_x _ 15 x rfl (by decide) rfl (fun w => w)

theorem SlotRoundTrip.ceq (x : XArgs) : SlotRoundTrip.Statement (.ceq x) :=
  slot_x _ 16 x rfl (by decide) rfl (fun w => w)

theorem SlotRoundTrip.cne (x : XArgs) : SlotRoundTrip.Statement (.cne x) :=
  slot_x _ 17 x rfl (by decide) rfl (fun w => w)

theorem SlotRoundTrip.clt (x : XArgs) : SlotRoundTrip.Statement (.clt x) :=
  slot_x _ 18 x rfl (by decide) rfl (fun w => w)

theorem SlotRoundTrip.cltu (x : XArgs) : SlotRoundTrip.Statement (.cltu x) :=
  slot_x _ 19 x rfl (by decide) rfl (fun w => w)

theorem SlotRoundTrip.cle (x : XArgs) : SlotRoundTrip.Statement (.cle x) :=
  slot_x _ 20 x rfl (by decide) rfl (fun w => w)

theorem SlotRoundTrip.cleu (x : XArgs) : SlotRoundTrip.Statement (.cleu x) :=
  slot_x _ 21 x rfl (by decide) rfl (fun w => w)

theorem SlotRoundTrip.ext (x : XArgs) : SlotRoundTrip.Statement (.ext x) :=
  slot_x _ 22 x rfl (by decide) rfl (fun w => wf_bitField x w)

theorem SlotRoundTrip.exts (x : XArgs) : SlotRoundTrip.Statement (.exts x) :=
  slot_x _ 23 x rfl (by decide) rfl (fun w => wf_bitField x w)

theorem SlotRoundTrip.ins (x : XArgs) : SlotRoundTrip.Statement (.ins x) :=
  slot_x _ 24 x rfl (by decide) rfl (fun w => wf_bitField x w)

theorem SlotRoundTrip.movh (x : XArgs) : SlotRoundTrip.Statement (.movh x) :=
  slot_x _ 25 x rfl (by decide) rfl (fun w => and3_left w)

theorem SlotRoundTrip.rdi (x : XArgs) : SlotRoundTrip.Statement (.rdi x) :=
  slot_x _ 26 x rfl (by decide) rfl (fun w => wf_unary x (and_left w))

theorem SlotRoundTrip.popc (x : XArgs) : SlotRoundTrip.Statement (.popc x) :=
  slot_x _ 27 x rfl (by decide) rfl (fun w => wf_unary x w)

theorem SlotRoundTrip.clz (x : XArgs) : SlotRoundTrip.Statement (.clz x) :=
  slot_x _ 28 x rfl (by decide) rfl (fun w => wf_unary x w)

theorem SlotRoundTrip.ldV (m : MArgs) : SlotRoundTrip.Statement (.ldV m) :=
  slot_m _ 0x01 m rfl (by decide) rfl (fun w => w)

theorem SlotRoundTrip.ldC (m : MArgs) : SlotRoundTrip.Statement (.ldC m) :=
  slot_m _ 0x02 m rfl (by decide) rfl (fun w => w)

theorem SlotRoundTrip.ldD (m : MArgs) : SlotRoundTrip.Statement (.ldD m) :=
  slot_m _ 0x03 m rfl (by decide) rfl (fun w => w)

theorem SlotRoundTrip.ldG (m : MArgs) : SlotRoundTrip.Statement (.ldG m) :=
  slot_m _ 0x04 m rfl (by decide) rfl (fun w => w)

theorem SlotRoundTrip.stV (m : MArgs) : SlotRoundTrip.Statement (.stV m) :=
  slot_m _ 0x05 m rfl (by decide) rfl (fun w => w)

theorem SlotRoundTrip.stC (m : MArgs) : SlotRoundTrip.Statement (.stC m) :=
  slot_m _ 0x06 m rfl (by decide) rfl (fun w => w)

theorem SlotRoundTrip.stD (m : MArgs) : SlotRoundTrip.Statement (.stD m) :=
  slot_m _ 0x07 m rfl (by decide) rfl (fun w => w)

theorem SlotRoundTrip.stG (m : MArgs) : SlotRoundTrip.Statement (.stG m) :=
  slot_m _ 0x08 m rfl (by decide) rfl (fun w => w)

theorem SlotRoundTrip.ldsV (m : MArgs) : SlotRoundTrip.Statement (.ldsV m) :=
  slot_m _ 0x09 m rfl (by decide) rfl (fun w => w)

theorem SlotRoundTrip.ldsG (m : MArgs) : SlotRoundTrip.Statement (.ldsG m) :=
  slot_m _ 0x0A m rfl (by decide) rfl (fun w => w)

theorem SlotRoundTrip.chksV (m : MArgs) : SlotRoundTrip.Statement (.chksV m) :=
  slot_m _ 0x0B m rfl (by decide) rfl (fun w => w)

theorem SlotRoundTrip.chksG (m : MArgs) : SlotRoundTrip.Statement (.chksG m) :=
  slot_m _ 0x0C m rfl (by decide) rfl (fun w => w)

theorem SlotRoundTrip.ldply (m : MArgs) : SlotRoundTrip.Statement (.ldply m) :=
  slot_m _ 0x0D m rfl (by decide) rfl (fun w => w)

theorem SlotRoundTrip.stply (m : MArgs) : SlotRoundTrip.Statement (.stply m) :=
  slot_m _ 0x0E m rfl (by decide) rfl (fun w => w)

theorem SlotRoundTrip.ldcb (m : MArgs) : SlotRoundTrip.Statement (.ldcb m) :=
  slot_m _ 0x0F m rfl (by decide) rfl (fun w => and3_left w)

theorem SlotRoundTrip.ldxV (m : ScalarMemArgs) : SlotRoundTrip.Statement (.ldxV m) :=
  slot_sm _ 0x10 m rfl (by decide) (fun _ => rfl) rfl (fun w => w)

theorem SlotRoundTrip.ldxG (m : ScalarMemArgs) : SlotRoundTrip.Statement (.ldxG m) :=
  slot_sm _ 0x11 m rfl (by decide) (fun _ => rfl) rfl (fun w => w)

theorem SlotRoundTrip.stxV (m : ScalarMemArgs) : SlotRoundTrip.Statement (.stxV m) :=
  slot_sm _ 0x12 m rfl (by decide) (fun _ => rfl) rfl (fun w => and_left w)

theorem SlotRoundTrip.stxG (m : ScalarMemArgs) : SlotRoundTrip.Statement (.stxG m) :=
  slot_sm _ 0x13 m rfl (by decide) (fun _ => rfl) rfl (fun w => and_left w)

theorem SlotRoundTrip.atomAdd (a : AtomArgs) : SlotRoundTrip.Statement (.atomAdd a) :=
  slot_a _ 0x14 a rfl (by decide) (fun _ => rfl) (fun _ => rfl) rfl (fun w => w)

theorem SlotRoundTrip.atomSwap (a : AtomArgs) : SlotRoundTrip.Statement (.atomSwap a) :=
  slot_a _ 0x15 a rfl (by decide) (fun _ => rfl) (fun _ => rfl) rfl (fun w => w)

theorem SlotRoundTrip.atomAnd (a : AtomArgs) : SlotRoundTrip.Statement (.atomAnd a) :=
  slot_a _ 0x16 a rfl (by decide) (fun _ => rfl) (fun _ => rfl) rfl (fun w => w)

theorem SlotRoundTrip.atomOr (a : AtomArgs) : SlotRoundTrip.Statement (.atomOr a) :=
  slot_a _ 0x17 a rfl (by decide) (fun _ => rfl) (fun _ => rfl) rfl (fun w => w)

theorem SlotRoundTrip.atomXor (a : AtomArgs) : SlotRoundTrip.Statement (.atomXor a) :=
  slot_a _ 0x18 a rfl (by decide) (fun _ => rfl) (fun _ => rfl) rfl (fun w => w)

theorem SlotRoundTrip.atomMax (a : AtomArgs) : SlotRoundTrip.Statement (.atomMax a) :=
  slot_a _ 0x19 a rfl (by decide) (fun _ => rfl) (fun _ => rfl) rfl (fun w => w)

theorem SlotRoundTrip.atomMin (a : AtomArgs) : SlotRoundTrip.Statement (.atomMin a) :=
  slot_a _ 0x1A a rfl (by decide) (fun _ => rfl) (fun _ => rfl) rfl (fun w => w)

theorem SlotRoundTrip.atomCas (a : AtomArgs) : SlotRoundTrip.Statement (.atomCas a) :=
  slot_a _ 0x1B a rfl (by decide) (fun _ => rfl) (fun _ => rfl) rfl (fun w => w)

theorem SlotRoundTrip.vfAdd (v : VArgs) : SlotRoundTrip.Statement (.vfAdd v) := slot_bin _ 0 v rfl (by decide) (fun _ => rfl) (fun w => binary_facts v w)

theorem SlotRoundTrip.vfSub (v : VArgs) : SlotRoundTrip.Statement (.vfSub v) := slot_bin _ 1 v rfl (by decide) (fun _ => rfl) (fun w => binary_facts v w)

theorem SlotRoundTrip.vfMul (v : VArgs) : SlotRoundTrip.Statement (.vfMul v) := slot_bin _ 2 v rfl (by decide) (fun _ => rfl) (fun w => binary_facts v w)

theorem SlotRoundTrip.vfFma (v : VArgs) : SlotRoundTrip.Statement (.vfFma v) := slot_bin _ 3 v rfl (by decide) (fun _ => rfl) (fun w => binary_facts v w)

theorem SlotRoundTrip.vfDiv (v : VArgs) : SlotRoundTrip.Statement (.vfDiv v) := slot_bin _ 4 v rfl (by decide) (fun _ => rfl) (fun w => binary_facts v w)

theorem SlotRoundTrip.vfMin (v : VArgs) : SlotRoundTrip.Statement (.vfMin v) := slot_bin _ 5 v rfl (by decide) (fun _ => rfl) (fun w => binary_facts v w)

theorem SlotRoundTrip.vfMax (v : VArgs) : SlotRoundTrip.Statement (.vfMax v) := slot_bin _ 6 v rfl (by decide) (fun _ => rfl) (fun w => binary_facts v w)

theorem SlotRoundTrip.sqrt (v : VArgs) : SlotRoundTrip.Statement (.sqrt v) := slot_un _ 0 v rfl (fun w => binary_facts v (and_left w)) (fun w => unary_sb v 0 w) (fun _ => rfl)

theorem SlotRoundTrip.vfAbs (v : VArgs) : SlotRoundTrip.Statement (.vfAbs v) := slot_un _ 1 v rfl (fun w => binary_facts v (and_left w)) (fun w => unary_sb v 1 w) (fun _ => rfl)

theorem SlotRoundTrip.vfNeg (v : VArgs) : SlotRoundTrip.Statement (.vfNeg v) := slot_un _ 2 v rfl (fun w => binary_facts v (and_left w)) (fun w => unary_sb v 2 w) (fun _ => rfl)

theorem SlotRoundTrip.rcp (v : VArgs) : SlotRoundTrip.Statement (.rcp v) := slot_un _ 3 v rfl (fun w => binary_facts v (and_left w)) (fun w => unary_sb v 3 w) (fun _ => rfl)

theorem SlotRoundTrip.rsqrt (v : VArgs) : SlotRoundTrip.Statement (.rsqrt v) := slot_un _ 4 v rfl (fun w => binary_facts v (and_left w)) (fun w => unary_sb v 4 w) (fun _ => rfl)

theorem SlotRoundTrip.exp (v : VArgs) : SlotRoundTrip.Statement (.exp v) := slot_un _ 5 v rfl (fun w => binary_facts v (and_left w)) (fun w => unary_sb v 5 w) (fun _ => rfl)

theorem SlotRoundTrip.log (v : VArgs) : SlotRoundTrip.Statement (.log v) := slot_un _ 6 v rfl (fun w => binary_facts v (and_left w)) (fun w => unary_sb v 6 w) (fun _ => rfl)

theorem SlotRoundTrip.sin (v : VArgs) : SlotRoundTrip.Statement (.sin v) := slot_un _ 7 v rfl (fun w => binary_facts v (and_left w)) (fun w => unary_sb v 7 w) (fun _ => rfl)

theorem SlotRoundTrip.cos (v : VArgs) : SlotRoundTrip.Statement (.cos v) := slot_un _ 8 v rfl (fun w => binary_facts v (and_left w)) (fun w => unary_sb v 8 w) (fun _ => rfl)

theorem SlotRoundTrip.tanh (v : VArgs) : SlotRoundTrip.Statement (.tanh v) := slot_un _ 9 v rfl (fun w => binary_facts v (and_left w)) (fun w => unary_sb v 9 w) (fun _ => rfl)

theorem SlotRoundTrip.sigmoid (v : VArgs) : SlotRoundTrip.Statement (.sigmoid v) := slot_un _ 10 v rfl (fun w => binary_facts v (and_left w)) (fun w => unary_sb v 10 w) (fun _ => rfl)

theorem SlotRoundTrip.erf (v : VArgs) : SlotRoundTrip.Statement (.erf v) := slot_un _ 11 v rfl (fun w => binary_facts v (and_left w)) (fun w => unary_sb v 11 w) (fun _ => rfl)

theorem SlotRoundTrip.vfCmp (v : VArgs) : SlotRoundTrip.Statement (.vfCmp v) := slot_cmp v

theorem SlotRoundTrip.vfSel (v : VArgs) : SlotRoundTrip.Statement (.vfSel v) := slot_sel v

theorem SlotRoundTrip.cvt (v : VArgs) : SlotRoundTrip.Statement (.cvt v) := slot_cvt v

theorem SlotRoundTrip.pand (v : VArgs) : SlotRoundTrip.Statement (.pand v) := slot_pred _ 0 v rfl (fun w => pred_facts v 0 w) (fun _ => rfl)

theorem SlotRoundTrip.por (v : VArgs) : SlotRoundTrip.Statement (.por v) := slot_pred _ 1 v rfl (fun w => pred_facts v 1 w) (fun _ => rfl)

theorem SlotRoundTrip.pxor (v : VArgs) : SlotRoundTrip.Statement (.pxor v) := slot_pred _ 2 v rfl (fun w => pred_facts v 2 w) (fun _ => rfl)

theorem SlotRoundTrip.pandn (v : VArgs) : SlotRoundTrip.Statement (.pandn v) := slot_pred _ 3 v rfl (fun w => pred_facts v 3 w) (fun _ => rfl)

theorem SlotRoundTrip.porn (v : VArgs) : SlotRoundTrip.Statement (.porn v) := slot_pred _ 4 v rfl (fun w => pred_facts v 4 w) (fun _ => rfl)

theorem SlotRoundTrip.pmov (v : VArgs) : SlotRoundTrip.Statement (.pmov v) := slot_pred _ 5 v rfl (fun w => pred_facts v 5 w) (fun _ => rfl)

theorem SlotRoundTrip.perm (v : VArgs) : SlotRoundTrip.Statement (.perm v) := slot_perm v

theorem SlotRoundTrip.red (v : VArgs) : SlotRoundTrip.Statement (.red v) := slot_red v

theorem SlotRoundTrip.xcopy (v : VArgs) : SlotRoundTrip.Statement (.xcopy v) := slot_xcopy v

theorem SlotRoundTrip.jseed (v : VArgs) : SlotRoundTrip.Statement (.jseed v) := slot_jet _ 0 v rfl (fun w => jet_facts v 0 w) (fun _ => rfl)

theorem SlotRoundTrip.jset (v : VArgs) : SlotRoundTrip.Statement (.jset v) := slot_jet _ 1 v rfl (fun w => jet_facts v 1 w) (fun _ => rfl)

theorem SlotRoundTrip.jget (v : VArgs) : SlotRoundTrip.Statement (.jget v) := slot_jet _ 2 v rfl (fun w => jet_facts v 2 w) (fun _ => rfl)

theorem SlotRoundTrip.jgetD (v : VArgs) : SlotRoundTrip.Statement (.jgetD v) := slot_jet _ 3 v rfl (fun w => jet_facts v 3 w) (fun _ => rfl)

theorem SlotRoundTrip.jdif (v : VArgs) : SlotRoundTrip.Statement (.jdif v) := slot_jet _ 4 v rfl (fun w => jet_facts v 4 w) (fun _ => rfl)

theorem SlotRoundTrip.jint (v : VArgs) : SlotRoundTrip.Statement (.jint v) := slot_jet _ 5 v rfl (fun w => jet_facts v 5 w) (fun _ => rfl)

theorem SlotRoundTrip.flgrd (v : VArgs) : SlotRoundTrip.Statement (.flgrd v) := slot_flgrd v

theorem SlotRoundTrip.flgclr (v : VArgs) : SlotRoundTrip.Statement (.flgclr v) := slot_flgclr v

theorem SlotRoundTrip.viAdd (v : VArgs) : SlotRoundTrip.Statement (.viAdd v) := slot_int _ 0 v rfl (by decide) (fun _ => rfl) (fun w => int_facts v (w))

theorem SlotRoundTrip.viSub (v : VArgs) : SlotRoundTrip.Statement (.viSub v) := slot_int _ 1 v rfl (by decide) (fun _ => rfl) (fun w => int_facts v (w))

theorem SlotRoundTrip.viMul (v : VArgs) : SlotRoundTrip.Statement (.viMul v) := slot_int _ 2 v rfl (by decide) (fun _ => rfl) (fun w => int_facts v (w))

theorem SlotRoundTrip.viAddSat (v : VArgs) : SlotRoundTrip.Statement (.viAddSat v) := slot_int _ 3 v rfl (by decide) (fun _ => rfl) (fun w => int_facts v (w))

theorem SlotRoundTrip.viSubSat (v : VArgs) : SlotRoundTrip.Statement (.viSubSat v) := slot_int _ 4 v rfl (by decide) (fun _ => rfl) (fun w => int_facts v (w))

theorem SlotRoundTrip.viMulSat (v : VArgs) : SlotRoundTrip.Statement (.viMulSat v) := slot_int _ 5 v rfl (by decide) (fun _ => rfl) (fun w => int_facts v (w))

theorem SlotRoundTrip.viMin (v : VArgs) : SlotRoundTrip.Statement (.viMin v) := slot_int _ 6 v rfl (by decide) (fun _ => rfl) (fun w => int_facts v (w))

theorem SlotRoundTrip.viMax (v : VArgs) : SlotRoundTrip.Statement (.viMax v) := slot_int _ 7 v rfl (by decide) (fun _ => rfl) (fun w => int_facts v (w))

theorem SlotRoundTrip.viAnd (v : VArgs) : SlotRoundTrip.Statement (.viAnd v) := slot_int _ 8 v rfl (by decide) (fun _ => rfl) (fun w => int_facts v (w))

theorem SlotRoundTrip.viOr (v : VArgs) : SlotRoundTrip.Statement (.viOr v) := slot_int _ 9 v rfl (by decide) (fun _ => rfl) (fun w => int_facts v (w))

theorem SlotRoundTrip.viXor (v : VArgs) : SlotRoundTrip.Statement (.viXor v) := slot_int _ 10 v rfl (by decide) (fun _ => rfl) (fun w => int_facts v (w))

theorem SlotRoundTrip.viAndn (v : VArgs) : SlotRoundTrip.Statement (.viAndn v) := slot_int _ 11 v rfl (by decide) (fun _ => rfl) (fun w => int_facts v (w))

theorem SlotRoundTrip.viShl (v : VArgs) : SlotRoundTrip.Statement (.viShl v) := slot_int _ 12 v rfl (by decide) (fun _ => rfl) (fun w => int_facts v (w))

theorem SlotRoundTrip.viShr (v : VArgs) : SlotRoundTrip.Statement (.viShr v) := slot_int _ 13 v rfl (by decide) (fun _ => rfl) (fun w => int_facts v (w))

theorem SlotRoundTrip.viCmp (v : VArgs) : SlotRoundTrip.Statement (.viCmp v) := slot_int _ 14 v rfl (by decide) (fun _ => rfl) (fun w => int_facts v (and3_left w))

theorem SlotRoundTrip.viSel (v : VArgs) : SlotRoundTrip.Statement (.viSel v) := slot_int _ 15 v rfl (by decide) (fun _ => rfl) (fun w => int_facts v (and3_left w))

theorem SlotRoundTrip.viMov (v : VArgs) : SlotRoundTrip.Statement (.viMov v) := slot_int _ 16 v rfl (by decide) (fun _ => rfl) (fun w => int_facts v (and_left w))

theorem SlotRoundTrip.viAbs (v : VArgs) : SlotRoundTrip.Statement (.viAbs v) := slot_int _ 17 v rfl (by decide) (fun _ => rfl) (fun w => int_facts v (and_left (and3_left w)))

theorem SlotRoundTrip.viNeg (v : VArgs) : SlotRoundTrip.Statement (.viNeg v) := slot_int _ 18 v rfl (by decide) (fun _ => rfl) (fun w => int_facts v (and3_left w))

theorem SlotRoundTrip.viMulh (v : VArgs) : SlotRoundTrip.Statement (.viMulh v) := slot_int _ 19 v rfl (by decide) (fun _ => rfl) (fun w => int_facts v (w))

theorem SlotRoundTrip.zero (t : TArgs) : SlotRoundTrip.Statement (.zero t) :=
  slot_t _ 1 t rfl (by decide) rfl (fun w => and_left (and_left (and_left (and_left w))))

theorem SlotRoundTrip.push (t : TArgs) : SlotRoundTrip.Statement (.push t) :=
  slot_t _ 2 t rfl (by decide) rfl (fun w => and_left (and_left (and_left (and_left (and_left (and_left w))))))

theorem SlotRoundTrip.shift (t : TArgs) : SlotRoundTrip.Statement (.shift t) :=
  slot_t _ 3 t rfl (by decide) rfl (fun w => and_left (and_left (and_left (and_left w))))

theorem SlotRoundTrip.assayBeat (t : TArgs) : SlotRoundTrip.Statement (.assayBeat t) :=
  slot_t _ 4 t rfl (by decide) rfl (fun w => and_left (and_left (and_left (and_left w))))

theorem SlotRoundTrip.acc (t : TArgs) : SlotRoundTrip.Statement (.acc t) :=
  slot_t _ 5 t rfl (by decide) rfl (fun w => and_left (and_left (and_left (and_left (and_left (and_left (and_left w)))))))

theorem SlotRoundTrip.shiftAcc (t : TArgs) : SlotRoundTrip.Statement (.shiftAcc t) :=
  slot_t _ 6 t rfl (by decide) rfl (fun w => and_left (and_left w))

theorem SlotRoundTrip.assayAcc (t : TArgs) : SlotRoundTrip.Statement (.assayAcc t) :=
  slot_t _ 7 t rfl (by decide) rfl (fun w => and_left (and_left (and_left (and_left (and_left (and_left w))))))

theorem SlotRoundTrip.drain (t : TArgs) : SlotRoundTrip.Statement (.drain t) :=
  slot_t _ 8 t rfl (by decide) rfl (fun w => and_left (and_left (and_left (and_left (and_left w)))))

theorem SlotRoundTrip.copy (e : EArgs) : SlotRoundTrip.Statement (.copy e) :=
  slot_e _ 0x01 e rfl (by decide) rfl (fun w => and_left w)

theorem SlotRoundTrip.tcopy (e : EArgs) : SlotRoundTrip.Statement (.tcopy e) :=
  slot_e _ 0x06 e rfl (by decide) rfl (fun w => and_left w)

theorem SlotRoundTrip.transp (e : EArgs) : SlotRoundTrip.Statement (.transp e) :=
  slot_e _ 0x02 e rfl (by decide) rfl (fun w => and_left w)

theorem SlotRoundTrip.convE (e : EArgs) : SlotRoundTrip.Statement (.convE e) :=
  slot_e _ 0x03 e rfl (by decide) rfl (fun w => and_left (and_left (and_left w)))

theorem SlotRoundTrip.gather (e : EArgs) : SlotRoundTrip.Statement (.gather e) :=
  slot_e _ 0x04 e rfl (by decide) rfl (fun w => and_left w)

theorem SlotRoundTrip.scatter (e : EArgs) : SlotRoundTrip.Statement (.scatter e) :=
  slot_e _ 0x05 e rfl (by decide) rfl (fun w => and_left w)

theorem SlotRoundTrip.hget (e : EArgs) : SlotRoundTrip.Statement (.hget e) :=
  slot_e _ 0x07 e rfl (by decide) rfl (fun w => and_left w)

theorem SlotRoundTrip.hput (e : EArgs) : SlotRoundTrip.Statement (.hput e) :=
  slot_e _ 0x08 e rfl (by decide) rfl (fun w => and_left w)

theorem SlotRoundTrip.fput (e : EArgs) : SlotRoundTrip.Statement (.fput e) :=
  slot_e _ 0x09 e rfl (by decide) rfl (fun w => and_left w)

theorem SlotRoundTrip.fget (e : EArgs) : SlotRoundTrip.Statement (.fget e) :=
  slot_e _ 0x0A e rfl (by decide) rfl (fun w => and_left w)

theorem SlotRoundTrip.fatom (e : EArgs) : SlotRoundTrip.Statement (.fatom e) :=
  slot_e _ 0x0B e rfl (by decide) rfl (fun w => and_left w)

theorem SlotRoundTrip.mcred (e : EArgs) : SlotRoundTrip.Statement (.mcred e) :=
  slot_e _ 0x0C e rfl (by decide) rfl (fun w => and_left w)

theorem SlotRoundTrip.globalStorePerform (core id : Nat) : SlotRoundTrip.Statement (.globalStorePerform core id) := slot_event _ rfl

theorem SlotRoundTrip.stby12Loss : SlotRoundTrip.Statement (.stby12Loss) := slot_event _ rfl

theorem SlotRoundTrip.thermalTrip : SlotRoundTrip.Statement (.thermalTrip) := slot_event _ rfl

theorem SlotRoundTrip.main48Loss : SlotRoundTrip.Statement (.main48Loss) := slot_event _ rfl

theorem SlotRoundTrip.hostLinkReset : SlotRoundTrip.Statement (.hostLinkReset) := slot_event _ rfl

theorem SlotRoundTrip.hostLinkRetrain : SlotRoundTrip.Statement (.hostLinkRetrain) := slot_event _ rfl

theorem SlotRoundTrip.fwHandover : SlotRoundTrip.Statement (.fwHandover) := slot_event _ rfl

theorem SlotRoundTrip.quiesceTmo : SlotRoundTrip.Statement (.quiesceTmo) := slot_event _ rfl

theorem SlotRoundTrip.fwHeartbeat : SlotRoundTrip.Statement (.fwHeartbeat) := slot_event _ rfl

theorem SlotRoundTrip.heartbeatDeadline : SlotRoundTrip.Statement (.heartbeatDeadline) := slot_event _ rfl

theorem SlotRoundTrip.rollbackDeadline : SlotRoundTrip.Statement (.rollbackDeadline) := slot_event _ rfl

theorem SlotRoundTrip.getVersion : SlotRoundTrip.Statement (.getVersion) := slot_event _ rfl

theorem SlotRoundTrip.getCapabilities : SlotRoundTrip.Statement (.getCapabilities) := slot_event _ rfl

theorem SlotRoundTrip.negotiateAlgorithms : SlotRoundTrip.Statement (.negotiateAlgorithms) := slot_event _ rfl

theorem SlotRoundTrip.getDigests : SlotRoundTrip.Statement (.getDigests) := slot_event _ rfl

theorem SlotRoundTrip.getCertificate : SlotRoundTrip.Statement (.getCertificate) := slot_event _ rfl

theorem SlotRoundTrip.challenge : SlotRoundTrip.Statement (.challenge) := slot_event _ rfl

theorem SlotRoundTrip.getMeasurements : SlotRoundTrip.Statement (.getMeasurements) := slot_event _ rfl

theorem SlotRoundTrip.mctpControl : SlotRoundTrip.Statement (.mctpControl) := slot_event _ rfl

theorem SlotRoundTrip.pldmBaseRequest : SlotRoundTrip.Statement (.pldmBaseRequest) := slot_event _ rfl

theorem SlotRoundTrip.pldmIdentity : SlotRoundTrip.Statement (.pldmIdentity) := slot_event _ rfl

theorem SlotRoundTrip.pldmFruRead : SlotRoundTrip.Statement (.pldmFruRead) := slot_event _ rfl

theorem SlotRoundTrip.pldmSpindleReset : SlotRoundTrip.Statement (.pldmSpindleReset) := slot_event _ rfl

theorem SlotRoundTrip.pldmComputeReset : SlotRoundTrip.Statement (.pldmComputeReset) := slot_event _ rfl

theorem SlotRoundTrip.tlbinvDb : SlotRoundTrip.Statement (.tlbinvDb) := slot_event _ rfl

theorem SlotRoundTrip.shootdownComplete : SlotRoundTrip.Statement (.shootdownComplete) := slot_event _ rfl

theorem SlotRoundTrip.heatDecay : SlotRoundTrip.Statement (.heatDecay) := slot_event _ rfl

theorem SlotRoundTrip.pageHeat : SlotRoundTrip.Statement (.pageHeat) := slot_event _ rfl

theorem SlotRoundTrip.migDb : SlotRoundTrip.Statement (.migDb) := slot_event _ rfl

theorem SlotRoundTrip.launchClaim : SlotRoundTrip.Statement (.launchClaim) := slot_event _ rfl

theorem SlotRoundTrip.launchRelease : SlotRoundTrip.Statement (.launchRelease) := slot_event _ rfl

theorem SlotRoundTrip.launchComplete : SlotRoundTrip.Statement (.launchComplete) := slot_event _ rfl

theorem SlotRoundTrip.ladderT1 : SlotRoundTrip.Statement (.ladderT1) := slot_event _ rfl

theorem SlotRoundTrip.ladderT2 : SlotRoundTrip.Statement (.ladderT2) := slot_event _ rfl

theorem SlotRoundTrip.contextSaveDone : SlotRoundTrip.Statement (.contextSaveDone) := slot_event _ rfl

theorem SlotRoundTrip.contextRestart : SlotRoundTrip.Statement (.contextRestart) := slot_event _ rfl

theorem SlotRoundTrip.rowDecay : SlotRoundTrip.Statement (.rowDecay) := slot_event _ rfl

theorem SlotRoundTrip.carderRate : SlotRoundTrip.Statement (.carderRate) := slot_event _ rfl

theorem SlotRoundTrip.skctlClr : SlotRoundTrip.Statement (.skctlClr) := slot_event _ rfl

theorem SlotRoundTrip.sketchQueryDone : SlotRoundTrip.Statement (.sketchQueryDone) := slot_event _ rfl

theorem SlotRoundTrip.dumpComplete : SlotRoundTrip.Statement (.dumpComplete) := slot_event _ rfl

theorem SlotRoundTrip.hostSnoop : SlotRoundTrip.Statement (.hostSnoop) := slot_event _ rfl

theorem SlotRoundTrip.nop : SlotRoundTrip.Statement (.nop) := slot_of _ .c 0 none rfl fun _ => ⟨by decide, rfl⟩

end Sys2Proof.Laws
end

