-- ==== Sys2Proof/Machine/HostRead.lean ====
section
/-! DEFINITION. What a host read of a register of BAR0 returns (03 R45): the identity page (01 R19, 03 R46, 05 R89, R92,
06 R109, 07 R132, 08 R134 to R145), the translation page (03 R60 to R65), the fabric register page (02 R28, R29, R36) and the
queue pages (04 R68 to R70). A read changes nothing. -/

namespace Sys2Proof.Machine

/-- SCANSTAT of one die (07 R132). -/
def State.scanStat (s : State) (die : Nat) : Nat :=
  let d := s.scan die
  d.named.getD 31 % 32 * 2 ^ 11 + b2n d.scanning.isSome * 2 ^ 10 + b2n d.stopped * 2 ^ 9 + d.rot % 512

/-- RHDATA: the row-health map that RHSEL selects (07 R132). -/
def State.rhData (s : State) : Nat :=
  let n := s.physCore (bits s.reliab.rhsel.toNat 8 8)
  let row (r : Nat) : Nat := (Store.read s.reliab.rows (128 * n + r)).toNat
  let spares := s.reliab.spares.filter fun x => x.1 = n
  let spare (k : Nat) : Nat := (spares[k]?.map fun x => x.2).getD 255
  match bits s.reliab.rhsel.toNat 0 3 with
  | 4 => row 64
  | 5 => b2n (s.reliab.pendingRows.any fun x => x.1 = n) * 2 ^ 16 + spare 1 * 2 ^ 8 + spare 0
  | 6 => 0
  | 7 => 0
  | g => (List.range 16).foldl (fun a k => a + row (16 * g + k) * 2 ^ (4 * k)) 0

/-- FWSTAT (05 R92). -/
def State.fwStat (s : State) : Nat :=
  s.fw.actver % 2 ^ 16 * 2 ^ 48 + s.fw.pendver % 2 ^ 16 * 2 ^ 32 + s.fw.err % 16 * 2 ^ 20 + s.fw.actslot % 2 * 2 ^ 16
    + s.fw.state % 16

/-- DBGSTAT (08 R134): STOPPED tells whether the core named stands in a debug stop now. -/
def State.dbgStatus (s : State) : Word := (s.dbg.dbgstat &&& ~~~1#64) ||| BitVec.ofNat 64 (b2n (s.inDebug s.dbg.stoppedCore))

/-- A register of the device identity page; write-only registers and offsets that hold none read 0. -/
def State.idRead (s : State) (o : Nat) : Nat :=
  let r := s.reliab
  let d := s.dbg
  match o with
  | 0x000 => s.modid
  | 0x008 => s.devstat
  | 0x100 => s.nq.base.toNat
  | 0x108 => s.nq.cfg.toNat
  | 0x110 => s.nq.prod
  | 0x118 => s.nq.cons
  | 0x120 => s.nq.lost
  | 0x140 => s.fw.fwimg.toNat
  | 0x150 => s.fwStat
  | 0x180 => s.ctxsave.toNat
  | 0x200 => r.relcfg.toNat
  | 0x208 => s.scanStat 0 + s.scanStat 1 * 2 ^ 16 + s.scanStat 2 * 2 ^ 32 + s.scanStat 3 * 2 ^ 48
  | 0x210 => r.cardThr.toNat
  | 0x218 => r.ue % 2 ^ 16 * 2 ^ 48 + r.late % 2 ^ 16 * 2 ^ 32 + r.ce % 2 ^ 32
  | 0x220 => r.ueaddr.toNat
  | 0x228 => r.ueinfo.toNat
  | 0x230 => r.rhsel.toNat
  | 0x238 => s.rhData
  | 0x308 => s.dbgStatus.toNat
  | 0x310 => (d.bps.getD 0 0).toNat
  | 0x318 => (d.bps.getD 1 0).toNat
  | 0x320 => (d.bps.getD 2 0).toNat
  | 0x328 => (d.bps.getD 3 0).toNat
  | 0x330 => d.trc.base.toNat
  | 0x338 => d.trc.cfg.toNat
  | 0x340 => d.trc.prod
  | 0x348 => d.trc.cons
  | 0x350 => d.trc.lost
  | 0x358 => d.seed.toNat
  | 0x360 => d.skctl.toNat
  | 0x370 => d.skqest.toNat
  | 0x378 => d.dumpVa.toNat
  | 0x380 => d.dumpCtl.toNat
  | 0x388 => d.dumpStat.toNat
  | 0x390 => d.upsetCtl.toNat
  | 0x398 => d.upsetStat.toNat
  | _ => 0

/-- A register of the translation page (03 R60, R64, R65). What a doorbell rejects for a reserved bit stands in the register, and
reads as 0 (00 R9). -/
def State.xlateRead (s : State) (o : Nat) : Nat :=
  let x := s.xlate
  match o with
  | 0x000 => x.fabroot
  | 0x008 => (x.tlbinvVa &&& 0x1FFFFFFFFFFF000#64).toNat
  | 0x010 => (x.tlbinvCtl &&& 0xFFFFFFFFCFFF#64).toNat
  | 0x020 => x.issued
  | 0x028 => x.doneCnt
  | 0x030 => x.heatCfg.toNat
  | 0x038 => x.drop % 2 ^ 16 * 2 ^ 48 + x.evict % 2 ^ 16 * 2 ^ 32 + x.heat.length
  | 0x040 => (x.migVa &&& 0x1FFFFFFFFFFF000#64).toNat
  | 0x048 => (x.migCtl &&& 0x3CFFF#64).toNat
  | 0x050 => (x.migPa &&& 0xFFFFFFFFFF000#64).toNat
  | 0x060 => (x.migstat.getD 0 0).toNat
  | 0x068 => (x.migstat.getD 1 0).toNat
  | 0x070 => (x.migstat.getD 2 0).toNat
  | 0x078 => (x.migstat.getD 3 0).toNat
  | _ => 0

/-- PORTSTAT of a port (02 R28). -/
def Port.stat (p : Port) : Nat :=
  p.retry % 2 ^ 16 * 2 ^ 48 + p.badflit % 2 ^ 16 * 2 ^ 32 + p.peerPkg % 2 ^ 11 * 2 ^ 13 + p.peerPort % 32 * 2 ^ 8
    + b2n p.half * 4 + p.state % 4

/-- Word 0 of an entry of the group table (02 R36). -/
def Fabric.groupWord0 (f : Fabric) (g : Nat) : Nat :=
  let e := f.entry g
  b2n e.valid * 2 ^ 63 + b2n (f.busy g) * 2 ^ 62 + e.parent % 32 * 2 ^ 57 + e.rank % 2 ^ 11 * 2 ^ 46 + e.size % 2 ^ 11 * 2 ^ 35

/-- Word 1 of an entry of the group table (02 R36). -/
def Fabric.groupWord1 (f : Fabric) (g : Nat) : Nat :=
  let e := f.entry g
  e.child % 2 ^ 24 * 2 ^ 40 + e.gtmo % 2 ^ 20 * 2 ^ 20 + e.seq % 2 ^ 16 * 2 ^ 4

/-- A word of the fabric register page: PORTSTAT, FABID, the routing table by pairs of entries, the group table. -/
def State.fabricRead (s : State) (o : Nat) : Nat :=
  let f := s.fabric
  if o < 0xC0 then (s.port (o / 8)).stat
  else if o = 0xC0 then f.fabid % 2 ^ 11
  else if 0x1000 ≤ o && o < 0x3000 then
    let k := (o - 0x1000) / 8
    (Store.read f.routes (2 * k)).toNat + (Store.read f.routes (2 * k + 1)).toNat * 2 ^ 32
  else if 0x4000 ≤ o && o < 0x6000 then
    let g := (o - 0x4000) / 32
    match o % 32 with
    | 0 => f.groupWord0 g
    | 8 => f.groupWord1 g
    | _ => 0
  else 0

/-- A register of a queue page (04 R68). A reserved bit, for which CREATE rejects (04 R71), reads as 0 (00 R9). -/
def State.queueRead (s : State) (n o : Nat) : Nat :=
  let q := s.queue n
  match o with
  | 0x000 => (q.qbase &&& 0x7FFFFFF000#64).toNat
  | 0x008 => (q.qcfg &&& 0x1FFDF#64).toNat
  | 0x010 => q.qroot.toNat
  | 0x018 => q.qrsv.toNat
  | 0x028 => q.qtail
  | 0x030 => q.qhead
  | 0x038 => (s.qstat n).toNat
  | _ => 0

/-- A host read of BAR0 (03 R45): none is the unsupported request of an access that is no aligned 64-bit word; an offset
that the layout does not list reads 0. -/
def State.barRead (s : State) (off size : Nat) : Option Word :=
  if size ≠ 8 || off % 8 ≠ 0 then none
  else some (BitVec.ofNat 64 (
    if off < 0x1000 then s.idRead off
    else if off < 0x2000 then s.xlateRead (off - 0x1000)
    else if 0x10000 ≤ off && off < 0x16000 then s.fabricRead (off - 0x10000)
    else if 0x100000 ≤ off && off < 0x500000 then s.queueRead ((off - 0x100000) / 4096) (off % 4096)
    else 0))

end Sys2Proof.Machine
end

