-- ==== Sys2Proof/Tests/Slice0.lean ====
section
/-! SUPPORT. Tests: ill-formed terms that WellFormed refuses, slot values from the manual, and for each statement states and
operands that meet its hypotheses, with what the rules give for them. -/

set_option Elab.async false

namespace Sys2Proof.Tests
open Sys2Proof Sys2Proof.Machine

/-! WellFormed refuses an ill-formed term for each of its checks. -/

def g0 : Guard := ⟨0, false⟩
def x0 : XArgs := ⟨g0, 1, 2, false, 3, none⟩
def m0 : MArgs := ⟨false, g0, 16, 2, 1, 0, none⟩
def sm0 : ScalarMemArgs := ⟨false, g0, 5, 3, false, 1, 0, none⟩
def a0 : AtomArgs := ⟨false, g0, 5, 3, 0, 1, 0, 6, none⟩
def v0 : VArgs := ⟨false, g0, 0, false, 8, 32, 8, 64, 96⟩
def t0 : TArgs := ⟨g0, false, false, false, false, false, 0, 0, 0⟩
def e0 : EArgs := ⟨g0, 1, 2, 3, 0, false, 0, none⟩
def p0 : Packet := ⟨1, 3, 0, 7, 0, 7, false, 9, 0, 0, 0x5000, 6, 2, 0, 8, 0, 0, 0, [1, 2, 3, 4, 5, 6, 7, 8]⟩

/-- C slot: guard, predicate, scalars, address, counts, body length, core and flag, register numbers. -/
theorem test_wf_c : ([.br ⟨64, false⟩ false 1 2, .br g0 false 128 2, .br g0 false 1 65536, .brs g0 false false 64 2,
    .call g0 65536, .loop g0 true 8192 2, .loop g0 false 64 2, .loop g0 true 1 65536, .spool g0 64 1 2, .spool g0 1 64 2,
    .rep g0 true 8192, .rdv g0 64 1 0 0, .rdv g0 1 64 0 0, .rdv g0 1 2 256 0, .rdv g0 1 2 0 256, .selv g0 65536,
    .setf g0 true 256 1, .setf g0 true 1 64, .waitf g0 true 64, .halt ⟨64, true⟩, .movc g0 64 0, .movc g0 1 8,
    .rdc g0 64 0, .rdc g0 1 256] : List Instr).all (fun i => !i.wf) = true := by decide

/-- X slot: fields, literals, the unclaimed I = 0, the bit-field layout, movh, rdi, popc. -/
theorem test_wf_x : ([.xAdd { x0 with guard := ⟨64, false⟩ }, .xAdd { x0 with dst := 64 }, .xAdd { x0 with sa := 64 },
    .xAdd { x0 with sb := 64 }, .xAdd { x0 with imm := true, sb := 32768 }, .xAdd { x0 with lit := some 5 },
    .xAdd { x0 with imm := true, sb := 1, lit := some 5 }, .xAdd { x0 with imm := true, sb := 0, lit := some 4294967296 },
    .ext x0, .ext { x0 with imm := true, sb := 33 + 64 * 31 }, .ext { x0 with imm := true, sb := 4096 }, .movh x0,
    .movh { x0 with imm := true, sa := 1 }, .rdi { x0 with sb := 0, sa := 6 }, .popc x0, .clz { x0 with imm := true, sb := 0 }]
    : List Instr).all (fun i => !i.wf) = true := by decide

/-- M slots: fields, a claimed OFF, ldcb, stx and the atomics' sizes. -/
theorem test_wf_m : ([.ldV { m0 with guard := ⟨64, false⟩ }, .ldV { m0 with ply := 2048 }, .ldC { m0 with w := 16 },
    .ldD { m0 with base := 64 }, .stG { m0 with off := 16384 }, .stV { m0 with off := 1, lit := some 1 },
    .ldcb m0, .ldcb { m0 with ply := 0 }, .ldxV { sm0 with reg := 64 }, .ldxG { sm0 with size := 4 }, .stxV { sm0 with sgn := true },
    .stxG { sm0 with base := 64 }, .atomAdd { a0 with size := 1 }, .atomCas { a0 with level := 4 }, .atomOr { a0 with off := 256 },
    .atomOr { a0 with off := 1, lit := some 0 }, .atomMin { a0 with src := 64 }] : List Instr).all (fun i => !i.wf) = true := by
  decide

/-- V slots: fields and widths, the functions, conditions, conversions, predicate forms, perm, red, xcopy, jets, flags, integers. -/
theorem test_wf_v : ([.vfAdd { v0 with guard := ⟨64, false⟩ }, .vfAdd v0, .vfAdd { v0 with sub := 4 }, .sqrt { v0 with sub := 1 },
    .vfCmp { v0 with sub := 1, dw := 0, dst := 128 }, .vfCmp { v0 with sub := 1, dw := 8 }, .vfSel { v0 with sub := 1, b := true },
    .cvt { v0 with sb := 0x009 }, .cvt { v0 with sb := 0x50A }, .cvt { v0 with sb := 0x081, dw := 0 }, .pand v0,
    .pmov { v0 with dw := 5, sw := 0, dst := 1, sa := 1, sb := 1 }, .perm { v0 with sb := 0x600 }, .perm { v0 with sb := 0x010 },
    .red { v0 with sb := 0x720 }, .red { v0 with sb := 0x320 }, .xcopy { v0 with sb := 0x600 }, .jseed { v0 with sub := 1, sb := 1 },
    .jget { v0 with sub := 1, sb := 0x208 }, .flgrd v0, .flgclr v0, .viAdd { v0 with sub := 2 }, .viCmp { v0 with dw := 6 },
    .viSel { v0 with b := true }, .viMov { v0 with sb := 1 }, .viMov { v0 with b := true, sw := 0 },
    .viAbs { v0 with sub := 1, sb := 0 }, .viNeg { v0 with sb := 1 }] : List Instr).all (fun i => !i.wf) = true := by decide

/-- T and E slots. -/
theorem test_wf_te : ([.zero { t0 with desc := 1 }, .zero { t0 with neg := true }, .push { t0 with row := 64 },
    .push { t0 with aux := 1 }, .shift { t0 with ow := true }, .shift { t0 with row := 1 }, .assayBeat { t0 with aux := 16 },
    .acc { t0 with desc := 4 }, .acc { t0 with cks := true, aux := 16 }, .shiftAcc { t0 with aux := 4 },
    .shiftAcc { t0 with cks := true, row := 1 }, .assayAcc { t0 with aux := 4 }, .drain { t0 with ow := true },
    .drain { t0 with cks := true, desc := 4 }, .drain { t0 with desc := 16 }, .copy { e0 with cf := 4 }, .copy { e0 with sa := 64 },
    .copy { e0 with ofs := 1024 }, .copy { e0 with lit := some 1 }, .tcopy { e0 with cf := 2 }, .transp { e0 with cf := 3 },
    .convE { e0 with cf := 5 }, .gather { e0 with cf := 32 }, .scatter { e0 with cf := 32 }, .hget { e0 with cf := 1 },
    .hput { e0 with cf := 2 }, .fput { e0 with cf := 2 }, .fget { e0 with cf := 1 }, .fatom { e0 with cf := 16 },
    .mcred { e0 with cf := 1 }] : List Instr).all (fun i => !i.wf) = true := by decide

/-- Events: ports, queues, cores, dies, groups, packets and the rest. -/
theorem test_wf_events : ([.powerUp { BootInput.standard with ports := [(24, 1, 1)] }, .registerWrite 16777216 8 0,
    .qcmdCreate 1024, .launch 1024, .tellerTrapEvent 256, .engineComplete 256 0, .linkEvent 24, .heartbeat 24 p0,
    .routeUpdate 25 p0 [], .packageLoss 2048 0, .packageLoss 0 (2 ^ 24), .fabricWrite { p0 with port := 25 },
    .ack { p0 with tag := 4096 }, .readReq { p0 with addr := 2 ^ 57 }, .reduceContrib { p0 with seq := 65536 }, .ackTimeout 4096,
    .groupTimerExpiry 256, .groupEntryWrite 256 0 0, .groupEntryWrite 0 2 0, .migrationCopy 4, .scanName 4, .scanInPlace 0 17,
    .dbgHold 65536, .rdvRoundRelease 0 256, .powerLimitHold 3] : List Instr).all (fun i => !i.wf) = true := by decide +kernel

/-! Decoding: a word of every slot instruction, written from its row of 14 R251 to R258. -/

/-- The words decode to the instructions beside them. -/
def decodesAll (s : Slot) (l : List (Nat × Instr)) : Bool := l.all fun p => (decodeSlot s p.1 none).toOption == some p.2

/-- 14 R251: OP in [36:30], operands in [29:0]. -/
theorem test_decode_c : decodesAll .c [
    (1 * 2 ^ 30 + 0x850007, .br g0 true 5 7), (2 * 2 ^ 30 + 0x430007, .brs g0 false true 3 7), (3 * 2 ^ 30 + 0x7, .call g0 7),
    (4 * 2 ^ 30 + 0, .ret g0), (5 * 2 ^ 30 + 0x20050007, .loop g0 true 5 7), (5 * 2 ^ 30 + 0x50007, .loop g0 false 5 7),
    (6 * 2 ^ 30 + 0x3020007, .spool g0 3 2 7), (7 * 2 ^ 30 + 0x20050000, .rep g0 true 5), (7 * 2 ^ 30 + 0x50000, .rep g0 false 5),
    (8 * 2 ^ 30 + 0xC40103, .rdv g0 3 4 1 3), (9 * 2 ^ 30 + 7, .selv g0 7), (10 * 2 ^ 30 + 0x414007, .setf g0 true 5 7),
    (11 * 2 ^ 30 + 0x47, .waitf g0 true 7), (12 * 2 ^ 30 + 0, .ppt g0), (13 * 2 ^ 30 + 0, .pptScan g0), (14 * 2 ^ 30 + 0, .relPkg g0),
    (15 * 2 ^ 30 + 0, .relSys g0), (16 * 2 ^ 30 + 0, .fenceE g0), (17 * 2 ^ 30 + 0, .rfence g0), (18 * 2 ^ 30 + 0x520, .movc g0 5 32),
    (19 * 2 ^ 30 + 0x520, .rdc g0 5 32), (20 * 2 ^ 30 + 0, .brk g0), (21 * 2 ^ 30 + 0, .eret g0), (22 * 2 ^ 30 + 0, .halt g0)] = true := by decide +kernel

/-- 14 R252: OP in [32:27], DST in [26:21], SA in [20:15], SB in [14:0]; DST 1, SA 2, SB 3. -/
def wordX (op : Nat) : Nat := op * 2 ^ 27 + 1 * 2 ^ 21 + 2 * 2 ^ 15 + 3
/-- The X slot: OP 2·base + I. -/
theorem test_decode_x : decodesAll .x [
    (wordX 2, .xAdd x0), (wordX 4, .xSub x0), (wordX 6, .xMul x0), (wordX 8, .mulhu x0), (wordX 10, .mulhs x0), (wordX 12, .xAnd x0),
    (wordX 14, .xOr x0), (wordX 16, .xXor x0), (wordX 18, .xShl x0), (wordX 20, .xShr x0), (wordX 22, .sar x0), (wordX 24, .xMin x0),
    (wordX 26, .xMax x0), (wordX 28, .minu x0), (wordX 30, .maxu x0), (wordX 32, .ceq x0), (wordX 34, .cne x0), (wordX 36, .clt x0),
    (wordX 38, .cltu x0), (wordX 40, .cle x0), (wordX 42, .cleu x0), (0x2D * 2 ^ 27 + 0x3 * 2 ^ 6 + 5, .ext ⟨g0, 0, 0, true, 197, none⟩),
    (0x2F * 2 ^ 27 + 0x3 * 2 ^ 6 + 5, .exts ⟨g0, 0, 0, true, 197, none⟩),
    (0x31 * 2 ^ 27 + 0x3 * 2 ^ 6 + 5, .ins ⟨g0, 0, 0, true, 197, none⟩), (0x33 * 2 ^ 27 + 2 ^ 21 + 9, .movh ⟨g0, 1, 0, true, 9, none⟩),
    (0x34 * 2 ^ 27 + 2 ^ 21 + 5 * 2 ^ 15, .rdi ⟨g0, 1, 5, false, 0, none⟩),
    (0x36 * 2 ^ 27 + 2 ^ 21 + 2 * 2 ^ 15, .popc ⟨g0, 1, 2, false, 0, none⟩),
    (0x38 * 2 ^ 27 + 2 ^ 21 + 2 * 2 ^ 15, .clz ⟨g0, 1, 2, false, 0, none⟩), (0x03 * 2 ^ 27 + 0x7FFF, .xAdd ⟨g0, 0, 0, true, 0x7FFF, none⟩)] = true := by decide +kernel

/-- 14 R253: OP in [40:35], PLY in [34:24], W in [23:20], BASE in [19:14], OFF in [13:0]; PLY 16, W 2, BASE 1. -/
def wordM (op : Nat) : Nat := op * 2 ^ 35 + 16 * 2 ^ 24 + 2 * 2 ^ 20 + 1 * 2 ^ 14
/-- The M slots. -/
theorem test_decode_m : decodesAll .m0 [
    (wordM 1, .ldV m0), (wordM 2, .ldC m0), (wordM 3, .ldD m0), (wordM 4, .ldG m0), (wordM 5, .stV m0), (wordM 6, .stC m0),
    (wordM 7, .stD m0), (wordM 8, .stG m0), (wordM 9, .ldsV m0), (wordM 10, .ldsG m0), (wordM 11, .chksV m0), (wordM 12, .chksG m0),
    (wordM 13, .ldply m0), (wordM 14, .stply m0), (0x0F * 2 ^ 35 + 2 ^ 14, .ldcb ⟨false, g0, 0, 0, 1, 0, none⟩),
    (0x10 * 2 ^ 35 + 5 * 2 ^ 24 + 0xE * 2 ^ 20 + 2 ^ 14, .ldxV { sm0 with sgn := true }),
    (0x11 * 2 ^ 35 + 5 * 2 ^ 24 + 0xC * 2 ^ 20 + 2 ^ 14, .ldxG sm0), (0x12 * 2 ^ 35 + 5 * 2 ^ 24 + 0xC * 2 ^ 20 + 2 ^ 14, .stxV sm0),
    (0x13 * 2 ^ 35 + 5 * 2 ^ 24 + 0xC * 2 ^ 20 + 2 ^ 14, .stxG sm0),
    (0x14 * 2 ^ 35 + 5 * 2 ^ 24 + 0xD * 2 ^ 20 + 2 ^ 14 + 6, .atomAdd { a0 with level := 1 }),
    (0x15 * 2 ^ 35 + 5 * 2 ^ 24 + 0xD * 2 ^ 20 + 2 ^ 14 + 6, .atomSwap { a0 with level := 1 }),
    (0x16 * 2 ^ 35 + 5 * 2 ^ 24 + 0xD * 2 ^ 20 + 2 ^ 14 + 6, .atomAnd { a0 with level := 1 }),
    (0x17 * 2 ^ 35 + 5 * 2 ^ 24 + 0xD * 2 ^ 20 + 2 ^ 14 + 6, .atomOr { a0 with level := 1 }),
    (0x18 * 2 ^ 35 + 5 * 2 ^ 24 + 0xD * 2 ^ 20 + 2 ^ 14 + 6, .atomXor { a0 with level := 1 }),
    (0x19 * 2 ^ 35 + 5 * 2 ^ 24 + 0xD * 2 ^ 20 + 2 ^ 14 + 6, .atomMax { a0 with level := 1 }),
    (0x1A * 2 ^ 35 + 5 * 2 ^ 24 + 0xD * 2 ^ 20 + 2 ^ 14 + 6, .atomMin { a0 with level := 1 }),
    (0x1B * 2 ^ 35 + 5 * 2 ^ 24 + 0xD * 2 ^ 20 + 2 ^ 14 + 6, .atomCas { a0 with level := 1 })] = true := by decide +kernel

/-- 14 R254: OP in [48:41], DW in [40:37], DST in [36:26], SW in [25:22], SA in [21:11], SB in [10:0]. -/
def wordV (op dw dst sw sa sb : Nat) : Nat := op * 2 ^ 41 + dw * 2 ^ 37 + dst * 2 ^ 26 + sw * 2 ^ 22 + sa * 2 ^ 11 + sb
def vOf32 (sb : Nat) : VArgs := { v0 with sub := 1, sb := sb }
def vInt (dw sw sb : Nat) : VArgs := { v0 with dw := dw, sw := sw, sb := sb }
/-- Float, conversion and jet forms: B = 0x08 + 4·op + format, 0x24 unary, 0x28 compare, 0x2C select, 0x30, 0x38. -/
theorem test_decode_vf : decodesAll .v0 [
    (wordV 0x12 8 32 8 64 96, .vfAdd (vOf32 96)), (wordV 0x1A 8 32 8 64 96, .vfSub (vOf32 96)),
    (wordV 0x22 8 32 8 64 96, .vfMul (vOf32 96)), (wordV 0x2A 8 32 8 64 96, .vfFma (vOf32 96)),
    (wordV 0x32 8 32 8 64 96, .vfDiv (vOf32 96)), (wordV 0x3A 8 32 8 64 96, .vfMin (vOf32 96)),
    (wordV 0x42 8 32 8 64 96, .vfMax (vOf32 96)), (wordV 0x4A 8 32 8 64 0, .sqrt (vOf32 0)), (wordV 0x4A 8 32 8 64 1, .vfAbs (vOf32 1)),
    (wordV 0x4A 8 32 8 64 2, .vfNeg (vOf32 2)), (wordV 0x4A 8 32 8 64 3, .rcp (vOf32 3)), (wordV 0x4A 8 32 8 64 4, .rsqrt (vOf32 4)),
    (wordV 0x4A 8 32 8 64 5, .exp (vOf32 5)), (wordV 0x4A 8 32 8 64 6, .log (vOf32 6)), (wordV 0x4A 8 32 8 64 7, .sin (vOf32 7)),
    (wordV 0x4A 8 32 8 64 8, .cos (vOf32 8)), (wordV 0x4A 8 32 8 64 9, .tanh (vOf32 9)), (wordV 0x4A 8 32 8 64 10, .sigmoid (vOf32 10)),
    (wordV 0x4A 8 32 8 64 11, .erf (vOf32 11)), (wordV 0x52 7 9 8 64 96, .vfCmp { vOf32 96 with dw := 7, dst := 9 }),
    (wordV 0x5A 8 32 8 64 9, .vfSel (vOf32 9)), (wordV 0x60 4 32 8 64 0x11, .cvt { v0 with dw := 4, sb := 0x11 }),
    (wordV 0x62 4 32 8 64 0x39, .cvt { v0 with sub := 1, dw := 4, sb := 0x39 }), (wordV 0x72 8 32 8 64 0x0, .jseed (vOf32 0x0)),
    (wordV 0x72 8 32 8 64 0x107, .jset (vOf32 0x107)), (wordV 0x72 8 32 8 64 0x207, .jget (vOf32 0x207)),
    (wordV 0x72 8 32 8 64 0x307, .jgetD (vOf32 0x307)), (wordV 0x72 8 32 8 64 0x400, .jdif (vOf32 0x400)),
    (wordV 0x72 8 32 8 64 0x500, .jint (vOf32 0x500))] = true := by decide +kernel

/-- Predicate, lane, flag and integer forms: 0x64, 0x66, 0x68, 0x6A, 0x78, 0x7A, and 0x80 + 4·op + 2·s + I. -/
theorem test_decode_vi : decodesAll .v0 [
    (wordV 0x64 0 5 0 6 7, .pand { v0 with dw := 0, dst := 5, sw := 0, sa := 6, sb := 7 }),
    (wordV 0x64 1 5 0 6 7, .por { v0 with dw := 1, dst := 5, sw := 0, sa := 6, sb := 7 }),
    (wordV 0x64 2 5 0 6 7, .pxor { v0 with dw := 2, dst := 5, sw := 0, sa := 6, sb := 7 }),
    (wordV 0x64 3 5 0 6 7, .pandn { v0 with dw := 3, dst := 5, sw := 0, sa := 6, sb := 7 }),
    (wordV 0x64 4 5 0 6 7, .porn { v0 with dw := 4, dst := 5, sw := 0, sa := 6, sb := 7 }),
    (wordV 0x64 5 5 0 6 0, .pmov { v0 with dw := 5, dst := 5, sw := 0, sa := 6, sb := 0 }),
    (wordV 0x66 8 32 8 64 0x105, .perm (vInt 8 8 0x105)), (wordV 0x6A 8 32 8 64 0x205, .xcopy (vInt 8 8 0x205)),
    (wordV 0x68 8 32 8 64 0x020, .red (vInt 8 8 0x020)), (wordV 0x78 10 32 0 0 0, .flgrd { v0 with dw := 10, sw := 0, sa := 0, sb := 0 }),
    (wordV 0x7A 0 0 10 64 0, .flgclr { v0 with dw := 0, dst := 0, sw := 10, sb := 0 }), (wordV 0x80 3 32 5 64 96, .viAdd (vInt 3 5 96)),
    (wordV 0x84 3 32 5 64 96, .viSub (vInt 3 5 96)), (wordV 0x88 3 32 5 64 96, .viMul (vInt 3 5 96)),
    (wordV 0x8C 3 32 5 64 96, .viAddSat (vInt 3 5 96)), (wordV 0x90 3 32 5 64 96, .viSubSat (vInt 3 5 96)),
    (wordV 0x94 3 32 5 64 96, .viMulSat (vInt 3 5 96)), (wordV 0x98 3 32 5 64 96, .viMin (vInt 3 5 96)),
    (wordV 0x9C 3 32 5 64 96, .viMax (vInt 3 5 96)), (wordV 0xA0 3 32 5 64 96, .viAnd (vInt 3 5 96)),
    (wordV 0xA4 3 32 5 64 96, .viOr (vInt 3 5 96)), (wordV 0xA8 3 32 5 64 96, .viXor (vInt 3 5 96)),
    (wordV 0xAC 3 32 5 64 96, .viAndn (vInt 3 5 96)), (wordV 0xB0 3 32 5 64 96, .viShl (vInt 3 5 96)),
    (wordV 0xB4 3 32 5 64 96, .viShr (vInt 3 5 96)), (wordV 0xB8 5 9 8 64 96, .viCmp { v0 with dw := 5, dst := 9 }),
    (wordV 0xBC 3 32 5 64 9, .viSel (vInt 3 5 9)), (wordV 0xC0 3 32 5 64 0, .viMov (vInt 3 5 0)),
    (wordV 0xC4 3 32 5 64 0, .viAbs (vInt 3 5 0)), (wordV 0xC8 3 32 5 64 0, .viNeg (vInt 3 5 0)),
    (wordV 0xCC 3 32 5 64 96, .viMulh (vInt 3 5 96)), (wordV 0xB7 3 32 5 64 0x7FF, .viShr { vInt 3 5 0x7FF with sub := 1, b := true })] = true := by decide +kernel

/-- Beats that the manual writes out (13, 19 to 22), with zero and assay by 14 R257. -/
theorem test_decode_t : decodesAll .t [
    (2 ^ 29, .zero t0), (0x0040104020, .push { t0 with desc := 1, row := 2, aux := 32 }), (0x0060000010, .shift { t0 with aux := 16 }),
    (4 * 2 ^ 29, .assayBeat t0), (0x00A2000020, .acc { t0 with ow := true, aux := 32 }),
    (0x00A3000000, .acc { t0 with ow := true, cks := true }),
    (0x00D2012090, .shiftAcc { t0 with neg := true, ow := true, row := 9, aux := 144 }),
    (0x00E3000000, .assayAcc { t0 with ow := true, cks := true }), (0x0100004022, .drain { t0 with row := 2, aux := 34 }),
    (0x0101000042, .drain { t0 with cks := true, aux := 66 })] = true := by decide +kernel

/-- 14 R258: OP in [40:35], SA, SB, SC, OFS, POST, CF. -/
theorem test_decode_e : decodesAll .e [
    (1 * 2 ^ 35 + 1 * 2 ^ 29 + 2 * 2 ^ 23 + 3 * 2 ^ 17, .copy e0), (2 * 2 ^ 35 + 1 * 2 ^ 29 + 2 * 2 ^ 23 + 3 * 2 ^ 17, .transp e0),
    (3 * 2 ^ 35 + 1 * 2 ^ 29 + 2 * 2 ^ 23 + 3 * 2 ^ 17, .convE e0), (4 * 2 ^ 35 + 1 * 2 ^ 29 + 2 * 2 ^ 23 + 3 * 2 ^ 17, .gather e0),
    (5 * 2 ^ 35 + 1 * 2 ^ 29 + 2 * 2 ^ 23 + 3 * 2 ^ 17, .scatter e0), (6 * 2 ^ 35 + 1 * 2 ^ 29 + 2 * 2 ^ 23 + 3 * 2 ^ 17, .tcopy e0),
    (7 * 2 ^ 35 + 1 * 2 ^ 29 + 2 * 2 ^ 23 + 3 * 2 ^ 17, .hget e0), (8 * 2 ^ 35 + 1 * 2 ^ 29 + 2 * 2 ^ 23 + 3 * 2 ^ 17, .hput e0),
    (9 * 2 ^ 35 + 1 * 2 ^ 29 + 2 * 2 ^ 23 + 3 * 2 ^ 17, .fput e0), (10 * 2 ^ 35 + 1 * 2 ^ 29 + 2 * 2 ^ 23 + 3 * 2 ^ 17, .fget e0),
    (11 * 2 ^ 35 + 1 * 2 ^ 29 + 2 * 2 ^ 23 + 3 * 2 ^ 17, .fatom e0), (12 * 2 ^ 35 + 1 * 2 ^ 29 + 2 * 2 ^ 23 + 3 * 2 ^ 17, .mcred e0),
    (2 ^ 35 + 1 * 2 ^ 29 + 2 * 2 ^ 23 + 3 * 2 ^ 17 + 1023 * 2 ^ 7 + 2 ^ 6 + 3, .copy { e0 with ofs := 1023, post := true, cf := 3 })] = true := by decide +kernel

/-- 14 R247: NOP is opcode 0 of every slot. -/
theorem test_decode_nop : ([Slot.c, .x, .m0, .m1, .v0, .v1, .t, .e].all fun s => (decodeSlot s 0 none).toOption == some .nop) = true := by decide +kernel

/-! States for the witnesses: a package that is ready, and a launch that holds core 5, the present core. -/

def base : State := { State.reset with agenda := [], chip := 10, cur := 5, power := { Power.reset with ready := true, hostLink := true } }
def pkt0 : LaunchPkt :=
  { reloff := 2000, slack := 5, pptdist := 0, scandist := 0, allow := 100, nref := 1, apol := 1,
    keepv := false, refill := 7, deleg := 0, trapvec := 0, flags := 0, gangid := 0, t1 := 3, t2 := 5, cores := [5],
    cmap := List.replicate 256 0, images := [⟨0, 3, 1, 0, 0, 0⟩], presets := [] }
def l0 : Launch :=
  { id := 3, queue := 2, gen := 1, head := ⟨1, 5, 9, false, true, 0⟩, pkt := pkt0, root := 0x1000, prio := 0, escrow := 0,
    owner := 1, beganAt := 5, phase := .running, claimAt := 5, loadedAt := 6, saves := [], relcyc := 8, laterel := false,
    released := true, refills := 0, stopAt := none, hostStop := false, stopWanted := false, stopFor := none, ladder := false, stops := [], rung := 0, restarts := [],
    code := 0, detail := 0, prov := [], taint := 0, recorded := false, dumping := false, dbgAt := none }
def q0 : Queue := { Queue.reset with state := .active, qcfg := 6, gen := 1, qroot := 0x1000 }
def c0 : Core := { Core.idle with mode := .running, launch := some 3, pc := 4, npc := 5, sched := 7, codeLen := 100, allow := 50 }
def on (c : Core) : State := { base with launches := [l0], queues := [(2, q0)], cores := [(5, c)] }

/-- The instruction runs and its next state has the property. -/
def after (i : Instr) (s : State) (p : State → Bool) : Bool := match exec i s with | .next t => p t | _ => false

/-! Witnesses: for each statement with hypotheses, states and operands that meet them. -/

theorem test_meets_bundleRoundTrip : ∀ i ∈ [Instr.halt ⟨63, true⟩, .xAdd { x0 with imm := true, sb := 0, lit := some 4294967295 },
    .ldV { m0 with ply := 2047, lit := some 0 }, .viShr { v0 with sub := 1, b := true, sb := 2047 }, .drain { t0 with row := 127, aux := 127 },
    .mcred { e0 with ofs := 1023, post := true }], i.wf = true ∧ (encode i).isSome = true := by decide +kernel

/-- Core memory that holds a bundle with one claimed literal at halfword 4: dictionary entry 2047. -/
def cDict : Core := { c0 with code := [(4, 2047), (5, 7)], dictValid := [2047], dict := [(2047, 0)] }
def cInline (b : Nat) : Core := { c0 with code := Store.put [] 4 ((0xFFFF :: (List.range 24).map fun h => b / 2 ^ (16 * h) % 2 ^ 16).map (BitVec.ofNat 16)) }
def addB : Nat := ((encode (.xAdd x0)).getD (0, [])).1

theorem test_meets_fetchAndIssue :
    (cDict.half 4 = 2047 ∧ cDict.dictValid.contains 2047 = true ∧ 4 + 1 + 2 * claimCount 0 ≤ min cDict.codeLen 65536)
    ∧ { c0 with code := [(4, 0xFFFE)] }.half 4 = 0xFFFE
    ∧ ((cInline addB).half 4 = 0xFFFF ∧ addB < 2 ^ 384 ∧ claimCount addB = 0
      ∧ (∀ h < 24, (cInline addB).half (5 + h) = addB / 2 ^ (16 * h) % 65536))
    ∧ { c0 with code := [(4, 0x0800)] }.half 4 = 0x0800 ∧ { c0 with code := [(4, 0xFFFD)] }.half 4 = 0xFFFD
    ∧ (c0.half 4 < 2048 ∧ c0.dictValid.contains (c0.half 4) = false)
    ∧ ((cInline addB).mode = .running ∧ (cInline addB).fetch 4 = some ⟨addB, [], 29, none⟩
      ∧ (cInline addB).bundleIllegal .nop [.xAdd x0, .nop, .nop, .nop, .nop, .nop, .nop] 29 = false)
    ∧ (cInline (2 ^ 384 - 1)).fetch 4 ≠ none ∧ c0.fetch 4 = none := by decide +kernel

theorem test_meets_fetchDecodes :
    decodeBundle addB [] = .ok [.nop, .xAdd x0, .nop, .nop, .nop, .nop, .nop, .nop]
      ∧ ∃ f e, (cInline (2 ^ 384 - 2 ^ 160)).fetch 4 = some f ∧ decodeBundle f.bundle f.lits = .error e := by
  exact ⟨rfl, _, _, rfl, rfl⟩

theorem test_meets_steps : State.reset.nextEvent = some (0, .powerUp BootInput.standard) ∧ base.nextEvent = none := by decide +kernel

/-- A scan result has only now come from its scan, or has been taken by a teller. -/
theorem test_meets_arrivals : (let s := { base with agenda := [(5, .scanResult 1 true)] }
      s.nextEvent = some (5, .scanResult 1 true) ∧ s.enters (.scanResult 1 true) = true
        ∧ { s with tellers := { s.tellers with taken := [.scanResult 1 true] } }.enters (.scanResult 1 true) = false)
    ∧ State.reset.enters (.powerUp BootInput.standard) = false := by decide +kernel

theorem test_meets_coreRunsBundle :
    let s := on (cInline addB)
    ((s.landNow 5).core 5).issue = .slots [(6, .xAdd x0)] 29 ∧ (s.core 5).mode = .running ∧ s.inDebug 5 = false
      ∧ (s.core 5).frozen s.chip = none ∧ s.stopsHere 5 = false
      ∧ (s.turn exec 5).found = none ∧ (s.turn exec 5).isOver = true ∧ (s.core 5).atScan = false := by decide +kernel

/-- A core whose vault holds v in the 8 bytes at 64 and whose s3 holds x. -/
def with3 (x : Nat) (c : Core) : Core := { c with scalars := [(3, BitVec.ofNat 64 x)] }
def lvl (n : Nat) (sp : Option Spool) : LoopLevel := ⟨3, 4, n, 1, sp⟩

theorem test_meets_registers : ctrlWritable 70 = true ∧ ctrlWritable 51 = true ∧ ctrlWritable 5 = true ∧ ctrlWritable 3 = true
    ∧ (List.replicate 16 (0 : Word)).length = 16
    ∧ uniformGuard (.xAdd x0) = some g0 ∧ c0.guard g0 = some true ∧ c0.guard ⟨0, true⟩ = some false
    ∧ { c0 with preds := [(7, 1)] }.guard ⟨7, false⟩ = none
    ∧ vArgs (.viAdd { v0 with guard := ⟨0, true⟩ }) = some { v0 with guard := ⟨0, true⟩ } ∧ c0.guardLanes false ⟨0, true⟩ = 0
    ∧ (Instr.xAdd x0).encodeSlot.isSome = true ∧ after (.xAdd x0) (on c0) (fun _ => true) = true := by
  refine ⟨by decide +kernel, by decide +kernel, by decide +kernel, by decide +kernel, by decide +kernel, rfl, by decide +kernel,
    by decide +kernel, by decide +kernel, rfl, by decide +kernel, rfl, by decide +kernel⟩

theorem test_meets_scalarForms : (on c0).curCore.guard x0.guard = some true
    ∧ ({ x0 with imm := true, sb := 31 + 64 * 31 } : XArgs).layout = 31 + 64 * (32 - 1) := by decide +kernel

theorem test_meets_transfers : (on c0).curCore.mayTransfer ∧ (on { c0 with loops := [lvl 0 none] }).curCore.mayTransfer
    ∧ (on { c0 with loops := [lvl 0 (some ⟨1, 1, [], false⟩)] }).curCore.mayTransfer :=
  ⟨⟨rfl, by decide +kernel, by decide +kernel⟩, ⟨rfl, by decide +kernel, by decide +kernel⟩,
    ⟨rfl, by decide +kernel, by decide +kernel⟩⟩

theorem test_meets_transferClauses : c0.uniform 0 = some true ∧ { c0 with preds := [(7, 1)] }.uniform 7 = none
    ∧ (let a := ((with3 1572856 c0).readScalars [3]).1.getD 0 0
      a.toNat < 2 ^ 27 ∧ a.toNat % 2 ^ 21 < 1572864 ∧ a.toNat % 8 = 0)
    ∧ { c0 with rets := List.replicate 7 9 }.rets.length < 8 ∧ { c0 with rets := List.replicate 8 9 }.rets.length = 8
    ∧ { c0 with xfer := some (9, 2, true) }.xfer ≠ none := by decide +kernel

theorem test_meets_sequencer : (∀ l ∈ c0.loops, l.last ≠ c0.pc ∧ l.last ≠ c0.npc)
    ∧ ({ c0 with xfer := some (9, 3, true), loops := [⟨1, 6, 2, 0, none⟩] } : Core).xfer = some (9, 3, true)
    ∧ (∀ l ∈ [(⟨1, 6, 2, 0, none⟩ : LoopLevel)], l.last ≠ c0.pc ∧ l.last ≠ c0.npc)
    ∧ (lvl 1 none).last = c0.pc ∧ (lvl 0 none).remaining = 0 ∧ (∀ m ∈ [(⟨1, 6, 2, 0, none⟩ : LoopLevel)], m.last ≠ c0.pc)
    ∧ (((with3 (2 ^ 32 - 1) c0).readScalars [3]).1.getD 0 0).toNat < 2 ^ 32 ∧ 2 ^ 32 ≤ (((with3 (2 ^ 32) c0).readScalars [3]).1.getD 0 0).toNat
    ∧ c0.pc < 5 ∧ ({ c0 with loops := [⟨1, 6, 2, 0, none⟩] } : Core).loops.head? = some ⟨1, 6, 2, 0, none⟩ := by decide +kernel

/-- Core memory with a delta table of two stages and one delta (s4, 2) and a variant table at 20 and 30, the body at 5. -/
def cTables : Core := { c0 with code := Store.put [] 5 [0xFFFE, 0xFFFE] ++ Store.put [] 20 [0x0101, 4, 2] ++ Store.put [] 30 [2, 5, 0, 0, 8, 9, 0, 0, 40] }
def cPass (index : Nat) : Core := { c0 with loops := [⟨3, 4, 1, index, some ⟨2, 2, [(4, 2)], true⟩⟩] }
def r0 : Round := ⟨3, 1, 2, [(9, 77)], false, none⟩

theorem test_meets_spool : cTables.deltaTable 20 = some (2, [(4, 2)]) ∧ cTables.body cTables.npc 2 = (6, 7) ∧ 7 ≤ cTables.codeLen
    ∧ c0.deltaTable 5000 = none ∧ { cTables with codeLen := 6 }.codeLen < ({ cTables with codeLen := 6 }.body cTables.npc 2).2
    ∧ ([(4, (2 : Word))].map fun x => x.1).Nodup ∧ (cPass 0).handler = false ∧ (cPass 0).mapped 4 = false
    ∧ (cPass 0).passStart.scalar 4 = 0 ∧ (cPass 1).passStart.scalar 4 = 2 ∧ (cPass 2).passStart.pred 56 = 0
    ∧ (cPass 2).passStart.pred 57 = BitVec.allOnes 128 := by decide +kernel

theorem test_meets_rendezvous :
    (c0.poison = none ∧ (∀ r, (on c0).openRound 3 1 = some r → r.n = 1 + 1))
    ∧ ({ on c0 with rounds := [r0] }.openRound 3 1 = some r0 ∧ r0.n = 1 + 1 ∧ r0.n ≠ 2 + 1)
    ∧ (cTables.variants 30 = some [(5, 8), (9, 40)] ∧ { cTables with rdvVal := some 5 }.rdvVal = some 5 ∧ (5 : Word).toNat ≤ 5
      ∧ (∀ e ∈ [(5, 8), (9, 40)], e.1 < (10 : Word).toNat))
    ∧ c0.rdvVal = none ∧ cTables.variants 20 = none := by
  refine ⟨⟨rfl, fun r h => ?_⟩, by decide +kernel, by decide +kernel, rfl, by decide +kernel⟩
  have : (on c0).openRound 3 1 = none := by decide +kernel
  rw [this] at h; cases h

def relOpen : Core := { c0 with rels := [⟨false, [9], 1⟩] }
def pk4 : LaunchPkt := { pkt0 with cores := [5, 6, 8, 64] }

theorem test_meets_flags : (on c0).holdsCore 5 5 = true ∧ (on c0).holdsCore 5 255 = false ∧ relOpen.rels ≠ []
    ∧ (c0.flags.getLsbD 63 = false) ∧ { c0 with flags := BitVec.ofNat 64 (2 ^ 63) }.flags.getLsbD 63 ≠ false
    ∧ (let s := { on c0 with launches := [{ l0 with pkt := pk4 }], cores := [(5, c0), (6, c0), (8, c0), (64, c0)] }
      s.holdsCore 5 6 = true ∧ s.holdsCore 5 8 = true ∧ s.holdsCore 5 64 = true) := by decide +kernel

def ga : GlobalAcc :=
  { id := 40, src := 2, issued := 3, landAt := 323, va := 0x5008, len := 8, pa := none, kind := .load 8 (.scalar 3 8 false) none,
    data := none, poison := [], arrived := none, performed := false, acked := false, held := false, parked := none, opened := false,
    cmd := none, pc := 4, keep := false, wb := false, psize := 12, leaf := none, dieHit := false, seq := 0 }

theorem test_meets_fences : c0.openAcks = [] ∧ { c0 with globals := [{ ga with kind := .store [1], acked := true }] }.openAcks ≠ []
    ∧ (c0.loadsOpen = false ∧ c0.poison = none) ∧ { c0 with poison := some 64 }.poison ≠ none
    ∧ { c0 with items := [⟨9, 2, 3, 1, .globalLand 40⟩], globals := [ga] }.loadsOpen = true ∧ { c0 with brkSkip := true }.brkSkip = true ∧ c0.brkSkip = false := by decide +kernel

/-- Core 5 in a handler, its record taken at PC 9. -/
def rec9 : FlightRecord := c0.capture 3 0 9 0 0 0
def cHand : Core := { c0 with handler := true, record := some rec9 }
def deleg (n : Nat) : State := { on c0 with launches := [{ l0 with pkt := { pkt0 with deleg := n } }] }

theorem test_meets_traps : (deleg 8).launchOf 5 = some { l0 with pkt := { pkt0 with deleg := 8 } } ∧ c0.handler = false
    ∧ (8 : Nat).testBit Trap.illegal.bit = true ∧ (on c0).launchOf 5 = some l0 ∧ pkt0.deleg.testBit Trap.illegal.bit = false
    ∧ (on c0).launchOf 6 = none ∧ cHand.handler = true ∧ cHand.record = some rec9 ∧ cHand.items = [] ∧ cHand.engines = []
    ∧ cHand.arrayBusy = false ∧ { c0 with poison := some 64 }.poison ≠ none := by decide +kernel

/-! The M slots. -/

/-- The present core holds x in s2, and has an address-table entry of a form. -/
def cM (x : Nat) (tab : List AddrEntry) : Core := { c0 with scalars := [(2, BitVec.ofNat 64 x)], addrTab := tab }
def entry (form addr : Nat) (valid : Bool) : AddrEntry :=
  { id := 9, form := form, ply := 16, w := 1, addr := addr, pa := none, len := 64, valid := valid, sampled := true, issuedAt := 9, deadAt := 10 ^ 6 }
def mAt (base w : Nat) : MArgs := { m0 with base := base, w := w }
def vOf (s : State) : Nat := ((s.curCore.readScalars [2]).1.getD 0 0 + mOffset (mAt 2 1)).toNat

theorem test_meets_vaultOk : let s := on (cM 1572800 [])
    Store.wf ([(5, 3)] : Store 8) = true ∧ vOf s = 1572800 ∧ s.VaultOk .own 1572800 (64 * widthOf 1) ∧ ¬s.VaultOk .own 1572864 (64 * widthOf 1)
      ∧ (mAt 2 1).ply + widthOf 1 ≤ 2048 ∧ 2048 < ({ m0 with ply := 2047, w := 2 } : MArgs).ply + widthOf 2
      ∧ s.VaultOk .own 1572856 8 ∧ (1572856 % 8 = 0) ∧ ¬s.VaultOk .own 1572860 8 ∧ s.VaultOk .own 1571840 1024 ∧ 1571840 % 64 = 0
      ∧ 3145600 + 128 * 1 ≤ 3145728 ∧ ¬(3145601 + 128 * 1 ≤ 3145728) := by
  unfold State.VaultOk; decide +kernel

theorem test_meets_vaultLevels :
    let s := { on c0 with launches := [{ l0 with pkt := pk4 }], cores := [(5, c0), (6, c0), (8, c0), (64, c0)] }
    s.VaultOk .cluster (2 * 2 ^ 21) 64 ∧ s.VaultOk .die (8 * 2 ^ 21 + 1572800) 64 ∧ ¬s.VaultOk .die (9 * 2 ^ 21) 64 := by
  unfold State.VaultOk; decide +kernel

theorem test_meets_speculativeLoads : let s (tab : List AddrEntry) : State := on (cM 128 tab)
    let v := vOf (s [])
    let old (t : List AddrEntry) (form : Nat) := t.find? fun e =>
      e.form == form && e.ply == 16 && e.w == widthOf 1 && e.addr == v && e.issuedAt != (s []).chip
    old [entry 0 v true] 0 = some (entry 0 v true) ∧ old [entry 1 v true] 1 = some (entry 1 v true)
      ∧ old [entry 0 v false] 0 = some (entry 0 v false) ∧ old [] 1 = none
      ∧ { entry 0 v false with deadAt := 10 }.deadAt = (s []).chip
      ∧ (s []).specPoisoned c0 9 = false
      ∧ (s []).specPoisoned { c0 with globals := [{ ga with kind := .load 8 (.scalar 3 8 false) (some 9), poison := [1] }] } 9 = true
      ∧ v / 4096 = (v + 64 * widthOf 1 - 1) / 4096 ∧ v < 2 ^ 57 ∧ c0.global? ((s []).nextId + 1) = none := by decide +kernel

theorem test_meets_globalForms : (4032 / 4096 = (4032 + 64 * 1 - 1) / 4096) ∧ ¬(4033 / 4096 = (4033 + 64 * 1 - 1) / 4096)
    ∧ c0.rels = [] ∧ c0.ackc < 65535 ∧ (3 < 4 ∧ 4088 % 2 ^ 3 = 0) ∧ 4092 % 2 ^ 3 ≠ 0 := by decide +kernel

/-- Page tables at 0x1000 of CTXID 0 map the first GiB to itself, READ and WRITE. -/
def put (a v : Nat) (s : State) : State := s.writeMem 0 a (numBytes 8 v)
def mapped (s : State) : State := put 0x1000 0x2001 (put 0x2000 0x3001 (put 0x3000 7 s))
def cTlb (leaf : Nat) : Core := { c0 with tlb := [⟨0, 0, 30, leaf⟩] }

theorem test_meets_globalBegins : (GlobalKind.store [1]).spec = none ∧ c0.tlbFind ((on c0).rootOf 5 % 4096) 0x5008 = none
    ∧ (cTlb 5).tlbFind ((on (cTlb 5)).rootOf 5 % 4096) 0x5008 = some ⟨0, 0, 30, 5⟩ ∧ (GlobalKind.store [1]).writes = true
    ∧ pteWrite 5 = false ∧ pteWrite 7 = true ∧ pteLoc (7 + 2 ^ 7) ≠ 0 ∧ ga.kind.writes = false ∧ pteLoc 7 = 0
    ∧ c0.global? (on c0).nextId = none := by decide +kernel

theorem test_meets_atomicForms : atomRow 7 a0 = some (.atomCas a0) ∧ atomRow 0 a0 = some (.atomAdd a0) ∧ a0.level = 0
    ∧ (on c0).VaultOk .own 8 (2 ^ 3) ∧ (8 % 2 ^ a0.size = 0) ∧ (4 % 2 ^ a0.size ≠ 0) ∧ (2 ^ 64 - 1 < 2 ^ (8 * 8)) := by
  unfold State.VaultOk; decide +kernel

def gStore : GlobalAcc := { ga with kind := .store [1, 2], pa := some 0x5008, opened := true }
def gLoad : GlobalAcc := { ga with pa := some 0x5008, opened := true }
def holding (a : GlobalAcc) : State := on { c0 with globals := [a] }
def hostHolds (l : Nat) (s : State) : State := { s with mem := { s.mem with hostLines := [l] } }
def gAtomic : GlobalAcc := { gLoad with kind := .atomic 8 0 5 0 6 }

theorem test_meets_globalPerforms : ∀ a ∈ [gStore, gLoad], let s := holding a
    (s.core 5).global? 40 = some a ∧ a.id = 40 ∧ a.pa = some 0x5008 ∧ a.performed = false
      ∧ (∀ h ∈ s.mem.snoops, ¬(h.core = 5 ∧ h.acc = 40)) ∧ s.mustWait 5 a = false ∧ a.acked = false ∧ s.xlate.migs = [] := by
  decide +kernel

/-- Accesses that stand parked, behind an older one, or before a line that the host holds; and an atomic. -/
theorem test_meets_globalWaits : { gStore with parked := some 0 }.parked ≠ none
    ∧ (on { c0 with globals := [{ gStore with id := 39, len := 8 }, { gLoad with seq := 1 }] }).mustWait 5 { gLoad with seq := 1 } = true
    ∧ ((hostHolds 0x140 (holding gLoad)).mem.heldLines 0x5008 8 = [0x140] ∧ (∀ h ∈ (holding gLoad).mem.snoops, h.line ≠ 0x140))
    ∧ (let s := holding gAtomic
      (s.core 5).global? 40 = some gAtomic ∧ gAtomic.parked = none ∧ s.mustWait 5 gAtomic = false ∧ s.mem.heldLines 0x5008 8 = []
        ∧ (s.mem.readNum 0 0x5008 8).2 = [] ∧ ((holding gAtomic).mem.mark 0 0x140).hbmPoison ≠ [])
    ∧ (∀ p ∈ (holding gLoad).xlate.parked, p.core ≠ 5) := by decide +kernel

/-- An add of 5 to 7; a load that the host's line keeps asks for the line once. -/
theorem test_globalWaits : Store.num ((put 0x5008 7 (holding gAtomic)).performGlobal 5 gAtomic).mem.hbm 0x5008 8 = 12
    ∧ after (.globalResultArrive 5 40) (hostHolds 0x140 (holding gLoad)) (fun t => t.out = [.snoop 0x140] && t.mem.snoops.length = 1) = true := by
  decide +kernel

theorem test_globalStorePerform : after (.globalStorePerform 5 40) (holding gStore) (fun t =>
    Store.read t.mem.hbm 0x5009 = 2 ∧ Store.read t.mem.hbm 0x500A = 0) = true := by decide +kernel


/-! The V, T and E slots. -/

theorem test_meets_vector : (on c0).VReady { v0 with dw := 0 } [(2032, 16), (64, 8), (96, 8)]
    ∧ (on { c0 with v0Busy := 7 }).VReady v0 [(32, 8)] ∧ c0.guardLanes false g0 ≠ 0
    ∧ { c0 with v0Busy := 8 }.sched < { c0 with v0Busy := 8 }.vBusy false
    ∧ vArgs (.vfAdd v0) = some v0 ∧ 2048 < 2041 + widthOf 8 ∧ c0.jord < 1 :=
  ⟨⟨by decide +kernel, by decide +kernel, by decide +kernel⟩, ⟨by decide +kernel, by decide +kernel, by decide +kernel⟩,
    by decide +kernel, by decide +kernel, rfl, by decide +kernel, by decide +kernel⟩

theorem test_meets_floats : (fpFmt 1).bits = 32 ∧ (fpFmt 1).hasNan = true ∧ (fpFmt 1).hasInf = true
    ∧ (roundMag (fpFmt 1) 0 0 false (2 ^ 128) 1).2.1 = true ∧ (roundGrid 4 0 false 7 2 0).1 = 4 ∧ 7 % 2 ≠ 0
    ∧ (decodeFp (fpFmt 1) 0x7FC00000).isNan = true ∧ decodeFp (fpFmt 1) 0xFF800000 = .inf true
    ∧ (decodeFp (fpFmt 1) 0x80000000).isZero = true ∧ evLt (decodeFp (fpFmt 1) 0xBF800000) (decodeFp (fpFmt 1) 0x3F800000) = true := by
  decide +kernel

/-- An open tile over i8 rows: TD_0 views 4 rows of 64 i8 at ply 0, AD_0 is 4 rows of i32 at ply 512, TD_1 4 rows of i32 at 1024. -/
def cArray (a : ArrayState) : Core :=
  let views : List Word := [BitVec.ofNat 64 (0x0D * 2 ^ 11 + 3 * 2 ^ 16 + 63 * 2 ^ 25), BitVec.ofNat 64 (1024 + 0x0F * 2 ^ 11 + 3 * 2 ^ 16 + 63 * 2 ^ 25)]
  { c0 with array := a, ctrl := Store.put (Store.put ctrlReset 32 views) 48 [BitVec.ofNat 64 (512 + 2 * 2 ^ 11 + 3 * 2 ^ 13)] }
def beat0 (assay : Bool) (at' : Nat) : Beat :=
  { issued := 0, emerge := at', assay := assay, neg := false, disc := false, line := 7, fmt := 0x0D, k := 0, codes := [], mags := [], blkAt := none,
    formed := true, out := [List.replicate 64 3], outMag := [List.replicate 64 3], side := [(192, 192)] }
def tile0 : Tile := Tile.opened
def open_ (x : Tile) (bs : List Beat) : ArrayState := { ArrayState.empty with tile := some x, beats := bs }
def tileR : Tile := { tile0 with ad := some 0, adFmt := 2, claimed := [2] }
def tileC : Tile := { tile0 with ad := some 0, adFmt := 2, cksClaimed := true }

theorem test_meets_mayShift : (cArray (open_ tile0 [])).MayShift { t0 with aux := 48 } 7 :=
  ⟨by decide +kernel, by decide +kernel, by decide +kernel, by decide +kernel, by decide +kernel, by decide +kernel, by decide +kernel,
    by decide +kernel, by decide +kernel⟩

theorem test_meets_mayAssay : (cArray (open_ { tile0 with line := some 7, shifted := 3 } [])).MayAssay { tile0 with line := some 7, shifted := 3 } :=
  ⟨rfl, fun l h => by obtain rfl : 7 = l := Option.some.inj h; decide +kernel, by decide +kernel⟩

theorem test_meets_mayClaim : (cArray (open_ tile0 [beat0 false 7])).MayClaim 0 3 true false (beat0 false 7) tile0
    ∧ (cArray (open_ tile0 [beat0 true 7])).MayClaim 0 0 true true (beat0 true 7) tile0
    ∧ (cArray (open_ tileR [beat0 false 7])).MayClaim 0 2 false false (beat0 false 7) tileR :=
  ⟨⟨by decide +kernel, rfl, rfl, by decide +kernel, by decide +kernel, by decide +kernel, by decide +kernel, by decide +kernel⟩,
    ⟨by decide +kernel, rfl, rfl, by decide +kernel, by decide +kernel, by decide +kernel, by decide +kernel, by decide +kernel⟩,
    ⟨by decide +kernel, rfl, rfl, by decide +kernel, by decide +kernel, by decide +kernel, by decide +kernel, by decide +kernel⟩⟩

theorem test_meets_tensor : (cArray ArrayState.empty).arrayHeld = false
    ∧ { cArray ArrayState.empty with handler := true, record := some { rec9 with arrayHeld := true } }.arrayHeld = true
    ∧ pairLine 0x0D = some 7 ∧ lineJord 7 0 = true ∧ ((cArray ArrayState.empty).td 0).cols ≤ 64 * lineG 7
    ∧ ((cArray ArrayState.empty).td 0).base + ((cArray ArrayState.empty).jord + 1) * ((cArray ArrayState.empty).td 0).span ≤ 2048
    ∧ ({ ArrayState.empty with busy := 7 } : ArrayState).busy ≤ 7 ∧ 7 < ({ ArrayState.empty with busy := 8 } : ArrayState).busy
    ∧ (cArray (open_ tile0 [])).emerging = none ∧ (on c0).dbg.upsetCtl.toNat.testBit 63 = false
    ∧ (let c := cArray (open_ tileR [])
      ((c.td 1).fmt = (if (c.accDesc 0).fmt = 0 then 2 else if (c.accDesc 0).fmt = 1 then 1 else 0x0F)) ∧ 64 ≤ (c.td 1).cols ∧ 3 < (c.td 1).rows
        ∧ (c.accDesc 0).base + (tileR.k + 1) * ((c.accDesc 0).rows * (c.accDesc 0).width) ≤ 2048
        ∧ (tileR.adFmt = 0 ↔ (c.accDesc 0).fmt = 0) ∧ (tileR.adFmt = 1 ↔ (c.accDesc 0).fmt = 1)
        ∧ (c.td 1).base + (tileR.k + 1) * (c.td 1).span ≤ 2048 ∧ 2 ∈ tileR.claimed ∧ 2 < (c.accDesc 0).rows)
    ∧ tileC.shifted = 0 ∧ tileC.cksClaimed = true := by decide +kernel

/-- A drain of a claimed row, and the checksum drain that closes the tile (13 R238). -/
theorem test_drain : after (.drain { t0 with row := 2, aux := 1 }) (on (cArray (open_ tileR []))) (fun t =>
      (t.core 5).items.any fun i => i.due = 11 && match i.act with | .land (.plies 1024 8 _ _) => true | _ => false) = true
    ∧ after (.drain { t0 with cks := true, aux := 1 }) (on (cArray (open_ tileC []))) (fun t => (t.core 5).array.tile = none) = true := by
  decide +kernel

/-- An upset armed for bit 0 of row 3, column 63 of AD_0 on core 5 (08 R145). -/
def armed (s : State) : State :=
  { s with dbg := { s.dbg with upsetCtl := BitVec.ofNat 64 (2 ^ 63 + 5 * 2 ^ 48 + 3 * 2 ^ 32 + 63 * 2 ^ 8) } }

theorem test_meets_upset : (let w := (armed (on c0)).dbg.upsetCtl.toNat
      w.testBit 63 = true ∧ w / 2 ^ 48 % 256 = (on c0).cur ∧ w / 2 ^ 56 % 4 = 0 ∧ w / 2 ^ 32 % 512 = 3 ∧ 63 = w / 2 ^ 8 % 64 ∧ w % 64 < 4 * 8)
    ∧ (cArray (open_ tile0 [beat0 false 7])).items = [] := by decide +kernel

/-- The armed upset inverts bit 0 of the claimed 3 in column 63 (08 R146). -/
theorem test_upset : after (.acc { t0 with ow := true, aux := 48 }) (armed (on (cArray (open_ tile0 [beat0 false 7])))) (fun t =>
    (t.core 5).items.any (fun i => i.due = 9 && match i.act with
      | .land (.plies _ 8 _ vals) => vals.getD 63 0 = 2 && vals.getD 62 0 = 3
      | _ => false) && (t.core 5).items.any fun i => i.due = 9 && match i.act with | .upsetFire m r n => (m, r, n) = (0, 3, 63) | _ => false) = true := by
  decide +kernel

/-- acc.ow of the emerging row: the row lands two cycles on in lanes 0 to 63 (13 R231). -/
theorem test_claim : after (.acc { t0 with ow := true }) (on (cArray (open_ tile0 [beat0 false 7]))) (fun t =>
    (t.core 5).items.any fun i => i.due = 9 && match i.act with
      | .land (.plies 512 8 m vals) => m = BitVec.ofNat 128 (2 ^ 64 - 1) && vals.getD 63 0 = 3
      | _ => false) = true := by decide +kernel

/-- VB of a conv lies in a page whose entry has the given leaf. -/
def rsTo (leaf : Nat) : State := { on { cTlb leaf with scalars := [(2, 0x5008)] } with cur := 5 }

theorem test_meets_engines : engForm 1 e0 = some (.copy e0) ∧ engForm 12 e0 = some (.mcred e0)
    ∧ (on c0).EngReady 1 { e0 with ofs := 1 } 64 ∧ (on { c0 with ackc := 65534 }).EngReady 6 { e0 with ofs := 1 } 64
    ∧ (on c0).convRs { e0 with cf := 4 } = false ∧ (rsTo (7 + 4 * 2 ^ 52)).convRs { e0 with cf := 4 } = false ∧ (rsTo 7).convRs { e0 with cf := 4 } = true :=
  ⟨rfl, rfl, ⟨nofun, nofun, nofun, fun h => absurd h (by decide), fun h => absurd h (by decide), by decide +kernel⟩,
    ⟨nofun, nofun, nofun, fun _ => by decide +kernel, fun h => absurd h (by decide), by decide +kernel⟩,
    by decide +kernel, by decide +kernel, by decide +kernel⟩

/-- 19 R332, one operand that passes and one that fails, form by form. -/
theorem test_operandFault :
    operandFault 1 0 64 0 64 128 = none ∧ operandFault 1 1 64 1572800 0 64 = none ∧ operandFault 1 1 64 1572864 0 64 = some 1572864
    ∧ operandFault 1 0 64 0 0 0 = some 0 ∧ operandFault 2 1 2048 1570816 0 0x10001 = none ∧ operandFault 2 1 2048 1570880 0 0x10001 = some 1570880
    ∧ operandFault 2 0 64 0 0 1 = some 1 ∧ operandFault 3 0 64 1 1 32 = none ∧ operandFault 3 0 64 1 1 (2 ^ 32) = some (2 ^ 32)
    ∧ operandFault 4 1 64 1572863 1 1 = none ∧ operandFault 5 1 64 1572864 1 1 = some 1572864 ∧ operandFault 6 0 64 0 0 (64 + 8 * 2 ^ 32) = none
    ∧ operandFault 6 0 64 0 0 (64 + 4 * 2 ^ 32) = some (64 + 4 * 2 ^ 32) ∧ operandFault 7 2 64 0 1572864 64 = some 1572864
    ∧ operandFault 8 1 64 1572800 0 64 = none ∧ operandFault 9 1 64 32 0 64 = some 32 ∧ operandFault 10 2 64 0 1572800 64 = none
    ∧ operandFault 11 8 64 8 0 (8 * 2 ^ 32) = none ∧ operandFault 11 8 64 4 0 (8 * 2 ^ 32) = some 4
    ∧ operandFault 12 0 64 0 0 5 = none ∧ operandFault 12 0 64 0 0 0 = some 0 := by decide +kernel

/-! Events. -/

def withFw (n : Nat) : State := { base with fw := { base.fw with state := n, pendver := 7, hbdl := 1 } }
def staging : State := { base with fw := { base.fw with staging := true } }

theorem test_meets_power : BootInput.standard.pufOk = true ∧ BootInput.standard.recA ≠ none ∧ BootInput.standard.imgActive = true
    ∧ ({ BootInput.standard with recA := none } : BootInput).recB = none ∧ 1 ∉ base.power.holds ∧ base.power.ready = true
    ∧ 4 ∈ ([4] : List Nat) ∧ base.mem.l2 = [] ∧ base.flash.length = 2 ∧ { BootInput.standard with recB := some 3 }.recB = some 3
    ∧ after (.powerUp { BootInput.standard with pufOk := false }) base (fun t => t.power.recovery) = true
    ∧ after .hostLinkRetrain { base with power := { base.power with msixWait := [1, 2] } } (fun t => t.out = [.msix 2, .msix 1]) = true := by
  decide +kernel

/-- A bring-up that waits at step 4 for MAIN48, and what its return completes (01 R23, log 11). -/
def dark : BootInput := { BootInput.standard with main48 := false }
theorem test_meets_main48 : BootInput.standard.main48 = true ∧ dark.pufOk = true ∧ dark.recA ≠ none ∧ dark.imgActive = true
    ∧ after (.powerUp dark) base (fun t => !t.power.ready && !t.power.recovery && t.power.stby12 && t.power.boot = some dark && t.power.holds.contains 4
      && after (.admissionResume 4) t (fun u => u.power.ready && u.power.main48 && !u.power.holds.contains 4)) = true := by decide +kernel

theorem test_meets_host :
    (base.power.hostLink = true ∧ 2 ^ 39 - 3 + [(1 : Byte), 2, 3].length ≤ 2 ^ 39 ∧ 2 ^ 39 < 2 ^ 39 - 2 + [(1 : Byte), 2, 3].length)
    ∧ base.ctxsave.getLsbD 0 = false ∧ ({ base with ctxsave := 1 }.ctxsave.getLsbD 0 = true ∧ 2 ^ 29 - 1 < 2 ^ 29 ∧ 0 < 2 ^ 29 - 1 + 3)
    ∧ poisonedIn base.mem.hbmPoison 0 4 = [] ∧ base.memOk = true
    ∧ (⟨3, 0, 0, 0⟩ : Held).since + 12500000 ≤ 12500000 ∧ base.chip < (⟨3, 0, 0, 0⟩ : Held).since + 12500000
    ∧ after (.hdmWrite (2 ^ 39 - 3) [1, 2, 3]) base (fun t => Store.read t.mem.hbm (2 ^ 39 - 1) = 3) = true
    ∧ after (.hdmRead 100 3) (base.writeMem 0 100 [5, 0, 7]) (fun t => t.out = [.hdmData 100 [5, 0, 7] false]) = true := by decide +kernel

theorem test_meets_management :
    (base.nq.on = false ∧ (0x108 : Word).toNat = 0x108 ∧ base.nq.base.toNat % 4096 = 0 ∧ base.nq.cons ≤ 0 ∧ base.nq.prod < (1 : Word).toNat)
    ∧ ((3 : Word).toNat / 2 ^ 4 % 2 ^ 44 = 0 ∧ ¬(16 : Word).toNat / 2 ^ 4 % 2 ^ 44 = 0 ∧ base.fw.staging = false ∧ base.fw.state ∈ [0, 4, 5, 6])
    ∧ staging.fw.staging = true ∧ (withFw 1).fw.state = 1 ∧ ((withFw 2).queues.all fun p => (withFw 2).locked p.1) = true
    ∧ (let s := { withFw 2 with queues := [(2, { q0 with disp := .launch 3 })] }; (s.queues.all fun p => s.locked p.1) = false)
    ∧ base.flash[1 - base.recordSlot]? ≠ none ∧ (18 : Word).toNat % 16 = 2
    ∧ ({ withFw 2 with chip := 125000000 }.fw.since + 125000000 ≤ 125000000)
    ∧ ((withFw 3).fw.rejected = false ∧ (withFw 3).chip < (withFw 3).fw.since + (withFw 3).fw.hbdl * 1250000)
    ∧ ({ withFw 3 with chip := 1250000 }.fw.since + (withFw 3).fw.hbdl * 1250000 ≤ 1250000)
    ∧ ({ base with fw := { base.fw with beatBy := some 10 } }.fw.beatBy = some 10 ∧ 10 ≤ base.chip)
    ∧ base.power.stby12 = true ∧ base.power.recovery = false ∧ (1 : Word).toNat = 1 ∧ base.fw.state = 0
    ∧ { base with power := { base.power with recovery := true } }.power.recovery = true := by decide +kernel

/-- 05 R93: whatever the image's contents mean, STAGE ends in one of its three ways. -/
theorem test_meets_staged : Config.imageSigned staging.stagedImage.bytes = false
    ∨ (Config.imageSigned staging.stagedImage.bytes = true ∧ staging.record.minSvn ≤ Config.imageSvn staging.stagedImage.bytes) := by
  rcases h : Config.imageSigned staging.stagedImage.bytes
  · exact .inl rfl
  · exact .inr ⟨rfl, Nat.zero_le _⟩

theorem test_meets_component : staging.fw.component = none
    ∧ { staging with fw := { staging.fw with component := some ⟨1, []⟩ } }.fw.component = some ⟨1, []⟩ := by decide +kernel

/-- FIPS 180-4's digest of the message abc. -/
theorem test_sha384 : sha384 [0x61, 0x62, 0x63]
    = 0xcb00753f45a35e8bb5a03d699ac65007272c32ab0eded1631a8b605a43ff5bed8086072ba1e7cc2358baeca134c825a7 := by decide +kernel

/-- A queue with ten units to do, and a packet p at its head. -/
def withPkt (bytes p : Nat) : State :=
  let q : Queue := { q0 with qtail := 10, qbase := 0x4000 }
  { (mapped { base with queues := [(2, q)] }).writeMem 0 0x4000 (numBytes bytes p) with cur := 5 }
def pWait (op : Nat) : Nat := 2 + 2 ^ 16 + 0x5000 * 2 ^ 128 + (2 ^ 64 - 1) * 2 ^ 256 + op * 2 ^ 320
def pSignal : Nat := 3 + 2 ^ 16 + 0x5000 * 2 ^ 128 + 5 * 2 ^ 192 + 2 ^ 320
def pCopy : Nat := 4 + 2 ^ 16 + 0x5000 * 2 ^ 128 + 0x6000 * 2 ^ 192 + 100 * 2 ^ 256
def pQuery : Nat := 5 + 2 ^ 16 + 0x5000 * 2 ^ 128
def pLaunch : Nat := 1 + 5 * 2 ^ 16 + 2000 * 2 ^ 128 + 1 * 2 ^ (8 * 22) + 5 * 2 ^ (8 * 32) + 2 ^ (64 * 8 + 5) + 0x8000 * 2 ^ (256 * 8) + 3 * 2 ^ (264 * 8)
def okQueue : Queue := { Queue.reset with qbase := 0x1000, qcfg := 6 }
def dispatched (d : Dispatch) : State := { withPkt 64 0 with queues := [(2, { q0 with qtail := 10, qbase := 0x4000, disp := d })] }

/-- A COPY of 4 bytes that has begun; a map whose leaf has WB set. -/
def copying : Dispatch := .copy (packetHead pCopy) 0x5000 0x6000 4 0 false none
def blocked (s : State) : State := put 0x3000 (7 + 2 ^ 5) s
/-- Its source page is tiled and verifies nowhere. -/
def spoiled (s : State) : State := put 0x5000 5 (put 0x3000 (7 + 2 * 2 ^ 52 + 2 ^ 9) s)

theorem test_meets_queues : (base.power.ready = true ∧ base.locked 2 = false ∧ (base.queue 2).live = false ∧ base.held 2 = false)
    ∧ ((withPkt 64 0).queue 2).live = true ∧ (withPkt 64 0).launches = [] ∧ ((withPkt 64 0).queue 2).disp = .none
    ∧ (let c := okQueue.qcfg.toNat
      okQueue.qbase.toNat < 2 ^ 39 ∧ c < 2 ^ 17 ∧ c.testBit 5 = false ∧ 6 ≤ c % 32 ∧ c % 32 ≤ 20 ∧ c / 2 ^ 8 % 4 ≠ 3 ∧ c / 2 ^ 10 % 64 ≤ 47
        ∧ okQueue.qbase.toNat % 4096 = 0 ∧ okQueue.qbase.toNat % (64 * 2 ^ (c % 32)) = 0 ∧ okQueue.qroot.toNat < 2 ^ 52
        ∧ (c / 2 ^ 6 % 4 = 3 ↔ okQueue.qrsv ≠ 0))
    ∧ ((withPkt 64 0).queue 2).qtail ≤ (64 : Word).toNat ∧ (64 : Word).toNat ≤ 0 + 2 ^ (6 % 32) ∧ (9 : Word).toNat < 10 := by decide +kernel

theorem test_meets_packets : ((withPkt 64 (pWait 0)).look 2).2 = some (pWait 0) ∧ ((withPkt 64 pSignal).look 2).2 = some pSignal
    ∧ ((withPkt 64 pCopy).look 2).2 = some pCopy ∧ ((withPkt 64 pQuery).look 2).2 = some pQuery
    ∧ ((withPkt 320 pLaunch).look 2).2 = some pLaunch ∧ pf (pWait 0) 0 1 = 2 ∧ pf pSignal 0 1 = 3 ∧ pf pCopy 0 1 = 4 ∧ pf pQuery 0 1 = 5
    ∧ pf pLaunch 0 1 = 1 ∧ (packetHead (pWait 0)).cpladdr = 0 ∧ waitHolds 0 0 (BitVec.allOnes 64) 0 = true
    ∧ waitHolds 1 0 (BitVec.allOnes 64) 0 = false ∧ base.power.holds = []
    ∧ (dispatched (.wait (packetHead (pWait 0)) 0x5000 0 0xFF 0 (some 10))).chip = 10 := by decide +kernel

theorem test_meets_translated : (withPkt 64 pSignal).tellerPa 0x1000 0x5000 true = .ok 0x5000
    ∧ (∃ u, (dispatched copying).copyChunk 0x1000 0x5000 0x6000 4 none = .moved 4 u)
    ∧ (dispatched copying).copyChunk 0 0x5000 0x6000 4 none = .fault 1 false
    ∧ (∃ u, (blocked (dispatched copying)).copyChunk 0x1000 0x5000 0x6000 4 none = .waits u)
    ∧ (match (spoiled (dispatched copying)).copyChunk 0x1000 0x5000 0x6000 2048 none with | .failed => true | _ => false) = true :=
  ⟨rfl, ⟨_, rfl⟩, rfl, ⟨_, rfl⟩, by decide +kernel⟩

theorem test_meets_cmdBehind : (withPkt 64 0).cmdBehind 2 1 = false ∧ (withPkt 64 0).power.ready = true
    ∧ { withPkt 64 0 with queues := [(2, { q0 with cmds := [3, 1] })] }.cmdBehind 2 1 = true
    ∧ { withPkt 64 0 with queues := [(2, { q0 with cmds := [3, 1] })] }.cmdBehind 2 3 = false ∧ ((withPkt 64 0).queue 2).cmds = [] := by decide +kernel

theorem test_signal : after (.signal 2) (put 0x5000 7 (withPkt 64 pSignal)) (fun t => Store.num t.mem.hbm 0x5000 8 = 12
    && (t.queue 2).qhead = 1 && (t.queue 2).done = 1) = true := by decide +kernel

def lWait : Launch := { l0 with phase := .waiting, released := false }
def waitS : State := { mapped { base with launches := [lWait], queues := [(2, q0)] } with cur := 5 }
def oneOn (l : Launch) (c : Core) : State := { on c with launches := [l] }
def only (p : Launch → Bool) (s : State) (l : Launch) : Bool := s.launches.filter p = [l] && s.launches.all fun x => x.id = l.id → x = l

theorem test_meets_launches : base.waiting = [] ∧ waitS.waiting = [lWait] ∧ (∀ l ∈ waitS.launches, l.stopWanted = false)
    ∧ (let l : Launch := { l0 with phase := .loading, released := false, relcyc := 10 }
      only (fun l => l.phase = .loading && l.relcyc ≤ 10 && !l.released) (oneOn l c0) l = true ∧ (oneOn l c0).inDebug 5 = false)
    ∧ (∀ l ∈ (on c0).launches, l.phase ≠ .loading) ∧ { c0 with mode := .halted }.quiet = true
    ∧ (∀ l ∈ (on c0).launches, ∃ n ∈ l.pkt.cores, ((on c0).core n).mode ≠ .halted)
    ∧ ((on c0).queue 3).live = false ∧ ((on c0).queue 2).live = true ∧ ({ on c0 with ctxsave := 1 }.ctxsave.getLsbD 0 = true)
    ∧ (0 + l0.t2Cycles ≤ 10 ^ 12) ∧ (∀ l ∈ (on c0).launches, ∀ v ∈ l.saves, 10 < v.2.1)
    ∧ { l0 with phase := .saving, saves := [(0, 10, 16)] }.saves = [(dieOf 5, 10, 16)] ∧ dieOf 5 < 4
    ∧ (oneOn { l0 with phase := .resuming, restarts := [(5, 10)] } { c0 with mode := .stopped }).core 5 = { c0 with mode := .stopped }
    ∧ (on c0).canSave l0 = true ∧ (on c0).locked 2 = false ∧ ({ on c0 with fw := { base.fw with state := 3 } }.locked 2 = true) ∧ (1 : Word).toNat / 2 % 2 ^ 28 = 0 := by decide +kernel

/-- A launch that is to stop while its core waits for a flag, and scan holds on a core that no scan needs. -/
def stoppingS (l : Bool) : State :=
  { oneOn { l0 with phase := .stopping, stopAt := some 9, ladder := l } { c0 with flagWait := some ⟨1, true, none⟩ } with chip := 100 }
def scanHeld : State := { on { c0 with holds := [⟨7, 0, 3, 10⟩, ⟨2, 0, 3, 40⟩] } with chip := 10000 }

theorem test_meets_ladder : (let s := stoppingS true
      (s.core 5).waiting = true ∧ (s.core 5).cleanNow = true ∧ dieOf 5 < 4 ∧ (s.core 5).launch = some 3 ∧ 8 ≤ 9 ∧ l0.stops = [] ∧ l0.dumping = false)
    ∧ ((on c0).core 5).waiting = false ∧ { c0 with ackc := 1 }.cleanNow = false ∧ 100 < 9 + l0.t1Cycles ∧ 9 + l0.t1Cycles ≤ 10 ^ 12
    ∧ (scanHeld.scanHolds 5 = false ∧ (scanHeld.core 5).mode ≠ .debug)
    ∧ { base with reliab := { base.reliab with scans := base.reliab.scans.map fun (x : Scan) => { x with named := some 1, moving := true } } }.scanHolds 5 = true := by
  decide +kernel

/-- 06 R105, R106: at T1 a launch without a ladder stops its core where it waits; R111: the hold of a scan ends. -/
theorem test_expiries : after .ladderT1 (stoppingS false) (fun t => (t.core 5).mode = .stopped && t.launches.all fun l => l.stops = [(5, 100)]) = true
    ∧ after (.scanwaitExpiry 5) scanHeld (fun t => (t.core 5).holds = [⟨2, 0, 3, 40⟩]) = true := by decide +kernel

theorem test_meets_loaded : (∃ cs, waitS.loadAll { lWait with owner := 2 } = .ok cs) ∧ waitS.mayTake lWait 5 = true := ⟨⟨_, rfl⟩, by decide +kernel⟩

theorem test_meets_nextOwner : ∃ tag, waitS.nextOwner = some tag := by
  rw [← Option.isSome_iff_exists]
  exact List.find?_isSome.2 ⟨2, List.mem_map.2 ⟨1, List.mem_range.2 (by decide), by decide⟩, by decide +kernel⟩

def atTellers (k : Nat) : Core := { c0 with mode := .tellers, record := some (c0.capture k 0 9 0 0 0) }

theorem test_meets_launchEnds : ((on (atTellers 8)).core 5).mode = .tellers ∧ (on (atTellers 8)).launchOf 5 = some l0
    ∧ (c0.capture 8 0 9 0 0 0).cls = Trap.allowance.bit ∧ (on (atTellers 3)).autoDump l0 = false
    ∧ after (.tellerTrapEvent 5) (on (atTellers 8)) (fun t => (t.core 5).mode = .running && (t.core 5).allow = 57) = true := by decide +kernel

/-! Fabric events. -/

def pUp : Port := { Port.reset with state := 2, retry := 65535, badflit := 7, fails := 8 }
def ge : GroupEntry := { valid := true, parent := 3, rank := 1, size := 3, child := 8, gtmo := 0, seq := 6 }
def op0 : GroupOp := ⟨4, 6, [], none, 0, [], 100, none, false, false, none, [], []⟩

/-- A package whose port 3 is up, with a route to package 7 through it, group 4 and the operations given. -/
def linked (e : GroupEntry) (ops : List GroupOp) : State :=
  let r : BitVec 32 := BitVec.ofNat 32 (2 ^ 31 + 3 * 2 ^ 26 + 31 * 2 ^ 21)
  { base with
    chip := 200000
    fabric := { base.fabric with ports := base.fabric.ports.mapIdx fun j x => if j = 3 then pUp else x
                                 routes := [(1, r), (7, r)], groups := [(4, e)], ops := ops } }
def pk1 : Packet :=
  { kind := 2, port := 3, vc := 0, hops := 7, dst := 0, src := 7, mcast := false, tag := 9, fmt := 0, nflits := 0, addr := 0x5000, seq := 6,
    key := 2, nr := 0, count := 8, resv := 0, err := 0, op := 0, data := numBytes 8 0x1122 }
/-- The first GiB is open to peers. -/
def peers (ops : List GroupOp) (e : GroupEntry := ge) : State :=
  let s := put 0x1000 0x2001 (put 0x2000 0x3001 (put 0x3000 (7 + 64) (linked e ops)))
  { s with xlate := { s.xlate with fabroot := 0x1000 } }
def o1 : OutPkt := ⟨9, 5, 44, { pk1 with dst := 7, src := 0 }, 10, false⟩
def cmd (op : Nat) : EngCmd :=
  { id := 44, block := 4, op := op, cf := 0, post := false, issued := 3, start := 3, pc := 4, va := 0, vb := 0x5000, vc := 0x8000000040, rm := 0,
    seed := 0, schedCyc := 0, started := true, view := 0, streamDone := true, reads := 1, writes := 0, units := [], layout := some ⟨0, 0, 0, 0⟩,
    places := [], record := [], pend := [], fault := none, ended := false, retries := [], cvtDone := [], retried := false, satur := 0, count := 64,
    redo := [], again := [], chunk := none, failed := none, held := false, handler := false, acked := [] }
def withCmd (e : EngCmd) (s : State) : State := { s with cores := [(5, { c0 with ackc := 3, engines := [e] })], fabric := { s.fabric with outstanding := [o1] } }

theorem test_meets_ports : (let s := linked ge []
      (s.fabric.ports[3]? = some pUp ∧ pUp.state = 2 ∧ 8 ≤ pUp.fails ∧ { pUp with fails := 7 }.fails < 8 ∧ pUp.lastRx + 125000 ≤ s.chip ∧ pUp.lastTx + 12500 ≤ s.chip)
      ∧ (s.fabric.ports[23]? = some Port.reset ∧ Port.reset.state ≠ 2) ∧ (∀ l ∈ s.launches, l.pkt.gangid = 0)
      ∧ (s.fabric.entry 5).valid = false ∧ (s.fabric.entry 4).valid = true ∧ (∀ o ∈ s.fabric.ops, o.group ≠ 4)
      ∧ 65535 ∉ s.fabric.holds ∧ s.fabric.holds.length < 8 ∧ s.tellers.taken.length < 12 ∧ s.tellers.pending = [] ∧ s.tellers.full = []
      ∧ (∀ x ∈ s.fabric.linkNews, x.port ≠ 23) ∧ (⟨3, 0, false, 7, 5⟩ : LinkNews).port = 3)
    ∧ ((linked ge [op0]).fabric.ops = [op0] ∧ op0.own = none ∧ op0.result = none ∧ op0.paused = none ∧ op0.deadline ≤ 200000)
    ∧ ({ op0 with deadline := 200001 }.expired 200000 = false) ∧ typeListed pk1.kind = true ∧ pk1.resv = 0 ∧ pk1.hops ≠ 0 ∧ pk1.wf = true ∧ pk1.port < 24 := by decide +kernel

theorem test_timer : after (.groupTimerExpiry 4) (linked ge [op0]) (fun t => t.fabric.ops = [] && (t.fabric.entry 4).seq = 7) = true := by
  decide +kernel

theorem test_meets_peers : (let s := peers []
      (s.fabric.up 3 = true ∧ typeListed pk1.kind = true ∧ pk1.resv = 0 ∧ pk1.hops ≠ 0 ∧ pk1.wf = true ∧ pk1.mcast = false ∧ pk1.dst = s.fabric.fabid ∧ s.fabric.done? pk1 = none)
      ∧ s.fabric.portFor 7 false = some 3 ∧ (pteLoc 71 = 0 ∧ pteGeom 71 = 0 ∧ pteFmt 71 = pk1.fmt ∧ pteWb 71 = false)
      ∧ { s.fabric with performed := [((7, 9), 5)] }.done? pk1 = some 5 ∧ s.memOk = true
      ∧ poisonedIn (s.mem.poison (pteLoc 71)) 0x5000 8 = [] ∧ (∀ o ∈ s.fabric.outstanding, o.tag ≠ 9)
      ∧ (s.fabric.entry 99).valid = false ∧ 3 ∈ (s.fabric.entry 4).children ∧ s.fabric.holds = [] ∧ pk1.seq = (s.fabric.entry 4).seq)
    ∧ (let s := withCmd (cmd 9) (peers [])
      s.fabric.outstanding = [o1] ∧ o1.tag = pk1.tag ∧ o1.pkt.dst = pk1.src ∧ (s.owner 5 44).eng? 44 = some (cmd 9) ∧ o1.resent = false
        ∧ 10 + Config.ackTmo ≤ 10 + 2500000)
    ∧ (let s := peers [{ op0 with deadline := 300000 }] { ge with child := 0 }
      pk1.port = (s.fabric.entry 4).parent ∧ (s.fabric.entry 4).children = [] ∧ s.chip < 300000)
    ∧ (let n := tileEdge 1 * tileEdge 1
      tilesOk (accFmt 2) 1 n (List.replicate (tileBytes 2 1) 0) = true ∧ (GroupInput.mk 24 0 0 2 n []).port = 24 ∧ (peers [{ op0 with own := some (5, 44), sentUp := true, geom := 1, deadline := 300000 }]).fabric.ops.length = 1) := by decide +kernel

def pkG : Packet := { pk1 with kind := 6, dst := 4, mcast := true }
def input0 : GroupInput := ⟨24, 1, 0, 2, tileEdge 1 * tileEdge 1, [(0, List.replicate (tileBytes 2 1) 0)]⟩

theorem test_meets_discards : typeListed { pk1 with kind := 12 }.kind = false ∧ { pk1 with resv := 2 ^ 39 }.resv ≠ 0
    ∧ ({ pk1 with kind := 0, resv := 2 ^ 39, hops := 0 }.wf = true ∧ { pk1 with hops := 0 }.hops = 0 ∧ pk1.port < 24)
    ∧ (pkG.wf = true ∧ typeListed pkG.kind = true ∧ pkG.resv = 0 ∧ pkG.hops ≠ 0 ∧ pkG.mcast = true)
    ∧ (let s := peers []
      (s.fabric.entry pkG.dst).valid = true ∧ pkG.port ∈ (s.fabric.entry pkG.dst).children ∧ s.fabric.done? pkG = none
        ∧ pkG.seq = (s.fabric.entry pkG.dst).seq ∧ (s.fabric.entry { pkG with dst := 9 }.dst).valid = false)
    ∧ (let s := peers []
      s.fabric.portFor o1.pkt.dst true ≠ none ∧ { o1 with resent := true }.resent = true ∧ o1.pkt.mcast = false
        ∧ o1.sentAt + Config.ackTmo ≤ { s with chip := 10 ^ 9 }.chip ∧ pk1.err = 0 ∧ (cmd 9).op = 9)
    ∧ { pkG with err := 4 }.err ≠ 0 ∧ ({ op0 with own := some (5, 44), sentUp := true, inputs := [input0] }.back = []
      ∧ [input0].find? (fun y => y.port = 24) = some input0 ∧ pkG.err = 0) := by decide +kernel

/-- Packets of other packages, of this one's tellers, and heartbeats. -/
theorem test_meets_heartbeats : (let s := linked ge []
      pk1.port = 3 ∧ (s.fabric.ports.getD pk1.port Port.reset).state = 2 ∧ pk1.dst = s.fabric.fabid ∧ { pk1 with dst := 7 }.dst ≠ s.fabric.fabid
        ∧ s.fabric.portFor 7 false = some 3 ∧ s.fabric.portFor 9 false = none ∧ s.fabric.portFor pk1.src false = some 3)
    ∧ { pk1 with port := 24 }.port = 24 := by decide +kernel

/-- 02 R30: a ROUTE_UPDATE for package 9, which has no route, is answered UNREACHABLE; one for package 7 goes on with a hop less. -/
theorem test_routeUpdate :
    after (.routeUpdate 3 { pk1 with kind := 11, dst := 7 } []) (linked ge []) (fun t => t.out.any fun o => match o with
      | .flit 3 q => q.kind = 11 && q.hops = 6
      | _ => false) = true
    ∧ after (.routeUpdate 3 { pk1 with kind := 11, dst := 9 } []) (linked ge []) (fun t => t.out.any fun o => match o with
      | .flit 3 q => q.kind = 5 && q.err = 5 && q.dst = 7
      | _ => false) = true := by decide +kernel

/-- The lines of a peer's access that the host holds; the COUNT of a piece; a command without parked writes. -/
theorem test_meets_peerWaits : (hostHolds 0x140 (peers [])).mem.heldLines 0x5000 8 = [0x140] ∧ (peers []).mem.heldLines 0x5000 8 = []
    ∧ carried (accFmt 2) 1 0 (tileBytes 2 1) = tileEdge 1 * tileEdge 1 ∧ (withCmd (cmd 9) (peers [])).parkedOf 5 44 = false := by decide +kernel

theorem test_peerWaits : after (.fabricWrite pk1) (hostHolds 0x140 (peers [])) (fun t =>
    t.mem.snoops.map (·.line) = [0x140] && Store.num t.mem.hbm 0x5000 8 = 0) = true := by decide +kernel

theorem test_meets_peerPages : (peers []).peerPages 0x5000 8 true = .ok [(⟨71, 0x3000, 30⟩, 0x5000, 8)]
    ∧ (linked ge []).peerPages 0x5000 8 true = .error 6 := ⟨rfl, rfl⟩

theorem test_fabricWrite : after (.fabricWrite pk1) (peers []) (fun t => Store.num t.mem.hbm 0x5000 8 = 0x1122
    && t.fabric.performed = [((7, 9), 0)]) = true := by decide +kernel

theorem test_fabricAtomic : after (.fabricAtomic pk1) (put 0x5000 77 (peers [])) (fun t => Store.num t.mem.hbm 0x5000 8 = 77 + 0x1122) = true := by
  decide +kernel

/-! Translation, reliability, debug and late results. -/

def walking (a : GlobalAcc) (s : State) : State := { s with cores := [(5, { c0 with globals := [a], holds := [⟨2, 0, 3, 40⟩] })] }
def ready : State := { mapped (on c0) with cur := 5 }
/-- A package whose fabric table maps page 0x5000 by a 4 KiB leaf, a migration of it to the second tier requested in slot 1. -/
def migReq : State :=
  let s := put 0x1000 0x2001 (put 0x2000 0x3001 (put 0x3000 0x6001 (put 0x6000 0x7001 (put 0x7028 0x5007 (put 0x5000 0x77 base)))))
  { s with xlate := { s.xlate with fabroot := 0x1000, migVa := 0x5000, migCtl := BitVec.ofNat 64 (2 * 2 ^ 14 + 2 ^ 16), migPa := 0x9000 } }
def mig0 : Migration := migReq.migRequest.getD ⟨0, 0, 0, 0, 0, 0, 0, 0, 0, 0, 0, 0, 0, false, false, none⟩
def migAt (n : Nat) : State := { migReq with xlate := { migReq.xlate with migs := [{ mig0 with step := n }] } }

theorem test_meets_walks : ((walking ga ready).mem.walk ((walking ga ready).rootOf 5) 0x5008).toOption = some ⟨7, 0x3000, 30⟩
    ∧ ((walking ga (on c0)).mem.walk ((walking ga (on c0)).rootOf 5) 0x5008).toOption = none := by decide +kernel

/-- The walk of the access stands alone on its die, and the die TLB has served it. -/
theorem test_meets_walkers : (let s := walking ga ready
      ga.leaf = none ∧ s.xlate.walkCache = [] ∧ (∃ h ∈ (s.core 5).holds, h.id = 40 ∧ h.cause = 2)
        ∧ (s.walkers (dieOf 5)).filter (fun p => p.2.leaf.isNone && s.walkPage (s.rootOf p.1) p.2.va = s.walkPage (s.rootOf 5) ga.va) = [(5, ga)]
        ∧ permCause 7 ga.kind.writes true = 0 ∧ ga.kind.writes = false)
    ∧ ({ ga with leaf := some (5, 30), dieHit := true, kind := .store [1] }.leaf = some (5, 30) ∧ permCause 5 true true ≠ 0)
    ∧ (pteWb 7 = false ∧ c0.rels = [] ∧ homeDie 0x5008 = dieOf 5) ∧ (on c0).core 5 = c0 ∧ c0.global? 40 = none := by decide +kernel

def parked0 : Parked := ⟨0, 5, 40, true, 1, 8, 4, .store [1, 2, 3, 4], 10⟩

theorem test_meets_migration : (parked0.slot = 1 ∧ parked0.die < 4 ∧ parked0.kind = .store [1, 2, 3, 4] ∧ parked0.len = 4 ∧ mig0.failed = 0)
    ∧ (let s := { migAt 2 with mem := (migAt 2).mem.mark 0 (0x5000 / 64) }; s.copyError mig0 = 2)
    ∧ (let g := { mig0 with pte := mig0.pte + 2 ^ 9 + 2 * 2 ^ 52 }; (migAt 2).copyError g = 3 ∧ g.retried = false ∧ { g with retried := true }.retried = true)
    ∧ ({ mig0 with step := 5 }.step = 5 ∧ (∀ p ∈ (migAt 5).cores, p.2.holds = []) ∧ (∀ p ∈ (migAt 5).saved, p.ctx.holds = []))
    ∧ (∀ p ∈ base.xlate.parked, p.engine = false) := by decide +kernel

/-- The host holds a line of a migration's source page; a shootdown that has dropped its entries. -/
theorem test_meets_copies : (hostHolds 0x140 (migAt 2)).mem.heldLines mig0.oldPa (2 ^ mig0.size) ≠ [] ∧ (migAt 2).mem.heldLines mig0.oldPa (2 ^ mig0.size) = []
    ∧ { base.xlate with shootdowns := [(0, 0)], dropped := some (9, []) }.dropped ≠ none
    ∧ base.xlate.dropped = none ∧ (∀ h ∈ ((walking ga ready).core 5).holds, h.id = 40 → h.cause ≠ 3) := by decide +kernel

theorem test_meets_translation : ((walking ga ready).core 5).global? 40 = some ga ∧ permCause 5 true true ≠ 0
    ∧ (0x4000 % 4096 = 0 ∧ 0x4003 < 2 ^ 48 ∧ 0x4003 / 2 ^ 12 % 4 = 0) ∧ ¬(0x4001 % 4096 = 0) ∧ base.xlate.shootdowns.length < 16
    ∧ (List.replicate 16 (0, 0)).length = 16 ∧ (let x := { base.xlate with heatCfg := 0x1000000 }; x.decay ≠ 0 ∧ x.decayAt + x.decay ≤ 1250000)
    ∧ migReq.migRequest = some mig0 ∧ migReq.mig? 1 = none ∧ base.migRequest = none ∧ ((migAt 2).mig? 1).isSome = true
    ∧ mig0.step = 1 ∧ (migAt 2).copyError mig0 = 0 ∧ mig0.oldLoc = 0 ∧ mig0.newLoc = 2 ∧ (∀ p ∈ migReq.cores, p.2.globals = [])
    ∧ (∀ p ∈ migReq.saved, p.ctx.globals = []) ∧ migReq.xlate.parked = [] := by decide +kernel

theorem test_migrationCopy : Store.num ((migAt 2).mem.copyPage 0 0x5000 2 0x9000 4096).tier 0x9000 8 = 0x77
    ∧ after (.migrationRepoint 1) (migAt 2) (fun t => Store.num t.mem.hbm 0x7028 8 = pteWith mig0.pte 0x9000 2 true) = true
    ∧ after (.migrationFinish 1) (migAt 4) (fun t => Store.num t.mem.hbm 0x7028 8 = pteWith mig0.pte 0x9000 2 false) = true := by decide +kernel

def scans (f : Scan → Scan) : State :=
  { base with reliab := { base.reliab with scans := base.reliab.scans.mapIdx fun i x => if i = 1 then f x else x } }

theorem test_meets_reliability : 1 < base.reliab.scans.length ∧ (Scan.reset.stopped = false ∧ Scan.reset.named = none ∧ Scan.reset.scanning = none)
    ∧ (∃ q, base.spareOf 1 = some q) ∧ base.oldestOf 1 (base.homed 1) = some 0 ∧ base.reliab.badCores = [] ∧ base.launches = []
    ∧ (∀ n ∈ clusterCores 1 15, (base.core n).launch = none) ∧ ((on c0).core 5).launch ≠ none
    ∧ (let r := { base.reliab with pendingRows := [(5, 9)] }; r.pendingRows = [(5, 9)] ∧ (∀ p ∈ r.spares, p.1 ≠ 5))
    ∧ (base.reliab.decayPeriod ≠ 0 ∧ base.reliab.decayAt = 0 ∧ base.memOk = true)
    ∧ ((200 : Word).toNat < 2 ^ 28 ∧ 200 ≤ (200 : Word).toNat % 2 ^ 16 ∧ (10000 : Word).toNat % 2 ^ 16 ≤ 10000)
    ∧ (10001 : Word).toNat % 2 ^ 16 > 10000 ∧ base.reliab.ueaddr.getLsbD 63 = false := by
  refine ⟨?_, ?_, ⟨16, ?_⟩, ?_⟩ <;> decide +kernel

theorem test_meets_scans : (base.power.ready = true ∧ Scan.reset.nextAt ≤ base.chip ∧ base.chip < { Scan.reset with nextAt := 11 }.nextAt)
    ∧ (∀ n ∈ clusterCores 1 3, (base.core n).scanReady = true) ∧ 4 ≤ base.shadowFree 1
    ∧ (scans fun x => { x with stopped := true }).inPlaceNow 1 = some 0 ∧ base.inPlaceNow 1 ≠ some (3 % 16)
    ∧ { base.reliab with pendingRows := [(base.physCore 5, 9)] }.pendingRows = [(base.physCore 5, 9)]
    ∧ base.ctxAt 3 = none ∧ (∀ y ∈ base.mem.l2, y.1 ≠ 3) ∧ base.liveOwner ((base.core 5).tagOf 3) = none := by decide +kernel

theorem test_scanMigration : after (.scanMigration 1) (scans fun x => { x with named := some 3, moving := true }) (fun t => t.bound 1 3 = 16) = true
    ∧ after (.scanResult 1 false) (scans fun x => { x with scanning := some 3 }) (fun t => 20 ∈ t.reliab.retired && t.power.nospare.testBit 1) = true := by
  decide +kernel

def stoppedAt : State := { oneOn { l0 with dbgAt := some 4 } { c0 with mode := .debug } with agenda := [] }
def dbg (f : Debug → Debug) (s : State) : State := { s with dbg := f s.dbg }

theorem test_meets_debug : ((on c0).core 5).launch = some 3 ∧ (on c0).launch? 3 = some l0 ∧ l0.dbgAt = none
    ∧ ((stoppedAt.core 5).mode = .debug ∧ stoppedAt.dumpsLaunch 5 = false) ∧ (base.core 6).launch = none
    ∧ (dbg (fun d => { d with step := some (5, 3, 7) }) (on c0)).dbg.step = some (5, 3, 7) ∧ 7 ≤ ((on c0).core 5).sched
    ∧ (0 ≤ (3 : Word).toNat ∧ base.dbg.trc.cons ≤ 0 ∧ base.dbg.trc.prod < (1 : Word).toNat)
    ∧ (dbg (fun d => { d with skq := some 3 }) base).dbg.skq ≠ none ∧ base.dbg.dump = none ∧ base.launchOf 0 = none
    ∧ (let v : Word := BitVec.ofNat 64 (1 + 5 * 2 ^ 8 + 2 ^ 16)
      stoppedAt.launchOf (v.toNat / 2 ^ 8 % 256) = some { l0 with dbgAt := some 4 } ∧ v.toNat < 2 ^ 40 ∧ v.toNat / 2 ^ 3 % 32 = 0
        ∧ v.toNat / 2 ^ 16 % 2 ^ 24 ≠ 0 ∧ stoppedAt.dbg.dumpVa.toNat % 64 = 0) := by decide +kernel

def dump0 (limit off : Nat) : Dump := ⟨5, 3, 2, limit, false, 4, off⟩

theorem test_meets_dump : (on c0).core 5 = c0 ∧ c0.atomicsOpen = false ∧ min (dump0 4096 4096).limit Config.dumpBytes ≤ (dump0 4096 4096).off
    ∧ (dump0 4096 0).off < min (dump0 4096 0).limit Config.dumpBytes
    ∧ (withPkt 64 0).tellerPa ((withPkt 64 0).dumpRoot (dump0 4096 0)) 0x5000 true = .ok 0x5000
    ∧ base.tellerPa (base.dumpRoot (dump0 4096 0)) 0x5000 true = .error 1 := ⟨rfl, rfl, by decide, by decide, rfl, rfl⟩

theorem test_debugStop : after (.dbgStop 5) (on c0) (fun t => t.inDebug 5 && (t.core 5).mode = .debug && t.dbg.dbgstat.toNat / 2 ^ 32 = 7) = true
    ∧ after (.dbgResume 5) stoppedAt (fun t => (t.core 5).mode = .running) = true := by decide +kernel

def cWait (fl : Nat) : Core := { c0 with flags := BitVec.ofNat 64 fl, flagWait := some ⟨1, true, none⟩ }

theorem test_meets_lateResults : (cWait 2).flags.getLsbD 1 = true ∧ (cWait 0).flags.getLsbD 1 ≠ true ∧ c0.flagWait = none ∧ c0.rdvWait = none
    ∧ (on (cWait 2)).launchOf 5 = some l0 ∧ pkt0.deleg.testBit Trap.allowance.bit = false
    ∧ (let c := { cWait 0 with allowDue := true, code := [(5, 0xFFFE)] }
      c.mode = .running ∧ c.flagWait ≠ none ∧ (on c).earlyCauses ((on c).landNow 5) 5 [] = []
        ∧ (on c).waitCause 5 = some ⟨c.cause .allowance, .plain⟩)
    ∧ (let e := { cmd 7 with failed := some (0x18, 64, 1) }
      let s := withCmd e (on c0)
      (s.owner 5 44).eng? 44 = some e ∧ ackOp e.op = true ∧ e.started = true ∧ (s.owner 5 44).statusOpen e = false ∧ s.opOf 5 44 = none
        ∧ s.parkedOf 5 44 = false ∧ { s with xlate := { s.xlate with parked := [{ parked0 with engine := true, acc := 44 }] } }.parkedOf 5 44 = true)
    ∧ (let s := { on { c0 with rdvWait := some ⟨1, 4, none⟩ } with launches := [], rounds := [⟨3, 1, 1, [(5, 77)], true, none⟩] }
      (∀ x, s.launch? 3 = some x → x.dbgAt = none ∧ x.stops = []) ∧ (s.core 5).launch = some 3)
    ∧ (let s := withCmd (cmd 6) (on c0)
      s.owner 5 44 = s.core 5 ∧ (s.owner 5 44).eng? 44 = some (cmd 6) ∧ (s.owner 5 44).statusOpen (cmd 6) = false ∧ (cmd 6).n ≤ (cmd 6).count
        ∧ s.opOf 5 44 = none ∧ s.parkedOf 5 44 = false ∧ (s.core 5).owns 44 = true ∧ ((on c0).core 5).launch = (⟨5, some 3, 64, [1], true, some 7⟩ : Lateral).launch)
    ∧ ((cmd 11).writes = 0 ∧ (cmd 11).reads ≠ 0 ∧ ((withCmd (cmd 11) (on c0)).owner 5 44).statusOpen (cmd 11) = false) := by
  decide +kernel

/-- Cores 5 and 6 have arrived with 77 and 66. -/
def bothWait : State :=
  { on c0 with
    launches := [], rounds := [⟨3, 1, 2, [(6, 66), (5, 77)], true, none⟩]
    cores := [(5, { c0 with rdvWait := some ⟨1, 4, none⟩ }), (6, { c0 with rdvWait := some ⟨1, 4, none⟩ })] }

theorem test_meets_rounds : ([(6, (66 : Word)), (5, 77)].map Prod.fst).Nodup
    ∧ (∀ a ∈ [(6, (66 : Word)), (5, 77)], (bothWait.core a.1).launch = some 3 ∧ (bothWait.core a.1).mode = .running
      ∧ (bothWait.core a.1).rdvWait = some ⟨1, 4, none⟩) := by decide +kernel

/-- 09 R158: both take the value of core 5; 19 R333: a failed command ends with its code and count. -/
theorem test_lateEnds : after (.rdvRoundRelease 3 1) bothWait (fun t => (t.core 6).rdvVal = some 77 && (t.core 5).rdvVal = some 77) = true
    ∧ after (.engineComplete 5 44) (withCmd { cmd 7 with failed := some (0x18, 64, 1) } (on c0)) (fun t =>
      (t.core 5).ackc = 2 && (t.core 5).engines.isEmpty && t.lateral.map (·.data) = [numBytes 8 (statusWord true true 0x18 64)]) = true
    ∧ after (.allowanceExpiry 5) (on c0) (fun t => (t.core 5).allowDue) = true := by decide +kernel

theorem test_rdvRelease :
    after (.rdvRoundRelease 3 1) { on { c0 with rdvWait := some ⟨1, 4, none⟩, lag := 9 } with launches := [], rounds := [⟨3, 1, 1, [(5, 77)], true, none⟩] }
      (fun t => t.rounds = [] && (t.core 5).lag = 0 && (t.core 5).rdvVal = some 77) = true
    ∧ after (.engineComplete 5 44) (withCmd (cmd 6) (on c0)) (fun t => (t.core 5).ackc = 2 && t.lateral.map (·.addr) = [(cmd 6).stw]) = true := by decide +kernel

theorem test_reset : State.reset.memOk = true := by decide +kernel

theorem test_bringUp : after (.powerUp BootInput.standard) { State.reset with agenda := [] } (fun t =>
    t.power.ready && t.power.hostLink && t.cores.isEmpty && t.tellers.taken.isEmpty) = true := by
  decide +kernel

/-! The manual's worked examples, each in lane 0 (p1 selects it). -/

def p1 : Guard := ⟨1, false⟩
def v1 : VArgs := { v0 with guard := p1 }
/-- Core 5 with order j and vector values (start ply, plies, value) in lane 0. -/
def lane0 (j : Nat) (xs : List (Nat × Nat × Nat)) : State :=
  let put1 (st : Store 512) (x : Nat × Nat × Nat) : Store 512 := Store.put st x.1 ((List.range x.2.1).map fun i => BitVec.ofNat 512 (x.2.2 / 16 ^ i % 16))
  on { c0 with ctrl := Store.put ctrlReset 0 [BitVec.ofNat 64 j], preds := [(1, 1)], plies := xs.foldl put1 [] }
/-- What lane 0 holds in n values of w plies from ply p on, and its flag word, once everything has landed. -/
def lands (i : Instr) (s : State) (p w n : Nat) : Option (List Nat × Nat) :=
  match exec i s with
  | .next t =>
    let c := (t.core 5).items.foldl (fun c x => match x.act with | .land d => c.land d | _ => c) (t.core 5)
    some ((List.range n).map (fun k => (c.plyVals (p + k * w) w).getD 0 0), ((List.range 40).map fun b => ((Store.read c.flagFile b).toNat % 2) * 2 ^ b).sum)
  | _ => none

/-- 17 R311: saturating and wrapping sums. -/
theorem test_integers : let s := lane0 0 [(20, 3, 0x7F0), (30, 3, 0x020)]
    let v : VArgs := { v1 with dw := 3, dst := 10, sw := 3, sa := 20, sb := 30 }
    lands (.viAdd v) s 10 3 1 = some ([0x810], 0) ∧ lands (.viAddSat v) s 10 3 1 = some ([0x7FF], 0)
      ∧ lands (.viAddSat { v with sub := 1 }) s 10 3 1 = some ([0x810], 0) ∧ lands (.viAdd { v with dw := 4 }) s 10 4 1 = some ([0x0810], 0) := by
  decide +kernel

/-- 12 R224: the series of 1/(2 + x), and infinities with their flags. -/
theorem test_divide : let v : VArgs := { v1 with sub := 1, dst := 0, sa := 100, sb := 200 }
    lands (.vfDiv v) (lane0 2 [(100, 8, 0x3F800000), (200, 8, 0x40000000), (208, 8, 0x3F800000)]) 0 8 3
        = some ([0x3F000000, 0xBE800000, 0x3E000000], 0)
      ∧ lands (.vfDiv v) (lane0 2 [(100, 8, 0x3F800000), (208, 8, 0x3F800000)]) 0 8 3 = some ([0x7F800000, 0xFF800000, 0x7FC00000], 0x4008) := by
  decide +kernel

/-- 18 R320: derivative and integral. -/
theorem test_jets : let s := lane0 3 [(100, 8, 0x40000000), (108, 8, 0x40400000), (116, 8, 0x3F000000), (124, 8, 0x3E800000)]
    let v : VArgs := { v1 with sub := 1, dst := 200, sa := 100 }
    lands (.jgetD { v with sb := 0x302 }) s 200 8 1 = some ([0x3F800000], 0)
      ∧ lands (.jdif { v with sb := 0 }) s 200 8 4 = some ([0x40400000, 0x3F800000, 0x3F400000, 0], 0)
      ∧ lands (.jint { v with sb := 0 }) s 200 8 4 = some ([0, 0x40000000, 0x3FC00000, 0x3E2AAAAB], 0x8000) := by decide +kernel

/-- 18 R323: exp at 1 takes f0 as rounded. -/
theorem test_exp : lands (.exp { v1 with sub := 1, dst := 800, sa := 700, sb := 5 }) (lane0 2 [(700, 8, 0x3F800000), (708, 8, 0x3F800000)]) 800 8 3
    = some ([0x402DF854, 0x402DF854, 0x3FADF854], 1) := by decide +kernel

/-- 12 R219, R220: f32 to e4m3 under the policies. -/
theorem test_convert : let src (x : Nat) : EV := decodeFp (fpFmt 1) x
    (convFloat fE4m3 0 0 0 (src 0x43960000)).code = 0x79 ∧ (convFloat fE4m3 0 0 0 (src 0x43E60000)).code = 0x7E
      ∧ (convFloat fE4m3 0 0 0 (src 0x43EB0000)).code = 0x7E ∧ (convFloat fE4m3 0 2 0 (src 0x43EB0000)).code = 0x7F
      ∧ (convFloat fE4m3 0 1 0 (src 0x43EB0000)).flags.invalid = true := by decide +kernel

/-- 10 R175: three results of one cycle. -/
theorem test_precedence : let d (p w v : Nat) : Dest := .plies p w 1 [v]
    ((((c0.land (d 100 1 7)).land (d 100 3 0xABC)).land (d 101 4 0x1234)).plyVals 100 5).getD 0 0 = 0x1234C := by decide +kernel

/-- 16 R284: the 12-bit counter at bit 8. -/
theorem test_ext : (on { c0 with scalars := [(2, 0x0089AB00)] }).curCore.guard g0 = some true
    ∧ after (.ext ⟨g0, 7, 2, true, 8 + 11 * 64, none⟩) (on { c0 with scalars := [(2, 0x0089AB00)] }) (fun t =>
      (t.core 5).items.map (·.act) = [.land (.scalar 7 0x9AB)]) = true := by decide +kernel

/-- 14 R256, R247, R255: encodings that the manual names. -/
theorem test_encodings : decodeSlot .v0 (0x13 * 2 ^ 41 + 8 * 2 ^ 37 + 8 * 2 ^ 22) none = .ok (.vfAdd ⟨false, g0, 1, true, 8, 0, 8, 0, 0⟩)
    ∧ (∃ e, decodeSlot .v0 (0x59 * 2 ^ 41 + 8 * 2 ^ 37 + 8 * 2 ^ 22) none = .error e)
    ∧ (∃ e, decodeSlot .v0 (0x60 * 2 ^ 41 + 8 * 2 ^ 37 + 4 * 2 ^ 22 + 0x8A) none = .error e)
    ∧ (∃ e, decodeSlot .x (0x2C * 2 ^ 27) none = .error e) ∧ (∃ e, decodeSlot .m0 (0x1C * 2 ^ 35) none = .error e)
    ∧ (∃ e, decodeSlot .t (2 * 2 ^ 29 + 64 * 2 ^ 13) none = .error e) ∧ (∃ e, decodeSlot .e (2 ^ 35 + 5 * 2 ^ 17) (some 1) = .error e) :=
  ⟨rfl, ⟨_, rfl⟩, ⟨_, rfl⟩, ⟨_, rfl⟩, ⟨_, rfl⟩, ⟨_, rfl⟩, ⟨_, rfl⟩⟩

/-- 07 R132, 08 R137, 02 R36, 03 R45: register words after reset, a group entry, and an access of four bytes. -/
theorem test_barRead : let s := State.reset
    s.barRead 0x208 8 = some 0xF800F800F800F800 ∧ s.barRead 0x338 8 = some 0x100000000 ∧ s.barRead 0x1030 8 = some 0x100000100
      ∧ s.barRead 0x210 8 = some 75 ∧ s.barRead 0x200 8 = some 0x40A0190 ∧ s.barRead 0x100020 8 = some 0 ∧ s.barRead 8 4 = none
      ∧ (State.barRead { s with fabric := s.fabric.setEntry 5 ⟨true, 31, 0, 3, 14, 2000, 1⟩ } 0x140A0 8) = some 0xBE00001800000000
      ∧ (State.barRead { s with fabric := s.fabric.setEntry 5 ⟨true, 31, 0, 3, 14, 2000, 1⟩ } 0x140A8 8) = some 0xE007D000010 := by
  decide +kernel

/-- From reset the step runs the instruction placed by withFetchWord: add s1, s2, s3 is pending. -/
theorem test_withFetchWord : (match step (State.reset.withFetchWord 384 addB) with
    | .next t => (t.core 0).items.map (·.act) = [.land (.scalar 1 0)] && (t.core 0).sched = 1 && (t.core 0).pc = 25
    | _ => false) = true ∧ decodeTableWord 384 addB = some (.xAdd x0) := by decide +kernel
end Sys2Proof.Tests
end

/-! The arithmetic, logic and compare forms of the X slot (16 R281 to R283). -/

namespace Sys2Proof.Machine

/-! Encodings (14 R252). -/

theorem xForm_xBase (k : Nat) (x : XArgs) (i : Instr) (h : xForm k x = some i) : i.xBase = some (k, x) := by
  unfold xForm at h
  split at h <;> cases h <;> rfl

theorem accept_eq_ok (i j : Instr) (h : accept i = .ok j) : i = j := by
  unfold accept at h
  split at h
  · exact Except.ok.inj h
  · cases h

/-- An X slot value that decodes is a NOP or one of the forms of its base code, with its own fields. -/
theorem decodeX_cases (w : Nat) (lit : Option Nat) (i : Instr) (h : decodeX w lit = .ok i) :
    i = .nop ∨ xForm (bits w 28 5) (xFields w lit) = some i := by
  unfold decodeX at h
  split at h
  · split at h
    · split at h
      · exact .inl (Except.ok.inj h).symm
      · cases h
    · cases h
  · split at h
    · rename_i j hj
      exact .inr (accept_eq_ok j i h ▸ hj)
    · cases h

theorem b2n_bit (v n : Nat) : b2n (bit v n) = v / 2 ^ n % 2 := by
  rcases Nat.mod_two_eq_zero_or_one (v / 2 ^ n) with h | h <;> simp [bit, b2n, h]

/-- OP of a decoded X form is 2·base + I (16 R282, R283). -/
theorem decodeSlot_x_opcode (w : Nat) (lit : Option Nat) (i : Instr) (k : Nat) (y : XArgs)
    (h : decodeSlot .x w lit = .ok i) (hk : i.xBase = some (k, y)) : w / 2 ^ 27 % 64 = 2 * k + b2n y.imm := by
  rcases decodeX_cases w lit i h with rfl | hf
  · cases hk
  · rw [xForm_xBase _ _ _ hf] at hk
    cases hk
    rw [show (xFields w lit).imm = bit w 27 from rfl, b2n_bit, bits]
    omega

/-! Operands. -/

/-- The word of an n-bit field is the field's sign extension (00 R6). -/
theorem sextNat_eq_signExtend (n v : Nat) (hn : 0 < n) : sextNat n v = (BitVec.ofNat n v).signExtend 64 := by
  obtain ⟨k, rfl⟩ : ∃ k, n = k + 1 := ⟨n - 1, by omega⟩
  have half : v % 2 ^ (k + 1) < 2 ^ k ↔ 2 * (v % 2 ^ (k + 1)) < 2 ^ (k + 1) := by rw [Nat.pow_succ']; omega
  simp only [BitVec.signExtend, BitVec.toInt, BitVec.toNat_ofNat, sextNat, Nat.add_sub_cancel,
    if_neg (Nat.succ_ne_zero k), half, apply_ite (BitVec.ofInt 64), BitVec.ofInt_natCast]
  norm_cast

theorem sextNat_toInt (n v : Nat) (hn : 0 < n) (h : n ≤ 64) : (sextNat n v).toInt = (BitVec.ofNat n v).toInt := by
  rw [sextNat_eq_signExtend n v hn, BitVec.toInt_signExtend_of_le h]

theorem xOperandB_register (x : XArgs) (v : Word) (h : x.imm = false) : xOperandB x v = v := by
  simp only [xOperandB, h]

theorem xOperandB_immediate (x : XArgs) (v : Word) (h : x.imm = true) (hl : x.lit = none) :
    (xOperandB x v).toInt = (BitVec.ofNat 15 x.sb).toInt := by
  simp only [xOperandB, h, hl]
  exact sextNat_toInt 15 x.sb (by decide) (by decide)

theorem xOperandB_literal (x : XArgs) (v : Word) (l : Nat) (h : x.imm = true) (hl : x.lit = some l) :
    (xOperandB x v).toInt = (BitVec.ofNat 32 l).toInt := by
  simp only [xOperandB, h, hl]
  exact sextNat_toInt 32 l (by decide) (by decide)

/-! The two shared forms. -/

/-- A scalar form under a true guard: its value is pending after the operands are read. -/
theorem xScalar_lands {x : XArgs} {s : State} {lat : Nat} {f : Word → Word → Word → Word} {v : Word}
    (hg : s.curCore.guard x.guard = some true)
    (hv : f (xOperands x false s.curCore).1 (xOperands x false s.curCore).2.1 (xOperands x false s.curCore).2.2.1 = v) :
    xScalar x false lat f s = .next (s.pending (xOperands x false s.curCore).2.2.2 lat 6 (.land (.scalar x.dst v))) := by
  subst hv
  exact slotRun_runs _ _ _ _ hg rfl

theorem allLanes_getLsbD (b : Bool) (l : Nat) (hl : l < 128) : (allLanes b).getLsbD l = b := by
  cases b
  · exact BitVec.getLsbD_zero
  · rw [allLanes, if_pos rfl, BitVec.getLsbD_allOnes, decide_eq_true hl]

/-- A compare under a true guard: every lane of the pending predicate is the bit of the test. -/
theorem xCompare_lands {x : XArgs} {s : State} {f : Word → Word → Bool} {test : Prop}
    (hg : s.curCore.guard x.guard = some true)
    (ht : f (xOperands x false s.curCore).1 (xOperands x false s.curCore).2.1 = true ↔ test) :
    ∃ bits : LaneMask,
      xCompare x f s = .next (s.pending (xOperands x false s.curCore).2.2.2 1 6
          (.land (.pred x.dst (BitVec.allOnes 128) bits)))
        ∧ ∀ l < 128, bits.getLsbD l = true ↔ test :=
  ⟨_, slotRun_runs _ _ _ _ hg rfl, fun l hl => by rw [allLanes_getLsbD _ l hl]; exact ht⟩

/-! Word operations as arithmetic (16 R282). -/

theorem word_sub (a b : Word) : a - b = BitVec.ofInt 64 (a.toNat - b.toNat) := by
  apply BitVec.eq_of_toNat_eq
  rw [BitVec.toNat_sub, BitVec.toNat_ofInt]
  omega

theorem word_mulhu (a b : Word) :
    BitVec.ofNat 64 (a.toNat * b.toNat / 2 ^ 64) = (a.zeroExtend 128 * b.zeroExtend 128).extractLsb' 64 64 := by
  have bound := Nat.mul_lt_mul'' a.isLt b.isLt
  have wide (c : Word) : (c.zeroExtend 128).toNat = c.toNat := BitVec.toNat_setWidth_of_le (by decide)
  apply BitVec.eq_of_toNat_eq
  rw [BitVec.extractLsb'_toNat, BitVec.toNat_mul, wide, wide, BitVec.toNat_ofNat, Nat.shiftRight_eq_div_pow]
  omega

theorem word_mulhs (a b : Word) :
    BitVec.ofInt 64 (a.toInt * b.toInt / 2 ^ 64) = (a.signExtend 128 * b.signExtend 128).extractLsb' 64 64 := by
  have product : a.signExtend 128 * b.signExtend 128 = BitVec.ofInt 128 (a.toInt * b.toInt) := (BitVec.ofInt_mul _ _).symm
  rw [product]
  apply BitVec.eq_of_toNat_eq
  rw [BitVec.extractLsb'_toNat, BitVec.toNat_ofInt, BitVec.toNat_ofInt, Nat.shiftRight_eq_div_pow]
  omega

theorem word_shl (a : Word) (n : Nat) : a <<< n = BitVec.ofNat 64 (a.toNat * 2 ^ n) := by
  rw [← Nat.shiftLeft_eq]
  rfl

theorem word_shr (a : Word) (n : Nat) : a >>> n = BitVec.ofNat 64 (a.toNat / 2 ^ n) := by
  rw [← Nat.shiftRight_eq_div_pow, ← BitVec.toNat_ushiftRight, BitVec.ofNat_toNat, BitVec.setWidth_eq]

theorem word_sar (a : Word) (n : Nat) : a.sshiftRight n = BitVec.ofInt 64 (a.toInt.fdiv (2 ^ n)) := by
  rw [BitVec.sshiftRight, Int.shiftRight_eq_div_pow, Int.fdiv_eq_ediv_of_nonneg _ (Int.pow_nonneg (by decide)),
    Int.natCast_pow, Int.cast_ofNat_Int]

theorem word_min (a b : Word) : (if a.toInt ≤ b.toInt then a else b) = BitVec.ofInt 64 (min a.toInt b.toInt) := by
  rw [Int.min_def, apply_ite (BitVec.ofInt 64), BitVec.ofInt_toInt, BitVec.ofInt_toInt]

theorem word_max (a b : Word) : (if a.toInt ≤ b.toInt then b else a) = BitVec.ofInt 64 (max a.toInt b.toInt) := by
  rw [Int.max_def, apply_ite (BitVec.ofInt 64), BitVec.ofInt_toInt, BitVec.ofInt_toInt]

theorem word_minu (a b : Word) : (if a.toNat ≤ b.toNat then a else b) = BitVec.ofNat 64 (min a.toNat b.toNat) := by
  rw [Nat.min_def, apply_ite (BitVec.ofNat 64), BitVec.ofNat_toNat, BitVec.ofNat_toNat, BitVec.setWidth_eq, BitVec.setWidth_eq]

theorem word_maxu (a b : Word) : (if a.toNat ≤ b.toNat then b else a) = BitVec.ofNat 64 (max a.toNat b.toNat) := by
  rw [Nat.max_def, apply_ite (BitVec.ofNat 64), BitVec.ofNat_toNat, BitVec.ofNat_toNat, BitVec.setWidth_eq, BitVec.setWidth_eq]

/-- Settles O15: every form is xScalar of a word operation, and each word operation is the arithmetic of 16 R282. -/
theorem scalarArithmetic : Obligations.ScalarArithmetic := by
  intro x s hg
  dsimp only [exec]
  exact ⟨rfl, fun w lit i k y h hk _ => decodeSlot_x_opcode w lit i k y h hk, rfl, rfl,
    xOperandB_register x _, xOperandB_immediate x _, fun h l hl => xOperandB_literal x _ l h hl,
    xScalar_lands hg rfl,
    xScalar_lands hg (word_sub _ _),
    xScalar_lands hg rfl,
    xScalar_lands hg (word_mulhu _ _),
    xScalar_lands hg (word_mulhs _ _),
    ⟨_, xScalar_lands hg rfl, fun _ _ => BitVec.getLsbD_and⟩,
    ⟨_, xScalar_lands hg rfl, fun _ _ => BitVec.getLsbD_or⟩,
    ⟨_, xScalar_lands hg rfl, fun _ _ => BitVec.getLsbD_xor⟩,
    xScalar_lands hg (word_shl _ _),
    xScalar_lands hg (word_shr _ _),
    xScalar_lands hg (word_sar _ _),
    xScalar_lands hg (word_min _ _),
    xScalar_lands hg (word_max _ _),
    xScalar_lands hg (word_minu _ _),
    xScalar_lands hg (word_maxu _ _)⟩

/-- Settles O16: every form is xCompare of its test, and a predicate that lands in p0 changes nothing. -/
theorem scalarCompares : Obligations.ScalarCompares := by
  intro x s hg
  dsimp only [exec]
  exact ⟨rfl, fun w lit i k y h hk _ => decodeSlot_x_opcode w lit i k y h hk, fun _ _ _ _ => rfl,
    xOperandB_immediate x _,
    xCompare_lands hg (beq_iff_eq.trans BitVec.toNat_inj.symm),
    xCompare_lands hg (bne_iff_ne.trans (not_congr BitVec.toNat_inj.symm)),
    xCompare_lands hg decide_eq_true_iff,
    xCompare_lands hg decide_eq_true_iff,
    xCompare_lands hg decide_eq_true_iff,
    xCompare_lands hg decide_eq_true_iff⟩

end Sys2Proof.Machine

/-! The layout of a vector access in memory (16 R287, 00 R6). -/

namespace Sys2Proof.Machine

/-! Positional numbers: digits of a number, of a joined list and of a digit. -/

/-- The digit i of a number that is written from its digits, lowest first. -/
theorem foldr_digit {α : Type} (b : Nat) (f : α → Nat) (hf : ∀ x, f x < b) (xs : List α) (i : Nat) :
    xs.foldr (fun x acc => f x + b * acc) 0 / b ^ i % b = (xs.map f).getD i 0 := by
  induction xs generalizing i with
  | nil => rw [List.foldr_nil, Nat.zero_div, Nat.zero_mod, List.map_nil, List.getD_nil]
  | cons x xs ih =>
    rw [List.foldr_cons, List.map_cons]
    cases i with
    | zero => rw [Nat.pow_zero, Nat.div_one, Nat.add_mul_mod_self_left, Nat.mod_eq_of_lt (hf x), List.getD_cons_zero]
    | succ i =>
      rw [Nat.pow_succ', ← Nat.div_div_eq_div_mul, Nat.add_mul_div_left _ _ (Nat.zero_lt_of_lt (hf x)),
        Nat.div_eq_of_lt (hf x), Nat.zero_add, ih, List.getD_cons_succ]

/-- The digit i of a digit to the base b^w is a digit of the number itself. -/
theorem digit_of_digit (b w v l i : Nat) (hi : i < w) :
    v / (b ^ w) ^ l % b ^ w / b ^ i % b = v / b ^ (l * w + i) % b := by
  obtain ⟨d, rfl⟩ : ∃ d, w = i + (d + 1) := ⟨w - i - 1, by omega⟩
  rw [Nat.pow_add b i (d + 1), Nat.mod_mul_right_div_self, Nat.mod_mod_of_dvd _ ⟨b ^ d, Nat.pow_succ'⟩, ← Nat.pow_add,
    Nat.div_div_eq_div_mul, ← Nat.pow_mul, ← Nat.pow_add, Nat.mul_comm l]

/-- The weight of ply w: four bits each. -/
theorem two_pow_four_mul (w : Nat) : 2 ^ (4 * w) = 16 ^ w := Nat.pow_mul 2 4 w

/-- A nibble of a byte of a number is a nibble of the number. -/
theorem nibble_of_byte (v q : Nat) : v / 256 ^ (q / 2) % 256 / 16 ^ (q % 2) % 16 = v / 16 ^ q % 16 := by
  have nibble := digit_of_digit 16 2 v (q / 2) (q % 2) (by omega)
  rwa [Nat.div_add_mod'] at nibble

/-! Bytes in a store (00 R6). -/

/-- Memory ply p: the low nibble of a byte is the even ply (00 R6). -/
def memPly (m : Store 8) (p : Nat) : Nat := (Store.read m (p / 2)).toNat / 16 ^ (p % 2) % 16

/-- Plies counted from the byte address a. -/
theorem memPly_add (m : Store 8) (a q : Nat) :
    memPly m (2 * a + q) = (Store.read m (a + q / 2)).toNat / 16 ^ (q % 2) % 16 := by
  rw [memPly, Nat.mul_add_div (by decide), Nat.mul_add_mod]

/-- What a cell adds to the number of the n bytes from a. -/
def cellPart (a n : Nat) (c : Nat × Byte) : Nat :=
  if a ≤ c.1 ∧ c.1 < a + n then c.2.toNat * 256 ^ (c.1 - a) else 0

theorem Store.num_cons (c : Nat × Byte) (m : Store 8) (a n : Nat) :
    Store.num (c :: m) a n = cellPart a n c + Store.num m a n := by
  unfold Store.num cellPart
  simp only [← List.foldl_map (f := fun c : Nat × Byte => c.2.toNat <<< (8 * (c.1 - a))) (g := (· + ·)), ← List.sum_eq_foldl]
  by_cases h : a ≤ c.1 ∧ c.1 < a + n
  · rw [List.filter_cons_of_pos (by simpa using h), if_pos h, List.map_cons, List.sum_cons, Nat.shiftLeft_eq, Nat.pow_mul,
      show (2 : Nat) ^ 8 = 256 from rfl]
  · rw [List.filter_cons_of_neg (by simpa using h), if_neg h, Nat.zero_add]

/-- The lowest of the n + 1 bytes from a, and the number of the others. -/
theorem Store.num_succ (m : Store 8) (a n : Nat) (h : Store.wf m = true) :
    Store.num m a (n + 1) = (Store.read m a).toNat + 256 * Store.num m (a + 1) n := by
  obtain ⟨sorted, -⟩ := (Store.wf_iff m).1 h
  clear h
  induction m with
  | nil => rfl
  | cons c r ih =>
    obtain ⟨above, rest⟩ := List.pairwise_cons.1 sorted
    rw [Store.num_cons, Store.num_cons, ih rest]
    rcases Nat.lt_trichotomy c.1 a with hc | rfl | hc
    · have part (b k : Nat) (hb : a ≤ b) : cellPart b k c = 0 := if_neg (by omega)
      rw [part a _ (Nat.le_refl a), part (a + 1) n (Nat.le_succ a), Store.read, if_neg (Nat.ne_of_lt hc), Nat.zero_add,
        Nat.zero_add]
    · have absent : (Store.read r c.1).toNat = 0 := congrArg BitVec.toNat (Store.read_absent _ _ (by
        simp only [List.any_eq_false, beq_iff_eq]
        exact fun d hd => Nat.ne_of_gt (above d hd)))
      have own : cellPart c.1 (n + 1) c = c.2.toNat := by
        rw [cellPart, if_pos (by omega), Nat.sub_self, Nat.pow_zero, Nat.mul_one]
      have other : cellPart (c.1 + 1) n c = 0 := if_neg (by omega)
      rw [own, other, absent, Store.read, if_pos rfl, Nat.zero_add, Nat.zero_add]
    · have part : cellPart a (n + 1) c = 256 * cellPart (a + 1) n c := by
        unfold cellPart
        by_cases h : c.1 < a + (n + 1)
        · rw [if_pos (by omega), if_pos (by omega), show c.1 - a = c.1 - (a + 1) + 1 by omega, Nat.pow_succ',
            Nat.mul_left_comm]
        · rw [if_neg (by omega), if_neg (by omega)]
      rw [part, Store.read, if_neg (Nat.ne_of_gt hc)]
      omega

/-- Byte k of the number of the n bytes from a is the byte at a + k. -/
theorem Store.num_byte (m : Store 8) (a n k : Nat) (h : Store.wf m = true) (hk : k < n) :
    Store.num m a n / 256 ^ k % 256 = (Store.read m (a + k)).toNat := by
  induction k generalizing a n with
  | zero =>
    obtain ⟨j, rfl⟩ : ∃ j, n = j + 1 := ⟨n - 1, by omega⟩
    rw [Store.num_succ m a j h, Nat.pow_zero, Nat.div_one, Nat.add_mul_mod_self_left, Nat.mod_eq_of_lt (Store.read m a).isLt,
      Nat.add_zero]
  | succ k ih =>
    obtain ⟨j, rfl⟩ : ∃ j, n = j + 1 := ⟨n - 1, by omega⟩
    have tail : Store.num m a (j + 1) / 256 = Store.num m (a + 1) j := by
      rw [Store.num_succ m a j h, Nat.add_mul_div_left _ _ (by decide), Nat.div_eq_of_lt (Store.read m a).isLt, Nat.zero_add]
    rw [Nat.pow_succ', ← Nat.div_div_eq_div_mul, tail, ih (a + 1) j (by omega), Nat.add_right_comm, Nat.add_assoc]

/-- Nibble q of the number of the n bytes from a is memory ply 2a + q. -/
theorem Store.num_ply (m : Store 8) (a n q : Nat) (h : Store.wf m = true) (hq : q < 2 * n) :
    Store.num m a n / 16 ^ q % 16 = memPly m (2 * a + q) := by
  rw [← nibble_of_byte, Store.num_byte m a n (q / 2) h (by omega), memPly_add]

@[simp] theorem length_numBytes (n v : Nat) : (numBytes n v).length = n := by simp [numBytes]

/-- Byte k of the bytes of a number. -/
theorem numBytes_byte (n v k : Nat) (hk : k < n) : ((numBytes n v).getD k 0).toNat = v / 256 ^ k % 256 := by
  simp [numBytes, List.getD_eq_getElem?_getD, hk, Nat.shiftRight_eq_div_pow, Nat.pow_mul]

/-- A number written at a as n bytes: memory ply 2a + q is its nibble q. -/
theorem memPly_put_numBytes (m : Store 8) (a n v q : Nat) (hq : q < 2 * n) :
    memPly (Store.put m a (numBytes n v)) (2 * a + q) = v / 16 ^ q % 16 := by
  rw [memPly_add, Store.read_put_in _ _ _ _ (by omega) (by rw [length_numBytes]; omega), Nat.add_sub_cancel_left,
    numBytes_byte n v _ (by omega), nibble_of_byte]

/-! Lane values. -/

/-- Ply i of lane l is one of the 128 W plies of the layout (16 R287). -/
theorem lanePly_lt {w l i : Nat} (hl : l < 128) (hi : i < w) : l * w + i < 128 * w :=
  calc l * w + i < l * w + w := Nat.add_lt_add_left hi _
    _ = (l + 1) * w := (Nat.succ_mul l w).symm
    _ ≤ 128 * w := Nat.mul_le_mul_right w hl

/-- Ply i of lane l in the joined number of all lanes (16 R287). -/
theorem joinLanes_ply (w : Nat) (vals : List Nat) (l i : Nat) (hi : i < w) :
    joinLanes w vals / 16 ^ (l * w + i) % 16 = vals.getD l 0 / 16 ^ i % 16 := by
  have join : joinLanes w vals = vals.foldr (fun x acc => x % 16 ^ w + 16 ^ w * acc) 0 := by
    simp only [joinLanes, Nat.shiftLeft_eq, two_pow_four_mul, Nat.mul_comm (16 ^ w)]
  have lane := foldr_digit (16 ^ w) (· % 16 ^ w) (fun x => Nat.mod_lt x (Nat.pow_pos (by decide))) vals l
  have field : (vals.map (· % 16 ^ w)).getD l 0 = vals.getD l 0 % 16 ^ w := by
    rw [List.getD_eq_getElem?_getD, List.getD_eq_getElem?_getD, List.getElem?_map]
    cases vals[l]? with
    | none => exact (Nat.zero_mod _).symm
    | some x => rfl
  have low := digit_of_digit 16 w (vals.getD l 0) 0 i hi
  rw [Nat.pow_zero, Nat.div_one, Nat.zero_mul, Nat.zero_add] at low
  rw [← digit_of_digit 16 w _ l i hi, join, lane, field, low]

/-- Ply i of lane l of a split number (16 R287). -/
theorem splitLanes_ply (w v l i : Nat) (hl : l < 128) (hi : i < w) :
    (splitLanes w v).getD l 0 / 16 ^ i % 16 = v / 16 ^ (l * w + i) % 16 := by
  rw [← digit_of_digit 16 w v l i hi]
  simp [splitLanes, lanes, List.getD_eq_getElem?_getD, hl, Nat.shiftRight_eq_div_pow, Nat.pow_mul]

/-- Ply i of lane l of a vector operand (10 R170). -/
theorem Core.plyVals_ply (c : Core) (n w l i : Nat) (hl : l < 128) (hi : i < w) :
    (c.plyVals n w).getD l 0 / 16 ^ i % 16 = (Store.read c.plies (n + i)).toNat / 16 ^ l % 16 := by
  have lane : (c.plyVals n w).getD l 0
      = (List.range w).foldr (fun i acc => (Store.read c.plies (n + i)).toNat / 16 ^ l % 16 + 16 * acc) 0 := by
    simp [Core.plyVals, lanes, List.getD_eq_getElem?_getD, hl, List.foldr_map, Nat.shiftRight_eq_div_pow, two_pow_four_mul]
  rw [lane, foldr_digit 16 _ (fun i => Nat.mod_lt _ (by decide))]
  simp [List.getD_eq_getElem?_getD, hi]

/-- The bytes of a store of W plies: 64 W bytes whose nibble l*W + i is ply i of lane l (16 R287). -/
theorem Core.memPly_put_plyBytes (c : Core) (m : Store 8) (a n w l i : Nat) (hl : l < 128) (hi : i < w) :
    memPly (Store.put m a (c.plyBytes n w)) (2 * a + l * w + i) = (Store.read c.plies (n + i)).toNat / 16 ^ l % 16 := by
  have inside := lanePly_lt hl hi
  rw [Nat.add_assoc, Core.plyBytes, memPly_put_numBytes _ _ _ _ _ (by omega), joinLanes_ply _ _ _ _ hi,
    Core.plyVals_ply _ _ _ _ _ hl hi]

/-- Settles O28: a byte string is a number whose nibbles are the memory plies, and the join and the split of the lanes are inverse on
nibbles. -/
theorem vectorLayout : Obligations.VectorLayout := by
  refine ⟨fun c m a n w l i hl hi => ⟨length_numBytes _ _, c.memPly_put_plyBytes m a n w l i hl hi⟩,
    fun m a n w hm => ⟨_, rfl, fun l hl i hi => ?_⟩, fun m p n w hm => ⟨_, rfl, fun l hl i hi => ?_⟩⟩
  · have inside := lanePly_lt hl hi
    rw [splitLanes_ply w _ l i hl hi, Store.num_ply m a _ _ hm (by omega), ← Nat.add_assoc]
    rfl
  · have inside := lanePly_lt hl hi
    rw [splitLanes_ply w _ l i hl hi, Nat.shiftRight_eq_div_pow, two_pow_four_mul, Nat.div_div_eq_div_mul, ← Nat.pow_add,
      Store.num_ply m (p / 2) _ _ hm (by omega), show 2 * (p / 2) + (p % 2 + (l * w + i)) = p + l * w + i by omega]
    rfl

end Sys2Proof.Machine

/-! The integer forms of the V slots (17 R310, R311). -/

namespace Sys2Proof.Machine

/-! Integer encodings (12 R211). -/

/-- wrap (17 R311): an encoding of n bits is the word of the integer. -/
theorem intCode_eq_toNat (n : Nat) (i : Int) : intCode n i = (BitVec.ofInt n i).toNat := by
  simp [intCode, BitVec.toNat_ofInt]

theorem intCode_lt (n : Nat) (i : Int) : intCode n i < 2 ^ n := by
  rw [intCode_eq_toNat]
  exact BitVec.isLt _

theorem ofNat_intCode (n : Nat) (i : Int) : BitVec.ofNat n (intCode n i) = BitVec.ofInt n i := by
  rw [intCode_eq_toNat, BitVec.ofNat_toNat, BitVec.setWidth_eq]

theorem intVal_unsigned (n x : Nat) : intVal false n x = (BitVec.ofNat n x).toNat := rfl

theorem intVal_signed (n x : Nat) (hn : 0 < n) : intVal true n x = (BitVec.ofNat n x).toInt := by
  obtain ⟨k, rfl⟩ : ∃ k, n = k + 1 := ⟨n - 1, by omega⟩
  have half : 2 ^ k ≤ x % 2 ^ (k + 1) ↔ ¬ 2 * (x % 2 ^ (k + 1)) < 2 ^ (k + 1) := by rw [Nat.pow_succ']; omega
  simp only [intVal, BitVec.toInt, BitVec.toNat_ofNat, Nat.add_sub_cancel, Bool.true_and, decide_eq_true_eq, half, ite_not]
  norm_cast

/-- clamp (17 R311) into a range that is not empty. -/
theorem clampInt_eq_max_min {lo hi : Int} (h : lo ≤ hi) (x : Int) : clampInt lo hi x = max lo (min hi x) := by
  unfold clampInt
  split
  case isTrue => omega
  case isFalse => split <;> omega

theorem intMin_le_intMax (sgn : Bool) (n : Nat) : intMin sgn n ≤ intMax sgn n := by
  have half : (0 : Int) < 2 ^ (n - 1) := Int.pow_pos (by decide)
  have full : (0 : Int) < 2 ^ n := Int.pow_pos (by decide)
  cases sgn
  case false => exact Int.le_sub_one_of_lt full
  case true => exact Int.le_trans (Int.neg_nonpos_of_nonneg (Int.le_of_lt half)) (Int.le_sub_one_of_lt half)

theorem intMin_intSigned (v : VArgs) (n : Nat) : intMin (intSigned v) n = if v.sub = 0 then -(2 ^ (n - 1)) else 0 := by
  simp only [intMin, intSigned, decide_eq_true_eq]

theorem intMax_intSigned (v : VArgs) (n : Nat) :
    intMax (intSigned v) n = if v.sub = 0 then 2 ^ (n - 1) - 1 else 2 ^ n - 1 := by
  simp only [intMax, intSigned, decide_eq_true_eq]

/-- clamp (17 R311) into the range of an integer type. -/
theorem clampInt_range (v : VArgs) (n : Nat) (x : Int) :
    clampInt (intMin (intSigned v) n) (intMax (intSigned v) n) x
      = max (if v.sub = 0 then -(2 ^ (n - 1)) else 0) (min (if v.sub = 0 then 2 ^ (n - 1) - 1 else 2 ^ n - 1) x) := by
  rw [clampInt_eq_max_min (intMin_le_intMax _ n), intMin_intSigned, intMax_intSigned]

/-- The lesser of A and B (17 R311). -/
theorem ite_lt_eq_min (a b : Int) : (if b < a then b else a) = min a b := by
  split <;> omega

/-- The greater of A and B (17 R311). -/
theorem ite_lt_eq_max (a b : Int) : (if a < b then b else a) = max a b := by
  split <;> omega

theorem ofInt_natCast_getLsbD (n x k : Nat) (hk : k < n) : (BitVec.ofInt n (x : Int)).getLsbD k = x.testBit k := by
  rw [BitVec.ofInt_natCast, BitVec.getLsbD_ofNat, decide_eq_true hk, Bool.true_and]

/-- The bits of wrap(A) (17 R311). -/
theorem testBit_intCode (n k : Nat) (i : Int) : (intCode n i).testBit k = (BitVec.ofInt n i).getLsbD k := by
  rw [intCode_eq_toNat, BitVec.testBit_toNat]

/-- The bits of not wrap(B) (17 R311). -/
theorem testBit_not_intCode (n k : Nat) (i : Int) (hk : k < n) :
    (2 ^ n - 1 - intCode n i).testBit k = !(BitVec.ofInt n i).getLsbD k := by
  rw [Nat.sub_sub, Nat.add_comm, Nat.testBit_two_pow_sub_succ (intCode_lt n i), testBit_intCode, decide_eq_true hk, Bool.true_and]

/-! The bitwise forms, bit by bit (17 R311). -/

section Bitwise

variable {n k : Nat} (hk : k < n) (a b : Int)
include hk

theorem wrap_and : (BitVec.ofInt n (Nat.land (intCode n a) (intCode n b) : Nat)).getLsbD k
    = ((BitVec.ofInt n a).getLsbD k && (BitVec.ofInt n b).getLsbD k) := by
  rw [ofInt_natCast_getLsbD n _ k hk, ← testBit_intCode, ← testBit_intCode]
  exact Nat.testBit_and ..

theorem wrap_or : (BitVec.ofInt n (Nat.lor (intCode n a) (intCode n b) : Nat)).getLsbD k
    = ((BitVec.ofInt n a).getLsbD k || (BitVec.ofInt n b).getLsbD k) := by
  rw [ofInt_natCast_getLsbD n _ k hk, ← testBit_intCode, ← testBit_intCode]
  exact Nat.testBit_or ..

theorem wrap_xor : (BitVec.ofInt n (Nat.xor (intCode n a) (intCode n b) : Nat)).getLsbD k
    = xor ((BitVec.ofInt n a).getLsbD k) ((BitVec.ofInt n b).getLsbD k) := by
  rw [ofInt_natCast_getLsbD n _ k hk, ← testBit_intCode, ← testBit_intCode]
  exact Nat.testBit_xor ..

theorem wrap_andn : (BitVec.ofInt n (Nat.land (intCode n a) (2 ^ n - 1 - intCode n b) : Nat)).getLsbD k
    = ((BitVec.ofInt n a).getLsbD k && !(BitVec.ofInt n b).getLsbD k) := by
  rw [ofInt_natCast_getLsbD n _ k hk, ← testBit_intCode, ← testBit_not_intCode n k b hk]
  exact Nat.testBit_and ..

end Bitwise

/-! Values lane by lane. -/

theorem laneMap_getD {m : LaneMask} {l : Nat} (f : Nat → Nat) (hl : l < 128) (hm : m.getLsbD l = true) :
    (laneMap m f).getD l 0 = f l := by
  simp [laneMap, lanes, List.getD_eq_getElem?_getD, hl, hm]

theorem maskOf_lanes_getLsbD (f : Nat → Bool) (l : Nat) (hl : l < 128) : (maskOf (lanes.map f)).getLsbD l = f l := by
  have digit := foldr_digit 2 (fun b : Bool => if b then 1 else 0) (by decide) (lanes.map f) l
  have lane : ((lanes.map f).map fun b : Bool => if b then 1 else 0).getD l 0 = if f l then 1 else 0 := by
    simp [lanes, List.getD_eq_getElem?_getD, hl]
  rw [maskOf, BitVec.getLsbD_ofNat, decide_eq_true hl, Bool.true_and, Nat.testBit_eq_decide_div_mod_eq, digit, lane]
  cases f l <;> rfl

/-! Operands (17 R310, R311). -/

theorem widthOf_pos (code : Nat) : 0 < widthOf code := by
  unfold widthOf
  split <;> omega

theorem operandBits_pos (code : Nat) : 0 < 4 * widthOf code := Nat.mul_pos (by decide) (widthOf_pos code)

/-- The exact value of n bits under the signedness of the form (17 R311). -/
def exactInt (v : VArgs) (n x : Nat) : Int :=
  if v.sub = 0 then (BitVec.ofNat n x).toInt else ((BitVec.ofNat n x).toNat : Int)

/-- A of a lane (17 R311). -/
def exactA (v : VArgs) (c : Core) (l : Nat) : Int :=
  exactInt v (4 * widthOf v.sw) ((c.plyVals v.sa (widthOf v.sw)).getD l 0)

/-- B of a lane: the immediate when I = 1 (17 R311). -/
def exactB (v : VArgs) (c : Core) (l : Nat) : Int :=
  if v.b then exactInt v 11 v.sb else exactInt v (4 * widthOf v.sw) ((c.plyVals v.sb (widthOf v.sw)).getD l 0)

theorem intVal_eq_exactInt (v : VArgs) (n x : Nat) (hn : 0 < n) : intVal (intSigned v) n x = exactInt v n x := by
  unfold exactInt
  split
  case isTrue hs => rw [← intVal_signed n x hn, intSigned, decide_eq_true hs]
  case isFalse hs => rw [← intVal_unsigned, intSigned, decide_eq_false hs]

theorem intVal_eq_exactA (v : VArgs) (c : Core) (l : Nat) :
    intVal (intSigned v) (4 * widthOf v.sw) ((c.plyVals v.sa (widthOf v.sw)).getD l 0) = exactA v c l :=
  intVal_eq_exactInt v _ _ (operandBits_pos v.sw)

theorem intB_eq_exactB (v : VArgs) (c : Core) (l : Nat) :
    intB v (if v.b then [] else c.plyVals v.sb (widthOf v.sw)) l = exactB v c l := by
  unfold intB exactB
  split
  case isTrue => exact intVal_eq_exactInt v _ _ (by decide)
  case isFalse => exact intVal_eq_exactInt v _ _ (operandBits_pos v.sw)

/-! The shared forms. -/

/-- A ready form without ILLEGAL passes its checks. -/
theorem State.VReady.checks {s : State} {v : VArgs} {foot : List (Nat × Nat)} (h : s.VReady v foot) :
    vChecks v neverIllegal (fun _ => foot) s.curCore = [] := by
  have range : (foot.any fun f => 2048 < f.1 + f.2) = false := by
    simpa using fun a b hf => h.foot (a, b) hf
  have free : ¬ s.curCore.sched < s.curCore.vBusy v.port := Nat.not_lt.mpr h.free
  simp [vChecks, check, neverIllegal, range, free]

/-- A ready form whose effect is one landing. -/
theorem vRun_done {s : State} {v : VArgs} {foot : List (Nat × Nat)} (n : Nat) (d : LaneMask → Core → Dest)
    (h : s.VReady v foot) :
    vRun v neverIllegal (fun _ => foot) (fun _ => 1) (fun _ m c => c.push n (srcV v.port) (.land (d m c))) s
      = s.vDone v 1 n (d (s.curCore.guardLanes v.port v.guard) s.curCore) :=
  vRun_runs _ _ _ _ _ s h.lanes h.checks

/-- A ready form whose effect is one predicate: each lane's bit lands. -/
theorem vRun_landBits {s : State} {v : VArgs} {foot : List (Nat × Nat)} {f : Core → Nat → Bool} {test : Nat → Bool} (n : Nat)
    (h : s.VReady v foot) (hf : ∀ l, f s.curCore l = test l) :
    ∃ r, vRun v neverIllegal (fun _ => foot) (fun _ => 1) (fun _ m c => c.landBits v n m (f c)) s
        = s.vDone v 1 n (.pred v.dst (s.curCore.guardLanes v.port v.guard) r)
      ∧ ∀ l < 128, r.getLsbD l = test l :=
  ⟨_, vRun_done n (fun m c => .pred v.dst m (maskOf (lanes.map (f c)))) h,
    fun l hl => (maskOf_lanes_getLsbD _ l hl).trans (hf l)⟩

/-- Integers that land as N bits: each active lane receives the word of its integer. -/
theorem laneMap_intCode {m : LaneMask} {n : Nat} {i j : Nat → Int} (hij : ∀ l, i l = j l) :
    ∀ l < 128, m.getLsbD l = true → (laneMap m fun l => intCode n (i l)).getD l 0 < 2 ^ n
      ∧ BitVec.ofNat n ((laneMap m fun l => intCode n (i l)).getD l 0) = BitVec.ofInt n (j l) := by
  intro l hl hm
  rw [laneMap_getD _ hl hm, ← hij]
  exact ⟨intCode_lt _ _, ofNat_intCode _ _⟩

/-- The answer of a form that occupies its slot for one cycle and lands a word of N bits in the lanes of a mask, n cycles after issue
(17 R300, R311). -/
def LandsWords (v : VArgs) (s : State) (n : Nat) (m : LaneMask) (o : Out) (p : Nat → BitVec (4 * widthOf v.dw) → Prop) : Prop :=
  ∃ vals, o = s.vDone v 1 n (.plies v.dst (widthOf v.dw) m vals)
    ∧ ∀ l < 128, m.getLsbD l = true →
      vals.getD l 0 < 2 ^ (4 * widthOf v.dw) ∧ p l (BitVec.ofNat (4 * widthOf v.dw) (vals.getD l 0))

/-- A form of two sources: wrap(r) lands, where r is its function of A and B. -/
theorem intBinary_lands {s : State} {v : VArgs} {f : Bool → Nat → Int → Int → Int} {n : Nat} {r : Nat → Int}
    (h : s.VReady v (intFoot v))
    (hr : ∀ l, f (intSigned v) (4 * widthOf v.dw) (exactA v s.curCore l) (exactB v s.curCore l) = r l) :
    LandsWords v s n (s.curCore.guardLanes v.port v.guard) (intBinary f n v s)
      (fun l word => word = BitVec.ofInt (4 * widthOf v.dw) (r l)) :=
  ⟨_, vRun_done n _ h, laneMap_intCode fun l => by rw [intVal_eq_exactA, intB_eq_exactB, hr]⟩

/-- A bitwise form: wrap(A) and wrap(B) bit by bit. -/
theorem intBinary_lands_bits {s : State} {v : VArgs} {f : Bool → Nat → Int → Int → Int} {n : Nat} {test : Nat → Nat → Bool}
    (h : s.VReady v (intFoot v))
    (hb : ∀ l, ∀ k < 4 * widthOf v.dw, (BitVec.ofInt (4 * widthOf v.dw)
      (f (intSigned v) (4 * widthOf v.dw) (exactA v s.curCore l) (exactB v s.curCore l))).getLsbD k = test l k) :
    LandsWords v s n (s.curCore.guardLanes v.port v.guard) (intBinary f n v s)
      (fun l word => ∀ k < 4 * widthOf v.dw, word.getLsbD k = test l k) := by
  obtain ⟨vals, done, values⟩ := intBinary_lands (n := n) h fun _ => rfl
  refine ⟨vals, done, fun l hl hm => ?_⟩
  obtain ⟨lt, word⟩ := values l hl hm
  exact ⟨lt, word ▸ hb l⟩

/-- A form of one source: wrap(r) lands, where r is its function of A. -/
theorem intUnary_lands {s : State} {v : VArgs} {f : Nat → Int → Int} {mask : Core → LaneMask → LaneMask} {r : Nat → Int}
    (h : s.VReady v [(v.dst, widthOf v.dw), (v.sa, widthOf v.sw)])
    (hr : ∀ l, f (4 * widthOf v.dw) (exactA v s.curCore l) = r l) :
    LandsWords v s 2 (mask s.curCore (s.curCore.guardLanes v.port v.guard)) (intUnary f mask v s)
      (fun l word => word = BitVec.ofInt (4 * widthOf v.dw) (r l)) :=
  ⟨_, vRun_done 2 _ h, laneMap_intCode fun l => by rw [intVal_eq_exactA, hr]⟩

theorem execViMov_source (v : VArgs) (s : State) (hb : v.b = false) :
    execViMov v s = intUnary (fun _ a => a) (fun _ m => m) v s := by
  simp only [execViMov, hb, Bool.false_eq_true, if_false]

/-- mov of the immediate: wrap(B) lands (17 R311). -/
theorem execViMov_immediate_lands {s : State} {v : VArgs} (hb : v.b = true) (h : s.VReady v [(v.dst, widthOf v.dw)]) :
    LandsWords v s 2 (s.curCore.guardLanes v.port v.guard) (execViMov v s)
      (fun l word => word = BitVec.ofInt (4 * widthOf v.dw) (exactB v s.curCore l)) := by
  have immediate (l : Nat) : intVal (intSigned v) 11 v.sb = exactB v s.curCore l := by
    rw [intVal_eq_exactInt v _ _ (by decide), exactB, if_pos hb]
  rw [execViMov, if_pos hb]
  exact ⟨_, vRun_done 2 _ h, laneMap_intCode immediate⟩

/-- cmp: the condition of the exact values lands in each active lane (17 R311). -/
theorem execViCmp_lands {s : State} {v : VArgs}
    (h : s.VReady v ([(v.sa, widthOf v.sw)] ++ if v.b then [] else [(v.sb, widthOf v.sw)])) :
    ∃ r : LaneMask, execViCmp v s = s.vDone v 1 2 (.pred v.dst (s.curCore.guardLanes v.port v.guard) r)
      ∧ ∀ l < 128, r.getLsbD l = intCond v.dw (exactA v s.curCore l) (exactB v s.curCore l) :=
  vRun_landBits 2 h fun l => by rw [intVal_eq_exactA, intB_eq_exactB]

/-- The conditions of an integer compare (14 R256). -/
theorem intCond_iff (cond : Nat) (a b : Int) :
    (cond = 0 → (intCond cond a b = true ↔ a = b)) ∧ (cond = 1 → (intCond cond a b = true ↔ a ≠ b))
      ∧ (cond = 2 → (intCond cond a b = true ↔ a < b)) ∧ (cond = 3 → (intCond cond a b = true ↔ a ≤ b))
      ∧ (cond = 4 → (intCond cond a b = true ↔ b < a)) ∧ (cond = 5 → (intCond cond a b = true ↔ b ≤ a)) := by
  refine ⟨?_, ?_, ?_, ?_, ?_, ?_⟩ <;> rintro rfl <;> simp [intCond]

/-- Settles O38: every form is intBinary or intUnary of its function of the exact operands, whose result lands wrapped to N bits; cmp
lands the condition of the exact operands. -/
theorem vectorIntegers : Obligations.VectorIntegers := by
  intro v s
  dsimp only [exec]
  refine ⟨fun h => ?_, fun h => ?_, fun hb h => execViMov_immediate_lands hb h, fun h => ?_⟩
  · exact ⟨intBinary_lands h fun _ => rfl, intBinary_lands h fun _ => rfl, intBinary_lands h fun _ => rfl,
      intBinary_lands h fun _ => rfl,
      intBinary_lands h fun _ => clampInt_range v _ _, intBinary_lands h fun _ => clampInt_range v _ _,
      intBinary_lands h fun _ => clampInt_range v _ _,
      intBinary_lands h fun _ => ite_lt_eq_min _ _, intBinary_lands h fun _ => ite_lt_eq_max _ _,
      intBinary_lands_bits h fun _ _ hk => wrap_and hk _ _, intBinary_lands_bits h fun _ _ hk => wrap_or hk _ _,
      intBinary_lands_bits h fun _ _ hk => wrap_xor hk _ _, intBinary_lands_bits h fun _ _ hk => wrap_andn hk _ _,
      intBinary_lands h fun _ => rfl, intBinary_lands h fun _ => rfl⟩
  · exact ⟨intUnary_lands h fun _ => rfl, intUnary_lands h fun _ => rfl, intUnary_lands h fun _ => rfl,
      fun hb => execViMov_source v s hb ▸ intUnary_lands h fun _ => rfl⟩
  · obtain ⟨r, done, bits⟩ := execViCmp_lands h
    exact ⟨r, done, fun l hl _ => bits l hl ▸ intCond_iff v.dw _ _⟩

end Sys2Proof.Machine
